-- ==== Sys2Proof/Word.lean ====
section
/-!
DEFINITION. Word.lean: the words of the device and the cell, the device's smallest unit of storage.
A cell is 64 data bits together with its 8-bit tag (00_scope.md, "Numbers and units"; R20, R22 of
02_cells_tags_units.md).
-/

namespace Sys2Proof

/-- 64 data bits: a payload, a 64-bit register, an address while it is computed. -/
abbrev Word := BitVec 64

/-- One byte of data. -/
abbrev Byte := BitVec 8

/-- The tag byte of a cell (R22, R23). -/
abbrev Tag := BitVec 8

/-- A cell: a payload and its tag, which no path inside the device separates (R20). -/
structure Cell where
  tag : Tag
  data : Word
deriving DecidableEq, Repr, Inhabited

/-- The word of a natural number. -/
abbrev w64 (n : Nat) : Word := BitVec.ofNat 64 n

end Sys2Proof
end

