-- ==== Sys2Proof/Syntax.lean ====
section
/-!
DEFINITION. Syntax.lean: the commands of the block, one constructor per row of spec/opcode_table.json, with the row's
operands. A command that is a Caraerik instruction names the core whose front context executes it and carries the
fields of its encoding (R66 of 03_caraerik_programming_model.md).
-/

namespace Sys2Proof

/-- A core: 8 * cluster + core in the cluster (R114). -/
abbrev CoreId := Fin 64

/-- A 5-bit register field (R53, R66). -/
abbrev Gpr := Fin 32

/-- Who makes a register access or places a descriptor: a host function (0-7 the VFs, 8 the PF) or a core. -/
inductive Agent where
  | host (f : Fin 9)
  | core (k : CoreId)
deriving DecidableEq, Repr

/-- The level an input of the phase engine (R237), or ABORT_N (R325), has taken: high or low, for how many PHASE cycles it has held, and its stamp in
eighths of a PHASE cycle, of 250 ps each, into the present one. -/
structure PinLevel where
  high : Bool
  held : Nat
  eighth : Fin 8
deriving DecidableEq, Repr

/-- The kinds of memory access R158 names. -/
inductive Access where
  | load | store | cas | fetch
deriving DecidableEq, Repr

/-- A cache with software-visible controls: the L2 of a cluster or the system cache (R172). -/
inductive CacheId where
  | l2 (c : Fin 8)
  | sc
deriving DecidableEq, Repr

/-- Who makes a table walk: a core for an access, or the fabric translation unit for an IPA of a partition (R171). -/
inductive Walker where
  | core (k : CoreId) (acc : Access) (va : Word)
  | fabric (p : Fin 8) (ipa : Word)
deriving DecidableEq, Repr

/-- A structure that ECC or parity protects and the place of an error in it (R434): register cells (of the front or back
context, the CLOAK, the MANTLE, the progress latch), a control store, lines of the L1s by core, entries of the TLBs, walk
caches, the product cache or the predictors of a core by table and place, L2 and SC lines with the cell, the directory by
way, DDR cells of a line, a larder cell, a unit-table replica, another mirror, cells of a fabric transfer, a lane, PCIe. -/
inductive EccSite where
  | reg (k : CoreId) (inFront : Bool) (i : Fin 296)
  | cloak (k : CoreId) (inFront : Bool) (i : Fin 16)
  | mantle (k : CoreId) (i : Fin 16)
  | latch (k : CoreId) (inFront : Bool)
  | control (k : CoreId)
  | l1i (k : CoreId) (line : BitVec 38)
  | l1d (k : CoreId) (line : BitVec 38) (i : Fin 8)
  | entry (k : CoreId) (table : Fin 6) (i : Nat)
  | predictor (k : CoreId) (table : Fin 3) (i : Nat)
  | l2 (c : Fin 8) (line : BitVec 38) (i : Fin 8)
  | sc (line : BitVec 38) (i : Fin 8)
  | directory (w : Fin 16)
  | ddr (line : BitVec 32) (cells : BitVec 8)
  | larder (b : Fin 64) (i : Fin 32768)
  | unitTable (c : Fin 8)
  | mirror
  | fabric (line : BitVec 38) (cells : BitVec 8)
  | lane (l : Fin 8)
  | pcie
deriving DecidableEq, Repr


/-- The commands of the block. -/
inductive Instr where
  /-- REG_READ_LOW_HALF (R11). A 32-bit read of the low half of a 64-bit register returns it and loads the requester's half latch with the high half and the register offset. -/
  | regReadLowHalf (who : Agent) (off : BitVec 23)
  /-- REG_READ_HIGH_HALF (R11). A 32-bit read of the high half returns the latched value when the latch matches the offset, then empties the latch; otherwise it returns the present high half. -/
  | regReadHighHalf (who : Agent) (off : BitVec 23)
  /-- REG_BAD_ACCESS (R11). An unaligned, wrongly sized or mismatched register access completes normally: a read returns zero and a write changes nothing. -/
  | regBadAccess (who : Agent) (write : Bool) (off : BitVec 23) (size : Nat) (value : Word)
  /-- REGISTER_WRITE (R9). A write to a register field that has no row of its own, subject to access codes, LOCK bits and reserved-field rules. -/
  | registerWrite (who : Agent) (off : BitVec 23) (wide : Bool) (value : Word)
  /-- MOV (R82). Copies a whole cell with its tag; not a use. -/
  | mov (k : CoreId) (rd ra : Gpr)
  /-- ADDR (R82). Raw 64-bit wrapping add of FIX or RAW64 operands. -/
  | addr (k : CoreId) (rd ra rb : Gpr)
  /-- SUBR (R82). Raw 64-bit wrapping subtract. -/
  | subr (k : CoreId) (rd ra rb : Gpr)
  /-- AND (R82). Raw bitwise AND. -/
  | and (k : CoreId) (rd ra rb : Gpr)
  /-- OR (R82). Raw bitwise OR. -/
  | or (k : CoreId) (rd ra rb : Gpr)
  /-- XOR (R82). Raw bitwise XOR. -/
  | xor (k : CoreId) (rd ra rb : Gpr)
  /-- ANDN (R82). Raw AND with the complement of rb. -/
  | andn (k : CoreId) (rd ra rb : Gpr)
  /-- SHL (R82). Logical left shift by rb[5:0]. -/
  | shl (k : CoreId) (rd ra rb : Gpr)
  /-- SHR (R82). Logical right shift by rb[5:0]. -/
  | shr (k : CoreId) (rd ra rb : Gpr)
  /-- SAR (R82). Arithmetic right shift by rb[5:0]. -/
  | sar (k : CoreId) (rd ra rb : Gpr)
  /-- ROR (R82). Rotate right by rb[5:0]. -/
  | ror (k : CoreId) (rd ra rb : Gpr)
  /-- CMPEQR (R82). Writes TRUE if the payloads are equal, else NIL. -/
  | cmpeqr (k : CoreId) (rd ra rb : Gpr)
  /-- CMPLT (R82). Signed payload comparison giving TRUE or NIL. -/
  | cmplt (k : CoreId) (rd ra rb : Gpr)
  /-- CMPLTU (R82). Unsigned payload comparison giving TRUE or NIL. -/
  | cmpltu (k : CoreId) (rd ra rb : Gpr)
  /-- ADDI (R83). FIX add of a sign-extended immediate, raising FIX_OVERFLOW on overflow. -/
  | addi (k : CoreId) (rd ra : Gpr) (imm : BitVec 16)
  /-- ADDIW (R83). Wrapping add of an immediate to a FIX or RAW64 operand. -/
  | addiw (k : CoreId) (rd ra : Gpr) (imm : BitVec 16)
  /-- ANDI (R83). Bitwise AND with an immediate. -/
  | andi (k : CoreId) (rd ra : Gpr) (imm : BitVec 16)
  /-- ORI (R83). Bitwise OR with an immediate. -/
  | ori (k : CoreId) (rd ra : Gpr) (imm : BitVec 16)
  /-- XORI (R83). Bitwise XOR with an immediate. -/
  | xori (k : CoreId) (rd ra : Gpr) (imm : BitVec 16)
  /-- SHI (R83). Shift or rotate by an immediate amount and kind. -/
  | shi (k : CoreId) (rd ra : Gpr) (imm : BitVec 16)
  /-- CMPI (R83). Compares a FIX with an immediate, giving FIX -1, 0 or +1. -/
  | cmpi (k : CoreId) (rd ra : Gpr) (imm : BitVec 16)
  /-- MOVW (R83). Writes a sign-extended 21-bit immediate as a FIX. -/
  | movw (k : CoreId) (rd : Gpr) (imm : BitVec 21)
  /-- SHLW (R83). Shifts rd left by 21 and ORs in a 21-bit immediate, keeping the tag. -/
  | shlw (k : CoreId) (rd : Gpr) (imm : BitVec 21)
  /-- BFX (R84). Extracts a sign-extended bit field. -/
  | bfx (k : CoreId) (rd ra rb : Gpr)
  /-- BFXU (R84). Extracts a zero-extended bit field. -/
  | bfxu (k : CoreId) (rd ra rb : Gpr)
  /-- BFI (R84). Inserts a bit field into rd. -/
  | bfi (k : CoreId) (rd ra rb : Gpr)
  /-- CLZ (R84). Counts leading zeros. -/
  | clz (k : CoreId) (rd ra : Gpr)
  /-- CTZ (R84). Counts trailing zeros. -/
  | ctz (k : CoreId) (rd ra : Gpr)
  /-- POPC (R84). Counts one bits. -/
  | popc (k : CoreId) (rd ra : Gpr)
  /-- BPERM (R84). Permutes bytes of ra under the selector rb. -/
  | bperm (k : CoreId) (rd ra rb : Gpr)
  /-- MULS (R85). Signed 128-bit product into MH:ML. -/
  | muls (k : CoreId) (rd ra rb : Gpr)
  /-- MULU (R85). Unsigned 128-bit product into MH:ML. -/
  | mulu (k : CoreId) (rd ra rb : Gpr)
  /-- DIVS (R85). Signed divide giving quotient in ML and remainder in MH. -/
  | divs (k : CoreId) (rd ra rb : Gpr)
  /-- DIVU (R85). Unsigned divide giving quotient and remainder in MH:ML. -/
  | divu (k : CoreId) (rd ra rb : Gpr)
  /-- MH_ML_PRODUCT_WRITE (R64). Under CMODE.MULX = 1, the pending product is written to MH:ML at the end of the fourth CORE cycle after issue. -/
  | mhMlProductWrite (k : CoreId)
  /-- ADD (R30). Generic add dispatching on operand tags, including measurand and phase rules. -/
  | add (k : CoreId) (rd ra rb : Gpr)
  /-- SUB (R30). Generic subtract dispatching on operand tags. -/
  | sub (k : CoreId) (rd ra rb : Gpr)
  /-- MUL (R30). Generic multiply dispatching on operand tags; measurands yield the NAMED unit of the summed dimension. -/
  | mul (k : CoreId) (rd ra rb : Gpr)
  /-- DIV (R30). Generic divide dispatching on operand tags. -/
  | div (k : CoreId) (rd ra rb : Gpr)
  /-- EQ (R30). Generic equality comparison writing TRUE or NIL. -/
  | eq (k : CoreId) (rd ra rb : Gpr)
  /-- LT (R30). Generic less-than comparison writing TRUE or NIL. -/
  | lt (k : CoreId) (rd ra rb : Gpr)
  /-- LE (R30). Generic less-or-equal comparison writing TRUE or NIL. -/
  | le (k : CoreId) (rd ra rb : Gpr)
  /-- MKMEAS (R87). Makes a measurand from a FIX or FLO value and a unit index. -/
  | mkmeas (k : CoreId) (rd ra rb : Gpr)
  /-- MVAL (R87). Delivers the exact FLO value of a measurand. -/
  | mval (k : CoreId) (rd ra : Gpr)
  /-- MUNIT (R87). Delivers the unit index of a measurand. -/
  | munit (k : CoreId) (rd ra : Gpr)
  /-- MFLAG (R87). Delivers the quality flags of a measurand. -/
  | mflag (k : CoreId) (rd ra : Gpr)
  /-- QOR (R87). Sets quality flags of a measurand. -/
  | qor (k : CoreId) (rd ra rb : Gpr)
  /-- QCLR (R87). Clears quality flags of a measurand. -/
  | qclr (k : CoreId) (rd ra rb : Gpr)
  /-- CONV (R87). Converts a measurand to another unit of the same dimension or between a LOG unit and its NAMED unit. -/
  | conv (k : CoreId) (rd ra rb : Gpr)
  /-- MSQRT (R88). Square root of a FLO or measurand, halving the dimension. -/
  | msqrt (k : CoreId) (rd ra : Gpr)
  /-- UTSET (R39). Writes a unit-table entry into every replica and returns a status. -/
  | utset (k : CoreId) (rd ra rb : Gpr)
  /-- TAGR (R89). Delivers the tag of a cell as FIX; not a use. -/
  | tagr (k : CoreId) (rd ra : Gpr)
  /-- TCLS (R89). Delivers the class bits of a tag as FIX; not a use. -/
  | tcls (k : CoreId) (rd ra : Gpr)
  /-- TSET (R89). Gives a payload a new tag subject to level and reserved-tag rules. -/
  | tset (k : CoreId) (rd ra rb : Gpr)
  /-- BTAG (R66). Tag branch taken when the tag, or its class, matches. -/
  | btag (k : CoreId) (annul hint : Bool) (ra : Gpr) (m : Bool) (tag : BitVec 8) (disp : BitVec 10)
  /-- BNTAG (R66). Tag branch taken when the tag, or its class, does not match. -/
  | bntag (k : CoreId) (annul hint : Bool) (ra : Gpr) (m : Bool) (tag : BitVec 8) (disp : BitVec 10)
  /-- LDC (R91). Loads a whole cell, subject to the load barrier. -/
  | ldc (k : CoreId) (rd ra : Gpr) (imm : BitVec 16)
  /-- LDW (R21). Loads 32 bits sign-extended as FIX. -/
  | ldw (k : CoreId) (rd ra : Gpr) (imm : BitVec 16)
  /-- LDWU (R21). Loads 32 bits zero-extended as FIX. -/
  | ldwu (k : CoreId) (rd ra : Gpr) (imm : BitVec 16)
  /-- LDH (R21). Loads 16 bits sign-extended as FIX. -/
  | ldh (k : CoreId) (rd ra : Gpr) (imm : BitVec 16)
  /-- LDHU (R21). Loads 16 bits zero-extended as FIX. -/
  | ldhu (k : CoreId) (rd ra : Gpr) (imm : BitVec 16)
  /-- LDB (R21). Loads 8 bits sign-extended as FIX. -/
  | ldb (k : CoreId) (rd ra : Gpr) (imm : BitVec 16)
  /-- LDBU (R21). Loads 8 bits zero-extended as FIX. -/
  | ldbu (k : CoreId) (rd ra : Gpr) (imm : BitVec 16)
  /-- STC (R91). Stores a whole cell, subject to the store barrier. -/
  | stc (k : CoreId) (rd ra : Gpr) (imm : BitVec 16)
  /-- STW (R21). Stores the low 32 bits of rd into a cell under the sub-cell rules. -/
  | stw (k : CoreId) (rd ra : Gpr) (imm : BitVec 16)
  /-- STH (R21). Stores the low 16 bits of rd under the sub-cell rules. -/
  | sth (k : CoreId) (rd ra : Gpr) (imm : BitVec 16)
  /-- STB (R21). Stores the low 8 bits of rd under the sub-cell rules. -/
  | stb (k : CoreId) (rd ra : Gpr) (imm : BitVec 16)
  /-- CAS (R92). Atomically compares a memory cell with rd and stores rb on a bitwise match, returning the old cell. -/
  | cas (k : CoreId) (rd ra rb : Gpr) (fn : BitVec 11)
  /-- CAR (R93). Delivers cell 0 of a CONS pair. -/
  | car (k : CoreId) (rd ra : Gpr)
  /-- CDR (R93). Delivers cell 1 of a CONS pair. -/
  | cdr (k : CoreId) (rd ra : Gpr)
  /-- SETCAR (R93). Writes cell 0 of a CONS pair. -/
  | setcar (k : CoreId) (rd ra rb : Gpr)
  /-- SETCDR (R93). Writes cell 1 of a CONS pair. -/
  | setcdr (k : CoreId) (rd ra rb : Gpr)
  /-- EQQ (R93). Writes TRUE when tag and payload are identical. -/
  | eqq (k : CoreId) (rd ra rb : Gpr)
  /-- VLEN (R93). Delivers the length from an object's HEADER. -/
  | vlen (k : CoreId) (rd ra : Gpr)
  /-- VREF (R93). Delivers an element of an object, with bounds check. -/
  | vref (k : CoreId) (rd ra rb : Gpr)
  /-- VSET (R93). Writes an element of an object, with bounds check. -/
  | vset (k : CoreId) (rd ra rb : Gpr)
  /-- LWALK (R94). Long instruction taking the cdr of a list a given number of times. -/
  | lwalk (k : CoreId) (rd ra rb : Gpr)
  /-- MEMQ (R94). Long instruction finding the first sub-list whose car is EQQ to a key. -/
  | memq (k : CoreId) (rd ra rb : Gpr)
  /-- ASSQ (R94). Long instruction finding the first pair of an association list whose car is EQQ to a key. -/
  | assq (k : CoreId) (rd ra rb : Gpr)
  /-- BCOPY (R94). Long instruction copying a number of whole cells, line by line. -/
  | bcopy (k : CoreId) (rd ra rb : Gpr)
  /-- PHRD (R97). Reads the current phase of a source, or UNBOUND. -/
  | phrd (k : CoreId) (rd rb : Gpr)
  /-- PHAT (R97). Maps a device-time stamp to a source's phase from its history. -/
  | phat (k : CoreId) (rd ra rb : Gpr)
  /-- PHST (R97). Reads the lock state of a source. -/
  | phst (k : CoreId) (rd ra : Gpr)
  /-- PHMK (R97). Makes a PHASE cell from a Q32 or FIX number of revolutions. -/
  | phmk (k : CoreId) (rd ra rb : Gpr)
  /-- PHREV (R97). Delivers the whole revolutions of a phase as FIX. -/
  | phrev (k : CoreId) (rd ra : Gpr)
  /-- PHFR (R97). Delivers the fraction of a phase as Q32. -/
  | phfr (k : CoreId) (rd ra : Gpr)
  /-- NOP (R98). Does nothing. -/
  | nop (k : CoreId)
  /-- JMP (R98). Jumps through a CODEPTR or RETADDR, with a delay slot. -/
  | jmp (k : CoreId) (ra : Gpr)
  /-- JMPL (R98). Jumps and links a RETADDR into x0. -/
  | jmpl (k : CoreId) (ra : Gpr)
  /-- RET (R98). Jumps through the RETADDR in x0. -/
  | ret (k : CoreId)
  /-- CALL (R67). PC-relative call writing RETADDR into x0, with a delay slot. -/
  | call (k : CoreId) (disp : BitVec 26)
  /-- BA (R67). Register branch, always taken. -/
  | ba (k : CoreId) (annul hint : Bool) (ra : Gpr) (disp : BitVec 15)
  /-- BN (R67). Register branch, never taken. -/
  | bn (k : CoreId) (annul hint : Bool) (ra : Gpr) (disp : BitVec 15)
  /-- BNIL (R67). Branch when ra is NIL. -/
  | bnil (k : CoreId) (annul hint : Bool) (ra : Gpr) (disp : BitVec 15)
  /-- BNNIL (R67). Branch when ra is not NIL. -/
  | bnnil (k : CoreId) (annul hint : Bool) (ra : Gpr) (disp : BitVec 15)
  /-- BZ (R67). Branch when ra is a numeric zero. -/
  | bz (k : CoreId) (annul hint : Bool) (ra : Gpr) (disp : BitVec 15)
  /-- BNZ (R67). Branch when ra is not a numeric zero. -/
  | bnz (k : CoreId) (annul hint : Bool) (ra : Gpr) (disp : BitVec 15)
  /-- BLTZ (R67). Branch when ra is below zero. -/
  | bltz (k : CoreId) (annul hint : Bool) (ra : Gpr) (disp : BitVec 15)
  /-- BGEZ (R67). Branch when ra is at least zero. -/
  | bgez (k : CoreId) (annul hint : Bool) (ra : Gpr) (disp : BitVec 15)
  /-- BLEZ (R67). Branch when ra is at most zero. -/
  | blez (k : CoreId) (annul hint : Bool) (ra : Gpr) (disp : BitVec 15)
  /-- BGTZ (R67). Branch when ra is above zero. -/
  | bgtz (k : CoreId) (annul hint : Bool) (ra : Gpr) (disp : BitVec 15)
  /-- BNAN (R67). Branch when ra is a FLO or MEAS NaN. -/
  | bnan (k : CoreId) (annul hint : Bool) (ra : Gpr) (disp : BitVec 15)
  /-- ENTER (R55). Opens a frame in the next window or raises WOVF. -/
  | enter (k : CoreId)
  /-- LEAVE (R56). Returns the view to the caller's window or raises WUNF. -/
  | leave (k : CoreId)
  /-- SPILLW (R58). Stores the bottom window's frame to the CELLAR and releases it. -/
  | spillw (k : CoreId)
  /-- FILLW (R58). Restores the window below the bottom window from the CELLAR. -/
  | fillw (k : CoreId)
  /-- RETX (R120). Returns from the CLOAK or MANTLE, popping a push frame when needed. -/
  | retx (k : CoreId)
  /-- TRAP (R98). Raises SOFTWARE, or KCALL at level S or K with detail bit 9 set. -/
  | trap (k : CoreId) (detail : BitVec 10)
  /-- FENCE_M (R100). Orders memory accesses and waits for the merging buffer to drain. -/
  | fenceM (k : CoreId)
  /-- FENCE_P (R100). Waits until earlier phase-stamped posts are accepted and resolved. -/
  | fenceP (k : CoreId)
  /-- FENCE_T (R100). FENCE.M plus completion of this core's earlier TLBIs. -/
  | fenceT (k : CoreId)
  /-- FENCE_H (R100). FENCE.M plus visibility of earlier host-visible effects. -/
  | fenceH (k : CoreId)
  /-- MFS (R61). Reads a special register into rd. -/
  | mfs (k : CoreId) (rd ra : Gpr) (spr : BitVec 10)
  /-- MTS (R61). Writes a special register that has no row of its own. -/
  | mts (k : CoreId) (rd ra : Gpr) (spr : BitVec 10)
  /-- MTS_PSTAT (R105). Writes PSTAT under the level, EE and budget rules. -/
  | mtsPstat (k : CoreId) (rd ra : Gpr)
  /-- MTS_WSTAT (R57). Writes WSTAT, refused with ILLEGAL_OP when the window rules would break. -/
  | mtsWstat (k : CoreId) (rd ra : Gpr)
  /-- MTS_TPROG (R108). Writes TPROG, tagged CONT or VOID by its payload. -/
  | mtsTprog (k : CoreId) (rd ra : Gpr)
  /-- PRED_REKEY (R75). PRED_CTL.REKEY draws a new scramble key for the context. -/
  | predRekey (k : CoreId) (rd ra : Gpr)
  /-- PRED_FLUSH (R78). PRED_CTL.FLUSH invalidates the prediction tables and clears the context's history and return stack. -/
  | predFlush (k : CoreId) (rd ra : Gpr)
  /-- WAIT (R133). Returns a pending wake code or blocks the task until one arrives. -/
  | wait (k : CoreId) (rd ra : Gpr)
  /-- YIELD (R135). Offers the core to the best candidate of an equal or higher band. -/
  | yieldCore (k : CoreId)
  /-- SEND (R143). Sends a 4-cell message to a task or core target, with epoch checking. -/
  | send (k : CoreId) (rd ra rb : Gpr)
  /-- RECV (R144). Takes the oldest bounce or message, or returns EMPTY. -/
  | recv (k : CoreId) (rd rb : Gpr)
  /-- POST (R103). Copies a descriptor into a device queue and returns the queue's status. -/
  | post (k : CoreId) (rd ra rb : Gpr)
  /-- TLBI_VA (R164). Invalidates stage-1 leaves and walk-cache entries of a page. -/
  | tlbiVa (k : CoreId) (ra rb : Gpr)
  /-- TLBI_ASID (R164). Invalidates non-global entries of an ASID. -/
  | tlbiAsid (k : CoreId) (rb : Gpr)
  /-- TLBI_SPACE (R164). Invalidates every entry of the issuer's space. -/
  | tlbiSpace (k : CoreId)
  /-- TLBI_IPA (R164). Invalidates stage-2 walk-cache entries of an IPA and all combined leaves of a partition. -/
  | tlbiIpa (k : CoreId) (ra rb : Gpr)
  /-- TLBI_PART (R164). Invalidates every entry of a partition. -/
  | tlbiPart (k : CoreId) (rb : Gpr)
  /-- TLBI_KS (R164). Invalidates K-space entries covering an address. -/
  | tlbiKs (k : CoreId) (ra : Gpr)
  /-- TLBI_ALL (R164). Invalidates every entry of every space. -/
  | tlbiAll (k : CoreId)
  /-- TLBI_COMPLETE (R165). A broadcast TLBI completes on every core and the fabric translation unit. -/
  | tlbiComplete (k : CoreId)
  /-- XPROBE (R170). Translates an address without access or fault and reports the result. -/
  | xprobe (k : CoreId) (rd ra rb : Gpr)
  /-- TABLE_WALK (R156). A TLB miss walks the stage-1, stage-2 or K-space tables and fills the TLBs or faults. -/
  | tableWalk (w : Walker)
  /-- LINE_FILL (R180). A cache miss completes when the whole line has arrived and the requester restarts. -/
  | lineFill (k : CoreId) (acc : Access) (va : Word)
  /-- MERGE_BUFFER_DRAIN (R177). A merging-buffer entry drains to the L2 or coherence point when full, aged 64 cycles, fenced or partly loaded. -/
  | mergeBufferDrain (k : CoreId)
  /-- WBC_WRITEBACK (R178). A dirty WBC line leaves the L1D through a victim entry and is written back. -/
  | wbcWriteback (k : CoreId) (line : BitVec 38) (failed : Bool)
  /-- STORE_ERROR (R110). A store that fails after leaving the merging buffer raises event 0 at its core. -/
  | storeError (k : CoreId) (origin : BitVec 8) (pa : BitVec 44) (cells : BitVec 8)
  /-- CCLEAN (R182). Writes back a line from every cache holding it dirty. -/
  | cclean (k : CoreId) (rd ra rb : Gpr)
  /-- CFLUSH (R182). Cleans and invalidates a line in every cache. -/
  | cflush (k : CoreId) (rd ra rb : Gpr)
  /-- CINV (R182). Invalidates a line, discarding dirty data only at level K. -/
  | cinv (k : CoreId) (rd ra rb : Gpr)
  /-- CPRE (R187). Preloads a line into a locked slot and returns a status. -/
  | cpre (k : CoreId) (rd ra rb : Gpr)
  /-- CMR (R183). Starts a range maintenance operation on the core's maintenance engine. -/
  | cmr (k : CoreId) (rd ra rb : Gpr)
  /-- CMR_COMPLETE (R183). A range operation finishes or stops on a fault, optionally setting wake code 3. -/
  | cmrComplete (k : CoreId)
  /-- CSW (R184). Cleans, flushes or invalidates one set and way of a cache. -/
  | csw (k : CoreId) (rd ra rb : Gpr)
  /-- CACHE_DISABLE (R188). Writing EN = DISABLED starts a clean-and-invalidate sweep of the cache. -/
  | cacheDisable (c : CacheId)
  /-- CACHE_ENABLE (R188). Writing EN = ENABLED while DISABLED enables the cache at once. -/
  | cacheEnable (c : CacheId)
  /-- CACHE_SWEEP_DONE (R188). A disable, lock or way-disable sweep ends and the cache or way takes its new state. -/
  | cacheSweepDone (c : CacheId)
  /-- WAY_LOCK (R186). Writing LOCK = 1 flushes a way and then locks it empty. -/
  | wayLock (c : CacheId) (w : Fin 12)
  /-- WAY_UNLOCK (R186). Writing LOCK = 0 turns the way's lines into ordinary lines in place. -/
  | wayUnlock (c : CacheId) (w : Fin 12)
  /-- WAY_DISABLE (R189). Writing DIS = 1 sweeps and disables a way. -/
  | wayDisable (c : CacheId) (w : Fin 16)
  /-- WAY_ENABLE (R189). Writing DIS = 0 re-enables a way. -/
  | wayEnable (c : CacheId) (w : Fin 16)
  /-- LARDER_POWER_REQUEST (R193). A PREQ write requests ON, RETENTION or OFF for a larder bank, or is refused. -/
  | larderPowerRequest (b : Fin 64) (preq : BitVec 2)
  /-- LARDER_TRANSITION_DONE (R193). A bank's power transition ends and PST leaves CHANGING. -/
  | larderTransitionDone (b : Fin 64)
  /-- LARD_HASH_KEY_WRITE (R194). Writes a cluster's interleave key, effective only while all eight banks are POOL. -/
  | lardHashKeyWrite (c : Fin 8) (key : BitVec 36)
  /-- DARNING_STEP (R195). Tests, scrubs and writes back one larder row, holding the bank for up to 1,336 LARDER cycles. -/
  | darningStep (b : Fin 64) (fixed lost : List (Fin 64)) (bad : Bool)
  /-- DDR_TRAINING_DONE (R202). Training ends and every line is initialised with VOID cells, or STATE reads FAILED. -/
  | ddrTrainingDone (ok : Bool) (size : Fin 9)
  /-- DDR_INIT_DONE (R202). Initialisation ends and MEM_STAT reads READY. -/
  | ddrInitDone (ok : Bool)
  /-- DRAM_REFRESH (R203). A same-bank refresh is issued every tREFI. -/
  | dramRefresh (sub : Fin 8)
  /-- DRAM_TEMP_ALERT (R203). The DRAM reports a temperature above 85 °C or back below it, halving or restoring tREFI. -/
  | dramTempAlert (hot : Bool)
  /-- PATROL_SCRUB (R204). The patrol scrubber reads a line and writes back a corrected or POISON line. -/
  | patrolScrub (line : BitVec 32) (bad : BitVec 8) (corrected : Bool)
  /-- MEM_SKEW_WINDOW (R201). At the end of each 1 µs window the skew counter and event threshold are evaluated. -/
  | memSkewWindow (lines : List Nat)
  /-- ALLOC (R213). Allocates an object from the allocation buffer and returns a pointer. -/
  | alloc (k : CoreId) (rd ra rb : Gpr)
  /-- SHADE (R219). Applies the current phase's register action to a copy of ra. -/
  | shade (k : CoreId) (rd ra : Gpr)
  /-- ROOT_SWEEP (R218). At an idle instruction boundary one unscanned register unit is scanned. -/
  | rootSweep (k : CoreId) (inFront : Bool) (unit : Fin 34)
  /-- RACK_ADD (R231). Makes a range of racks FREE, to be wiped before use. -/
  | rackAdd (who : Agent) (desc : List Cell)
  /-- RACK_REMOVE (R231). Makes a range of FREE racks OFFLINE. -/
  | rackRemove (who : Agent) (desc : List Cell)
  /-- NCYCLE (R231). Starts a nursery cycle. -/
  | ncycle (who : Agent) (desc : List Cell)
  /-- MCYCLE (R231). Starts a mature cycle. -/
  | mcycle (who : Agent) (desc : List Cell)
  /-- ALLOC_LARGE (R231). Allocates a large object in contiguous FREE racks and wakes the task. -/
  | allocLarge (who : Agent) (desc : List Cell)
  /-- LAUNDRY_FLIP (R215). A partition enters NCOPY, MARK or EVAC, reserving racks or failing with NO_RESERVE. -/
  | laundryFlip (p : Fin 8)
  /-- LAUNDRY_SLICE (R227). LAUNDRY scans or copies for one partition during a 4,096-cycle slice. -/
  | laundrySlice (p : Fin 8)
  /-- LAUNDRY_PHASE_END (R215). A phase ends when roots and queues are done, freeing or walking condemned racks. -/
  | laundryPhaseEnd (p : Fin 8)
  /-- RACK_WIPE_DONE (R208). Every cell of a freed or added rack has been written VOID and the rack becomes usable. -/
  | rackWipeDone (p : Fin 8) (rack : BitVec 16)
  /-- EVENT_ENTRY (R115). A pending event whose level permits is taken at an instruction or step boundary. -/
  | eventEntry (k : CoreId)
  /-- NIB_EXPIRY (R116). The non-interruptible budget reaches zero and EE and NIB_EXPIRED are set. -/
  | nibExpiry (k : CoreId)
  /-- TASK_START (R130). Control command START makes a FREE or FAULTED task READY. -/
  | taskStart (who : Agent) (cl : Fin 8) (desc : List Cell)
  /-- TASK_HOLD (R130). Control command HOLD makes a task HELD, recording its prior state. -/
  | taskHold (who : Agent) (cl : Fin 8) (desc : List Cell)
  /-- TASK_RELEASE (R130). Control command RELEASE returns a HELD task to its prior state. -/
  | taskRelease (who : Agent) (cl : Fin 8) (desc : List Cell)
  /-- TASK_KILL (R130). Control command KILL makes a task FREE and increments its epoch. -/
  | taskKill (who : Agent) (cl : Fin 8) (desc : List Cell)
  /-- TASK_REROLE (R130). Control command REROLE increments a task's epoch, bouncing its queued messages. -/
  | taskRerole (who : Agent) (cl : Fin 8) (desc : List Cell)
  /-- TASK_WAKE (R130). Control command WAKE sets the SUPERVISOR wake code pending. -/
  | taskWake (who : Agent) (cl : Fin 8) (desc : List Cell)
  /-- DISPATCH_SWITCH (R134). The dispatcher switches the best candidate into an idle or preempted core's front context. -/
  | dispatchSwitch (cl : Fin 8)
  /-- BACK_CONTEXT_LOAD (R137). A chosen task's TCB and current frame are loaded into a back context. -/
  | backContextLoad (k : CoreId)
  /-- CONTEXT_DRAIN (R138). A back context's task is lazily spilled to its TCB and CELLAR, or faults. -/
  | contextDrain (k : CoreId)
  /-- PART_CLAIM (R147). GLB_PART_CTL.CLAIM moves a partition from FREE to CONFIG. -/
  | partClaim (p : Fin 8)
  /-- PART_START (R148). GLB_PART_CTL.START initialises the TCBs, loads the cores and begins the supervisor. -/
  | partStart (p : Fin 8)
  /-- PART_RESET (R149). GLB_PART_CTL.RESET stops the partition's cores and releases its work. -/
  | partReset (p : Fin 8)
  /-- PART_RESET_DONE (R149). The partition reset finishes and STATE reads CONFIG. -/
  | partResetDone (p : Fin 8)
  /-- PART_RELEASE (R147). GLB_PART_CTL.RELEASE returns a CONFIG partition with no resources to FREE. -/
  | partRelease (p : Fin 8)
  /-- CORE_MOVE (R150). A write to CLU_CORE_PART changing ownership starts moving a core. -/
  | coreMove (who : Agent) (k : CoreId) (assign : Bool) (p : Fin 8)
  /-- CORE_MOVE_DONE (R150). The move finishes with contexts drained, epoch incremented and new partition state loaded. -/
  | coreMoveDone (k : CoreId)
  /-- ENCODER_EDGE (R240). An encoder count updates the tracking loop, lock state and rejection counts. -/
  | encoderEdge (e : Fin 8) (a b z : PinLevel)
  /-- MAINS_CROSSING (R237). An accepted mains zero crossing updates its source after the hold-off. -/
  | mainsCrossing (m : Fin 2) (rising : PinLevel)
  /-- SYNC_IN_EDGE (R240). An active SYNC_IN edge feeds a SYNC source and PPS discipline. -/
  | syncInEdge (rising : PinLevel)
  /-- EDGE_TIMEOUT (R241). No accepted edge for GAPK intervals moves a LOCKED source to COASTING or LOST. -/
  | edgeTimeout (src : Fin 15)
  /-- COAST_EXPIRY (R241). COAST_MAX elapses and a COASTING source becomes LOST. -/
  | coastExpiry (src : Fin 15)
  /-- PHASE_SRC_ENABLE (R239). Writing EN = 1 starts acquisition of a source, or is ignored for an illegal DERIVED source. -/
  | phaseSrcEnable (who : Agent) (src : Fin 15) (value : BitVec 32)
  /-- PHASE_SRC_DISABLE (R239). Writing EN = 0 leaves the source ACQUIRING with no estimate and clears its history. -/
  | phaseSrcDisable (who : Agent) (src : Fin 15) (value : BitVec 32)
  /-- PHASE_SRC_RESTART (R241). RESTART moves a LOST source to ACQUIRING and increments GEN. -/
  | phaseSrcRestart (who : Agent) (src : Fin 15) (value : BitVec 32)
  /-- NCO_RATE_WRITE (R239). A new NCO rate takes effect at the next PHASE cycle without a step. -/
  | ncoRateWrite (who : Agent) (src : Fin 15) (rate : Word)
  /-- PHASE_SRC_OWN_WRITE (R256). Changing a source's owner or READ bits removes the affected alarms with REVOKED. -/
  | phaseSrcOwnWrite (who : Agent) (src : Fin 15) (value : BitVec 32)
  /-- HISTORY_RECORD (R244). Each enabled source records a history entry every history period. -/
  | historyRecord (src : Fin 16)
  /-- DT_DISCIPLINE (R247). Device-time rate is steered from XB or PPS edges. -/
  | dtDiscipline (interval : Word)
  /-- DT_HOLDOVER (R247). Reference edges absent for 2 s put discipline into HOLDOVER. -/
  | dtHoldover
  /-- ALARM_ARM (R249). ARM posts an alarm to the calendar after ordered checks. -/
  | alarmArm (who : Agent) (desc : List Cell)
  /-- ALARM_CANCEL (R256). CANCEL removes a partition's alarms with a given ID. -/
  | alarmCancel (who : Agent) (desc : List Cell)
  /-- PCLASS_RESOLVE (R251). A PCLASS alarm within 32 PHASE cycles of DUE is resolved to its device-time instant. -/
  | pclassResolve
  /-- ALARM_FIRE (R250). An alarm reaches DUE and performs its action, repeating or removing itself. -/
  | alarmFire
  /-- SYNC_OUT_PULSE (R259). SYNC_OUT emits a pulse in DIVIDED or PPS mode at its due instant. -/
  | syncOutPulse
  /-- RSMP_START (R265). Starts a resampler job on a slot after ownership, form and admission checks. -/
  | rsmpStart (who : Agent) (u : Fin 8) (desc : List Cell)
  /-- RSMP_STOP (R265). Ends a resampler job at once with STOPPED. -/
  | rsmpStop (who : Agent) (u : Fin 8) (desc : List Cell)
  /-- RSMP_BLOCK_WRITE (R269). A block whose inputs are complete is computed and written to the output ring. -/
  | rsmpBlockWrite (u : Fin 8) (slot : Fin 4)
  /-- SPEC_RUN (R272). Posts one spectral execution now. -/
  | specRun (who : Agent) (e : Fin 16) (desc : List Cell)
  /-- SPEC_ARM (R272). Arms a spectral slot for one execution per trigger. -/
  | specArm (who : Agent) (e : Fin 16) (desc : List Cell)
  /-- SPEC_DISARM (R272). Disarms a spectral slot, letting a running execution finish, then writes STOPPED. -/
  | specDisarm (who : Agent) (e : Fin 16) (desc : List Cell)
  /-- SPEC_RESET_AVG (R272). Clears a slot's average after its current execution. -/
  | specResetAvg (who : Agent) (e : Fin 16) (desc : List Cell)
  /-- SPEC_EXEC_START (R280). A free engine starts the ready execution of highest class. -/
  | specExecStart (e : Fin 16)
  /-- SPEC_EXEC_DONE (R281). An execution completes, writes its results, status record and wake. -/
  | specExecDone (e : Fin 16)
  /-- SPEC_LATE_DROP (R280). An execution not started within its LATE limit is dropped and reported LATE. -/
  | specLateDrop (e slot : Fin 16)
  /-- ENGINE_OWN_WRITE (R282). Changing the owner of a unit or engine stops its jobs as a partition reset would. -/
  | engineOwnWrite (who : Agent) (u : Fin 24) (value : BitVec 32)
  /-- LANE_ENABLE (R291). Writing EN = 1 moves a lane from OFF to SEEK. -/
  | laneEnable (who : Agent) (lane : Fin 8) (value : BitVec 32)
  /-- LANE_DISABLE (R291). Writing EN = 0 moves a lane to OFF and electrical idle. -/
  | laneDisable (who : Agent) (lane : Fin 8) (value : BitVec 32)
  /-- BLOCK_LOCK (R291). Clause 49 block lock at the seek rate moves a lane to CAPX. -/
  | blockLock (lane : Fin 8)
  /-- SEEK_RATE_TIMEOUT (R291). 20 ms without lock under RATE = AUTO alternates the seek rate. -/
  | seekRateTimeout (lane : Fin 8)
  /-- CAP_SEND (R292). In CAPX a LINK CAP bundle is sent every 100 µs. -/
  | capSend (lane : Fin 8)
  /-- CAPX_TIMEOUT (R291). 10 ms in CAPX makes the lane FAILED. -/
  | capxTimeout (lane : Fin 8)
  /-- LANE_FAIL (R291). Loss of lock, high error ratio or 30 µs without a bundle makes an ACTIVE lane FAILED. -/
  | laneFail (lane : Fin 8)
  /-- FAILED_RETRY_TIMEOUT (R291). 10 ms in FAILED with AUTO = 1 returns the lane to SEEK. -/
  | failedRetryTimeout (lane : Fin 8)
  /-- BUNDLE_RECEIVE (R287). A received bundle is checked, sequenced, delivered, held or discarded, and its ACK used. -/
  | bundleReceive (lane : Fin 8) (blocks : Bool) (hdr payload : List Word) (crc : BitVec 32)
  /-- ACK_SEND (R288). A cumulative acknowledgement is sent within 2 µs in a bundle or heartbeat. -/
  | ackSend (lane : Fin 8)
  /-- HEARTBEAT_SEND (R288). An ACTIVE lane sends some bundle at least every 10 µs. -/
  | heartbeatSend (lane : Fin 8)
  /-- REPLAY_TIMEOUT (R289). An unacknowledged bundle older than RTO is resent with those after it; repeated NAKs also follow RTO. -/
  | replayTimeout (link : Fin 8)
  /-- TSYNC_START (R294). Every PER µs a TS_REQ exchange starts on each timed lane. -/
  | tsyncStart (lane : Fin 8)
  /-- TS_RSP_RECEIVE (R295). A TS_RSP gives offset and delay, and an accepted exchange sends TS_ADJ and updates TSTATE. -/
  | tsRspReceive (lane : Fin 8) (exch : BitVec 32) (t2 t3 : Word)
  /-- TSYNC_TIMEOUT (R294). An exchange without TS_RSP within 1 ms is discarded. -/
  | tsyncTimeout (lane : Fin 8)
  /-- CONFIG_READ (R308). POST to queue 0x48 sends a pod READ configuration request. -/
  | configRead (who : Agent) (desc : List Cell)
  /-- CONFIG_WRITE (R308). POST to queue 0x48 sends a pod WRITE configuration request. -/
  | configWrite (who : Agent) (desc : List Cell)
  /-- CONFIG_TIMEOUT (R308). A request without response for 10 ms completes with TIMEOUT. -/
  | configTimeout (link : Fin 8)
  /-- BOND_ENABLE (R310). Writing SFL_BOND EN = 1 sends LINK BOND on the qualifying members. -/
  | bondEnable (who : Agent) (g : Fin 8) (value : BitVec 32)
  /-- CHANNEL_VALIDATE (R313). Writing V = 1 to a channel entry validates it unless the link load would exceed its limit. -/
  | channelValidate (who : Agent) (n : Fin 16384) (value : Word)
  /-- CHANNEL_INVALIDATE (R313). Writing V = 0 stops writes to the ring after the current sample. -/
  | channelInvalidate (who : Agent) (n : Fin 16384) (value : Word)
  /-- DRIVE_FRAME (R322). POST FRAME queues drive parameters for an ARMED output at a due phase. -/
  | driveFrame (who : Agent) (desc : List Cell)
  /-- DRIVE_ARM (R329). POST ARM makes an output ARMED when every arming condition holds. -/
  | driveArm (who : Agent) (desc : List Cell)
  /-- DRIVE_DISARM (R325). POST DISARM starts the ramp of one output. -/
  | driveDisarm (who : Agent) (desc : List Cell)
  /-- DRIVE_ABORT (R325). POST ABORT is a PART trigger ramping the partition's armed outputs. -/
  | driveAbort (who : Agent) (desc : List Cell)
  /-- DRIVE_CLEAR (R329). POST CLEAR clears the partition's abort latch. -/
  | driveClear (who : Agent) (desc : List Cell)
  /-- FRAME_RESOLVE (R323). A frame within LEAD + 2 grid intervals of DUE is resolved to its application instant. -/
  | frameResolve (o : Fin 64)
  /-- DRIVE_FRAME_APPLY (R323). At t_app the frame's parameters take over the output's signal. -/
  | driveFrameApply (o : Fin 64)
  /-- DRIVE_SAMPLE_SEND (R323). Samples LEAD grid intervals ahead are synthesised, checked and sent in DRIVE sections. -/
  | driveSampleSend (o : Fin 64)
  /-- ABORT_N_LOW (R325). ABORT_N low past its filter is a device-scope trigger. -/
  | abortNLow (level : PinLevel)
  /-- DRIVE_SOFT_ABORT (R325). Writing DRV_GCTL.ABORT = 1 is a SOFT device-scope trigger. -/
  | driveSoftAbort (who : Agent) (value : BitVec 32)
  /-- DRIVE_WDOG_TIMEOUT (R325). No frame applied for WDOG triggers a ramp of the partition. -/
  | driveWdogTimeout (o : Fin 64)
  /-- RAMP_END (R326). At the end of RAMP the output becomes DISARMED and sends zeros. -/
  | rampEnd (o : Fin 64)
  /-- CMD_DOORBELL (R341). A command-ring producer doorbell records P when acceptable. -/
  | cmdDoorbell (f : Fin 9) (ring : Fin 8) (value : Word)
  /-- COMPLETION_DOORBELL (R341). A completion consumer doorbell frees completions and journal records below HC. -/
  | completionDoorbell (f : Fin 9) (ring : Fin 8) (value : Word)
  /-- RECORD_DOORBELL (R341). A record consumer doorbell frees records and data below HR. -/
  | recordDoorbell (f : Fin 9) (ring : Fin 4) (value : Word)
  /-- TASK_DOORBELL (R342). A task doorbell sets wake code 2 in the bound task, or raises HOST_DB on the PF. -/
  | taskDoorbell (f : Fin 9) (slot : Fin 256)
  /-- VERSION_REQUEST (R336). A write of HIF_FN_NEG.REQ sets the agreed interface version or is refused. -/
  | versionRequest (f : Fin 9) (value : BitVec 32)
  /-- FN_ATTACH (R337). HIF_FN_CTL.ATTACH moves a function from DETACHED to RUNNING. -/
  | fnAttach (f : Fin 9) (value : BitVec 32)
  /-- FN_DETACH (R337). HIF_FN_CTL.DETACH moves a quiescent function to DETACHED. -/
  | fnDetach (f : Fin 9) (value : BitVec 32)
  /-- FN_RESTORE (R364). HIF_FN_CTL.RESTORE rebuilds the ATTIC from the host journal and enters RECOVER. -/
  | fnRestore (f : Fin 9) (recs : List (List Word))
  /-- FN_RESUME (R363). HIF_FN_CTL.RESUME writes pending completions and records and resumes acceptance. -/
  | fnResume (f : Fin 9) (value : BitVec 32)
  /-- DESCRIPTOR_FETCH (R351). Ready descriptors are read from host memory, checked and accepted or refused. -/
  | descriptorFetch (f : Fin 9) (ring : Fin 8) (words : List Word)
  /-- JOURNAL_FLUSH_DONE (R351). The journal flush read completes and the accepted command's effect begins. -/
  | journalFlushDone (f : Fin 9)
  /-- HOST_NOP (R344). Host NOP completes on acceptance. -/
  | hostNop (f : Fin 9) (ring : Fin 8)
  /-- HOST_FENCE (R349). Host FENCE holds later commands until its condition holds. -/
  | hostFence (f : Fin 9) (ring : Fin 8)
  /-- IDENTIFY (R344). Returns GLB_ID and MCVER in the completion. -/
  | identify (f : Fin 9) (ring : Fin 8)
  /-- HOST_WRITE (R345). Moves bytes from host memory into device memory in RAW or TAGGED mode. -/
  | hostWrite (f : Fin 9) (ring : Fin 8) (bytes : List (BitVec 8)) (bad : Bool)
  /-- HOST_READ (R345). Moves bytes from device memory to host memory. -/
  | hostRead (f : Fin 9) (ring : Fin 8) (bad : Bool)
  /-- HOST_POST (R345). Places a descriptor into a device queue with the function's rights. -/
  | hostPost (f : Fin 9) (ring : Fin 8)
  /-- BIND (R346). Binds or unbinds a task doorbell slot. -/
  | bind (f : Fin 9) (ring : Fin 8)
  /-- EXPORT (R347). Starts or stops copying stream samples into a record ring. -/
  | exportStream (f : Fin 9) (ring : Fin 8)
  /-- FW (R348). Places a firmware command in the function's inbox. -/
  | fw (f : Fin 9) (ring : Fin 8)
  /-- COMMAND_DONE (R351). A command's effect ends and its DONE record is journalled. -/
  | commandDone (f : Fin 9) (ring : Fin 8)
  /-- COMPLETION_POST (R352). A completion is written once every earlier completion of the ring is written. -/
  | completionPost (f : Fin 9) (ring : Fin 8)
  /-- EXPORT_RECORD (R347). An export record of NS samples per channel is assembled and written, or waits or records a GAP. -/
  | exportRecord (f : Fin 9) (first : Fin 16384)
  /-- FW_FETCH (R348). Queue 0x50 FETCH hands the oldest unfetched FW command to firmware. -/
  | fwFetch (k : CoreId) (desc : List Cell)
  /-- FW_COMPLETE (R348). Queue 0x50 COMPLETE completes a fetched FW command with firmware's values. -/
  | fwComplete (k : CoreId) (desc : List Cell)
  /-- TASK_RECORD (R357). Queue 0x51 POST writes a TASK record to a record ring or returns FULL. -/
  | taskRecord (k : CoreId) (desc : List Cell)
  /-- INTERRUPT_MODERATION (R338). A ring's MSI-X vector is raised at most MOD µs after its first unsignalled entry. -/
  | interruptModeration (f : Fin 9) (ring : Fin 21)
  /-- FLR (R365). A function-level reset puts a version-3 function into RECOVER, or a lower version into DETACHED. -/
  | flr (f : Fin 9)
  /-- GRANT_WRITE (R369). Writes an admission grant, or clears one; other writes to a set grant are ignored. -/
  | grantWrite (who : Agent) (n : Fin 256) (value : Word)
  /-- ADM_SRC_WRITE (R369). Writes a source's declared WMAX and DYN unless it is named by admitted work. -/
  | admSrcWrite (who : Agent) (n : Fin 16) (value : Word)
  /-- ACTIVATION_OVERRUN (R375). An activation passing its grant's LIMIT runs at band 3 and increments OVERRUN. -/
  | activationOverrun (p : Fin 8) (t : Fin 1024)
  /-- FULL_BOOT (R383). The later rise of POR_N or PERST_N starts the full boot sequence. -/
  | fullBoot (xbMode : Bool) (xdly : BitVec 3) (bootWait otpOk : Bool) (fails : Fin 9) (xaGood xbGood : Bool)
  /-- XA_RETEST (R409). While XA is not good, the sequencer retests it every 1 ms before starting the PLLs. -/
  | xaRetest (good : Bool)
  /-- PLL_LOCK (R410). A PLL locks after start or reprogramming and LOCK reads 1. -/
  | pllLock (k : Fin 6)
  /-- BOOT_RELEASE (R384). SEC_BOOT_CTL.RELEASE ends HOLD and lets DDR training start. -/
  | bootRelease (who : Agent) (value : BitVec 32)
  /-- BOOT_GO (R385). SEC_BOOT_CTL.GO starts reading and checking the boot bundle. -/
  | bootGo (who : Agent) (value : BitVec 32) (bme : Bool)
  /-- BUNDLE_VERIFY_DONE (R390). The bundle's images are verified and placed, or the boot fails with a code. -/
  | bundleVerifyDone (bytes : List (BitVec 8)) (bad : Bool)
  /-- KEEPER_COLD_ENTRY (R398). Core 0 of cluster 0 enters the keeper's cold entry and BAR0 opens fully. -/
  | keeperColdEntry
  /-- ATT_KEY_READY (R403). Attestation key derivation completes and ATT_STAT reads READY. -/
  | attKeyReady
  /-- VERIFY (R401). Service request verifying an image, setting VERIFIED and SEC_MEAS_SV for SUPER. -/
  | verify (who : Agent) (desc : List Cell)
  /-- QUOTE (R404). Service request producing a signed attestation quote. -/
  | quote (who : Agent) (desc : List Cell)
  /-- EPOCH_ADV (R391). Service request raising a type's OTP epoch to its last verified image's epoch. -/
  | epochAdv (who : Agent) (desc : List Cell)
  /-- MC_LOAD (R397). Service request replacing the microcode of named clusters. -/
  | mcLoad (who : Agent) (desc : List Cell)
  /-- SERVICE_REQUEST_DONE (R401). A service request completes, writing its status and waking the target. -/
  | serviceRequestDone
  /-- OTP_PROGRAM_SLOT (R393). Programs an owner key slot with a hash. -/
  | otpProgramSlot (who : Agent) (slot : Fin 8) (good : Bool)
  /-- OTP_REVOKE_SLOT (R393). Revokes a key slot. -/
  | otpRevokeSlot (who : Agent) (slot : Fin 8) (good : Bool)
  /-- OTP_BLOW_POL (R393). Blows a POL policy bit. -/
  | otpBlowPol (who : Agent) (bit : Fin 8) (good : Bool)
  /-- CORE_GO (R399). CLU_CORE_BOOT.GO starts an unassigned core at ENTRY or hands an assigned core to its dispatcher. -/
  | coreGo (k : CoreId) (value : Word)
  /-- PART_ENTRY_WRITE (R400). Writing GLB_PART_ENTRY sets the launch record address and clears VERIFIED. -/
  | partEntryWrite (p : Fin 8) (value : Word)
  /-- DOMAIN_SWITCH (R413). A CLK_DOM_SEL write changing SRC or DIV stops and restarts the domain's clock. -/
  | domainSwitch (who : Agent) (d : Fin 25) (value : BitVec 32)
  /-- DOMAIN_SWITCH_DONE (R413). The domain clock restarts and SWITCHING reads 0. -/
  | domainSwitchDone (d : Fin 25)
  /-- PLL_RECONFIG (R415). A CLK_PLL_CFG write reprograms a PLL that no domain uses, or is refused. -/
  | pllReconfig (who : Agent) (k : Fin 6) (value : Word)
  /-- PLL_RELOCK (R419). RELOCK closes a coasting PLL's loop on its reference. -/
  | pllRelock (who : Agent) (k : Fin 6) (value : Word)
  /-- SPREAD_CONFIG (R416). A CLK_PLL_SS write changes spread at the next modulation period. -/
  | spreadConfig (who : Agent) (k : Fin 6) (value : BitVec 32)
  /-- CLOCK_MONITOR_FAIL (R417). A monitor finds a clock out of band or unlocked and sets the failure flag. -/
  | clockMonitorFail (m : Fin 10) (bad : Bool)
  /-- AVS_ADJUST (R423). Every 100 µs the core rail targets are moved from ring-oscillator margins. -/
  | avsAdjust (r : Fin 2) (up : Option Bool) (ok : Bool)
  /-- POWER_DOMAIN_REQUEST (R425). A PWR_DOM_CTL.REQ write starts a domain transition or is refused. -/
  | powerDomainRequest (who : Agent) (d : Fin 30) (value : BitVec 32)
  /-- POWER_DOMAIN_DONE (R426). A domain transition ends, raising PWR_DOM. -/
  | powerDomainDone (d : Fin 30)
  /-- THERMAL_SAMPLE (R427). Every 100 µs the sixteen sensors are sampled and Tj updated. -/
  | thermalSample (temps : List (BitVec 12))
  /-- THROTTLE_EXIT (R428). Tj at or below TH_LO for 10 ms restores the normal dividers. -/
  | throttleExit
  /-- WARM_RESET_REQUEST (R431). GLB_RESET.WARM stops acceptance and starts every ramp. -/
  | warmResetRequest (who : Agent) (value : BitVec 32)
  /-- WARM_RESET_EFFECT (R431). After the last ramp, cores and caches quiesce and the device warm reset takes effect. -/
  | warmResetEffect
  /-- CLUSTER_RESET (R432). CLU_RESET.REQ stops the cluster's cores and starts a cluster reset. -/
  | clusterReset (who : Agent) (cl : Fin 8) (value : BitVec 32)
  /-- CLUSTER_RESET_DONE (R432). The cluster reset takes effect after the L2 sweep. -/
  | clusterResetDone (cl : Fin 8)
  /-- POWER_ON_RESET (R430). POR_N low resets everything except OTP. -/
  | powerOnReset
  /-- PCIE_RESET (R430). PERST_N low while POR_N is high resets all but power-on registers. -/
  | pcieReset
  /-- ECC_ERROR (R434). A corrected or uncorrectable error is handled by structure and counted in its window. -/
  | eccError (site : EccSite) (uncorr : Bool)
  /-- FAULT_ACTION_DONE (R438). A class action ends and the unit's buckets are emptied. -/
  | faultActionDone
  /-- FLT_CORE_OFF_WRITE (R443). Writing FLT_CORE_OFF takes cores offline or returns them to stopped. -/
  | fltCoreOffWrite (who : Agent) (value : Word)
  /-- FLT_LANE_RET_WRITE (R440). Writing FLT_LANE_RET holds lanes in FAILED or lets them seek again. -/
  | fltLaneRetWrite (who : Agent) (value : BitVec 32)
  /-- CACHE_PATROL (R448). One L2 or SC set is patrolled every 4,096 idle SYS cycles. -/
  | cachePatrol (c : CacheId)
  /-- SMBUS_TRANSACTION (R458). An SMBus offset write and block read returns an AON register. -/
  | smbusTransaction (off : BitVec 32)
  /-- FETCH_FAULT (R111). An instruction that would execute from a cell that is not tagged INSN2, or whose fetch faults at stage 1 or 2, raises FETCH_TAG, FETCH_S1 or FETCH_S2. -/
  | fetchFault (k : CoreId)
  /-- UNASSIGNED_OPCODE (R68). A fetched word whose major opcode or function code is unassigned, including the all-zero word, raises ILLEGAL_OP. -/
  | unassignedOpcode (k : CoreId)
  /-- LARD_SKEW_WINDOW (R194). At the end of each window the larder skew counter LARD_SKEW and keeper event 0x19 are evaluated for interleave windows concentrated on one bank. -/
  | lardSkewWindow (c : Fin 8) (lines : List Nat)
  /-- ANCHOR_PERIOD_ESTIMATE (R303). Once per second the device refits ANCHOR and PERIOD of version-1 channels over 256 bundles and adjusts ANCHOR without a jump. -/
  | anchorPeriodEstimate
  /-- DDR_RECALIBRATION_DONE (R202). ZQ and read-gate recalibration after self-refresh ends and MEM_STAT returns to READY, letting the warm path rehash the keeper and held accesses proceed. -/
  | ddrRecalibrationDone
deriving DecidableEq, Repr

end Sys2Proof
end

