-- ==== Sys2Proof/Decode.lean ====
section
/-!
DEFINITION. Decode.lean: the words of the command table, and the 32-bit instruction words of Caraerik (R65 to R68). No row of
spec/opcode_table.json gives bits: a command reaches the block as a command (a register access, a bus or pin event, an
instruction of a core with its fields), never as a word. `instrOf` says which command an instruction word of a core is.
-/

namespace Sys2Proof

/-- The command a word of the table spells: none, since no row gives bits. -/
def decodeTableWord (_nbits _w : Nat) : Option Instr := none

/-! ### Fields of an instruction word (R66) -/

/-- `n` bits of a word from bit `lo`. -/
def wordBits (w : BitVec 32) (lo n : Nat) : BitVec n := BitVec.ofNat n (w.toNat / 2 ^ lo)

/-- A register field. -/
def wordReg (w : BitVec 32) (lo : Nat) : Gpr := (wordBits w lo 5).toFin

/-- rd, ra and rb of formats A, I and S. -/
def wordRd (w : BitVec 32) : Gpr := wordReg w 21
def wordRa (w : BitVec 32) : Gpr := wordReg w 16
def wordRb (w : BitVec 32) : Gpr := wordReg w 11

/-- The function code of format A. -/
def wordFn (w : BitVec 32) : Nat := w.toNat % 2 ^ 11

/-- The instruction in slot 0 or 1 of an INSN2 cell: slot 0 in [31:0], executed first (R65). -/
def slotWord (cell : Word) (slot1 : Bool) : BitVec 32 := BitVec.ofNat 32 (cell.toNat / 2 ^ (if slot1 then 32 else 0))

/-! ### Format A, by function code; every other code is none (R68) -/

/-- Major 0x01: raw and fixnum ALU (R82). -/
def aluWord (k : CoreId) (w : BitVec 32) : Option Instr :=
  let rd := wordRd w
  let ra := wordRa w
  let rb := wordRb w
  match wordFn w with
  | 0x000 => some (.mov k rd ra)
  | 0x001 => some (.addr k rd ra rb)
  | 0x002 => some (.subr k rd ra rb)
  | 0x003 => some (.and k rd ra rb)
  | 0x004 => some (.or k rd ra rb)
  | 0x005 => some (.xor k rd ra rb)
  | 0x006 => some (.andn k rd ra rb)
  | 0x008 => some (.shl k rd ra rb)
  | 0x009 => some (.shr k rd ra rb)
  | 0x00A => some (.sar k rd ra rb)
  | 0x00B => some (.ror k rd ra rb)
  | 0x010 => some (.cmpeqr k rd ra rb)
  | 0x011 => some (.cmplt k rd ra rb)
  | 0x012 => some (.cmpltu k rd ra rb)
  | _ => none

/-- Major 0x02: generic arithmetic (R86). -/
def genericWord (k : CoreId) (w : BitVec 32) : Option Instr :=
  let rd := wordRd w
  let ra := wordRa w
  let rb := wordRb w
  match wordFn w with
  | 0x000 => some (.add k rd ra rb)
  | 0x001 => some (.sub k rd ra rb)
  | 0x002 => some (.mul k rd ra rb)
  | 0x003 => some (.div k rd ra rb)
  | 0x008 => some (.eq k rd ra rb)
  | 0x009 => some (.lt k rd ra rb)
  | 0x00A => some (.le k rd ra rb)
  | _ => none

/-- Major 0x03: measurands (R87). -/
def measWord (k : CoreId) (w : BitVec 32) : Option Instr :=
  let rd := wordRd w
  let ra := wordRa w
  let rb := wordRb w
  match wordFn w with
  | 0x000 => some (.mkmeas k rd ra rb)
  | 0x001 => some (.mval k rd ra)
  | 0x002 => some (.munit k rd ra)
  | 0x003 => some (.mflag k rd ra)
  | 0x004 => some (.qor k rd ra rb)
  | 0x005 => some (.qclr k rd ra rb)
  | 0x008 => some (.conv k rd ra rb)
  | 0x009 => some (.msqrt k rd ra)
  | 0x010 => some (.utset k rd ra rb)
  | _ => none

/-- Major 0x04: lists and objects (R93, R94, R213, R219). -/
def objectWord (k : CoreId) (w : BitVec 32) : Option Instr :=
  let rd := wordRd w
  let ra := wordRa w
  let rb := wordRb w
  match wordFn w with
  | 0x000 => some (.car k rd ra)
  | 0x001 => some (.cdr k rd ra)
  | 0x002 => some (.setcar k rd ra rb)
  | 0x003 => some (.setcdr k rd ra rb)
  | 0x008 => some (.eqq k rd ra rb)
  | 0x010 => some (.vlen k rd ra)
  | 0x011 => some (.vref k rd ra rb)
  | 0x012 => some (.vset k rd ra rb)
  | 0x020 => some (.lwalk k rd ra rb)
  | 0x021 => some (.memq k rd ra rb)
  | 0x022 => some (.assq k rd ra rb)
  | 0x023 => some (.bcopy k rd ra rb)
  | 0x030 => some (.alloc k rd ra rb)
  | 0x031 => some (.shade k rd ra)
  | _ => none

/-- Major 0x05: tags (R89). -/
def tagWord (k : CoreId) (w : BitVec 32) : Option Instr :=
  let rd := wordRd w
  let ra := wordRa w
  let rb := wordRb w
  match wordFn w with
  | 0x000 => some (.tagr k rd ra)
  | 0x001 => some (.tcls k rd ra)
  | 0x002 => some (.tset k rd ra rb)
  | _ => none

/-- Major 0x06: bit fields (R84). -/
def bitWord (k : CoreId) (w : BitVec 32) : Option Instr :=
  let rd := wordRd w
  let ra := wordRa w
  let rb := wordRb w
  match wordFn w with
  | 0x000 => some (.bfx k rd ra rb)
  | 0x001 => some (.bfxu k rd ra rb)
  | 0x002 => some (.bfi k rd ra rb)
  | 0x008 => some (.clz k rd ra)
  | 0x009 => some (.ctz k rd ra)
  | 0x00A => some (.popc k rd ra)
  | 0x010 => some (.bperm k rd ra rb)
  | _ => none

/-- Major 0x07: multiply and divide (R85). -/
def mulWord (k : CoreId) (w : BitVec 32) : Option Instr :=
  let rd := wordRd w
  let ra := wordRa w
  let rb := wordRb w
  match wordFn w with
  | 0x000 => some (.muls k rd ra rb)
  | 0x001 => some (.mulu k rd ra rb)
  | 0x008 => some (.divs k rd ra rb)
  | 0x009 => some (.divu k rd ra rb)
  | _ => none

/-- Major 0x08: phases (R97). -/
def phaseWordOf (k : CoreId) (w : BitVec 32) : Option Instr :=
  let rd := wordRd w
  let ra := wordRa w
  let rb := wordRb w
  match wordFn w with
  | 0x000 => some (.phrd k rd rb)
  | 0x001 => some (.phat k rd ra rb)
  | 0x002 => some (.phst k rd ra)
  | 0x003 => some (.phmk k rd ra rb)
  | 0x004 => some (.phrev k rd ra)
  | 0x005 => some (.phfr k rd ra)
  | _ => none

/-- Major 0x09: dispatcher and queues (R101). -/
def queueWord (k : CoreId) (w : BitVec 32) : Option Instr :=
  let rd := wordRd w
  let ra := wordRa w
  let rb := wordRb w
  match wordFn w with
  | 0x000 => some (.wait k rd ra)
  | 0x001 => some (.yieldCore k)
  | 0x008 => some (.send k rd ra rb)
  | 0x009 => some (.recv k rd rb)
  | 0x010 => some (.post k rd ra rb)
  | _ => none

/-- Major 0x0A: control (R98, R164, R170, R182). -/
def controlWord (k : CoreId) (w : BitVec 32) : Option Instr :=
  let rd := wordRd w
  let ra := wordRa w
  let rb := wordRb w
  match wordFn w with
  | 0x000 => some (.nop k)
  | 0x001 => some (.jmp k ra)
  | 0x002 => some (.jmpl k ra)
  | 0x003 => some (.ret k)
  | 0x004 => some (.enter k)
  | 0x005 => some (.leave k)
  | 0x006 => some (.spillw k)
  | 0x007 => some (.fillw k)
  | 0x008 => some (.retx k)
  | 0x009 => some (.trap k (wordBits w 11 10))
  | 0x010 => some (.fenceM k)
  | 0x011 => some (.fenceP k)
  | 0x012 => some (.fenceT k)
  | 0x013 => some (.fenceH k)
  | 0x020 => some (.tlbiVa k ra rb)
  | 0x021 => some (.tlbiAsid k rb)
  | 0x022 => some (.tlbiSpace k)
  | 0x024 => some (.tlbiIpa k ra rb)
  | 0x025 => some (.tlbiPart k rb)
  | 0x026 => some (.tlbiKs k ra)
  | 0x027 => some (.tlbiAll k)
  | 0x028 => some (.xprobe k rd ra rb)
  | 0x030 => some (.cclean k rd ra rb)
  | 0x031 => some (.cflush k rd ra rb)
  | 0x032 => some (.cinv k rd ra rb)
  | 0x033 => some (.cpre k rd ra rb)
  | 0x034 => some (.cmr k rd ra rb)
  | 0x035 => some (.csw k rd ra rb)
  | _ => none

/-! ### The other formats -/

/-- Format I: majors 0x10 to 0x16, 0x18 to 0x1E and 0x20 to 0x23 (R83, R91). -/
def immWord (k : CoreId) (w : BitVec 32) (major : Nat) : Option Instr :=
  let rd := wordRd w
  let ra := wordRa w
  let imm := wordBits w 0 16
  match major with
  | 0x10 => some (.addi k rd ra imm)
  | 0x11 => some (.addiw k rd ra imm)
  | 0x12 => some (.andi k rd ra imm)
  | 0x13 => some (.ori k rd ra imm)
  | 0x14 => some (.xori k rd ra imm)
  | 0x15 => some (.shi k rd ra imm)
  | 0x16 => some (.cmpi k rd ra imm)
  | 0x18 => some (.ldc k rd ra imm)
  | 0x19 => some (.ldw k rd ra imm)
  | 0x1A => some (.ldwu k rd ra imm)
  | 0x1B => some (.ldh k rd ra imm)
  | 0x1C => some (.ldhu k rd ra imm)
  | 0x1D => some (.ldb k rd ra imm)
  | 0x1E => some (.ldbu k rd ra imm)
  | 0x20 => some (.stc k rd ra imm)
  | 0x21 => some (.stw k rd ra imm)
  | 0x22 => some (.sth k rd ra imm)
  | 0x23 => some (.stb k rd ra imm)
  | _ => none

/-- Format S: fn 0 = MFS, 1 = MTS. -/
def sprWord (k : CoreId) (w : BitVec 32) : Option Instr :=
  match w.toNat % 2 ^ 6 with
  | 0 => some (.mfs k (wordRd w) (wordRa w) (wordBits w 6 10))
  | 1 => some (.mts k (wordRd w) (wordRa w) (wordBits w 6 10))
  | _ => none

/-- Format B: a [25], h [24], cond [23:20], ra [19:15], disp15; the reserved conditions raise ILLEGAL_OP (R67). -/
def condWord (k : CoreId) (w : BitVec 32) : Option Instr :=
  let a := w.getLsbD 25
  let h := w.getLsbD 24
  let ra := wordReg w 15
  let disp := wordBits w 0 15
  match (wordBits w 20 4).toNat with
  | 0x0 => some (.bn k a h ra disp)
  | 0x1 => some (.ba k a h ra disp)
  | 0x2 => some (.bnil k a h ra disp)
  | 0x3 => some (.bnnil k a h ra disp)
  | 0x4 => some (.bz k a h ra disp)
  | 0x5 => some (.bnz k a h ra disp)
  | 0x6 => some (.bltz k a h ra disp)
  | 0x7 => some (.bgez k a h ra disp)
  | 0x8 => some (.blez k a h ra disp)
  | 0x9 => some (.bgtz k a h ra disp)
  | 0xA => some (.bnan k a h ra disp)
  | _ => none

/-- Format T: a [25], h [24], ra [23:19], m [18], tag [17:10], disp10; major 0x29 BTAG, 0x2A BNTAG. -/
def tagBranchWord (k : CoreId) (w : BitVec 32) (want : Bool) : Option Instr :=
  let a := w.getLsbD 25
  let h := w.getLsbD 24
  let ra := wordReg w 19
  some (if want then .btag k a h ra (w.getLsbD 18) (wordBits w 10 8) (wordBits w 0 10)
    else .bntag k a h ra (w.getLsbD 18) (wordBits w 10 8) (wordBits w 0 10))

/-- The instruction a word is on core `k`, by its major opcode [31:26] (R68). A word that is none, the all-zero word among
them, raises ILLEGAL_OP: the command UNASSIGNED_OPCODE. -/
def instrOf (k : CoreId) (w : BitVec 32) : Option Instr :=
  match w.toNat / 2 ^ 26 with
  | 0x01 => aluWord k w
  | 0x02 => genericWord k w
  | 0x03 => measWord k w
  | 0x04 => objectWord k w
  | 0x05 => tagWord k w
  | 0x06 => bitWord k w
  | 0x07 => mulWord k w
  | 0x08 => phaseWordOf k w
  | 0x09 => queueWord k w
  | 0x0A => controlWord k w
  | 0x0B => sprWord k w
  | 0x24 => some (.cas k (wordRd w) (wordRa w) (wordRb w) (wordBits w 0 11))
  | 0x28 => condWord k w
  | 0x29 => tagBranchWord k w true
  | 0x2A => tagBranchWord k w false
  | 0x2C => some (.call k (wordBits w 0 26))
  | 0x30 => some (.movw k (wordRd w) (wordBits w 0 21))
  | 0x31 => some (.shlw k (wordRd w) (wordBits w 0 21))
  | major => immWord k w major

end Sys2Proof
end

