-- ==== Sys2Proof/Machine/Bits.lean ====
section
/-!
DEFINITION. Machine/Bits.lean: bit fields of words, tags and their classes (R22, R23), pointers (R24), headers (R25),
and the bytes of a cell (R21).
-/

namespace Sys2Proof.Machine

/-! ### Bit fields -/

/-- Bits [hi:lo] of a natural number. -/
def nbits (x hi lo : Nat) : Nat := x / 2 ^ lo % 2 ^ (hi + 1 - lo)

/-- `x` with bits [hi:lo] replaced by the low bits of `v`. -/
def nput (x hi lo v : Nat) : Nat :=
  x - nbits x hi lo * 2 ^ lo + v % 2 ^ (hi + 1 - lo) * 2 ^ lo

/-- Bits [hi:lo] of a word, as a number. -/
def bitsOf (w : Word) (hi lo : Nat) : Nat := nbits w.toNat hi lo

/-- Bit `i` of a word. -/
def bitOf (w : Word) (i : Nat) : Bool := w.getLsbD i

/-- A word with bits [hi:lo] replaced. -/
def putBits (w : Word) (hi lo v : Nat) : Word := w64 (nput w.toNat hi lo v)

/-- A word with bit `i` set to `b`. -/
def putBit (w : Word) (i : Nat) (b : Bool) : Word := putBits w i i b.toNat

/-- The parity of a number of at most 64 bits. -/
def parity (x : Nat) : Nat :=
  (List.range 64).foldl (fun a i => (a + x / 2 ^ i) % 2) 0

/-- The number of one bits among the lowest `n`. -/
def popcount (n x : Nat) : Nat :=
  (List.range n).foldl (fun a i => a + x / 2 ^ i % 2) 0

/-- The signed value of the low `n` bits of `x`. -/
def signedOf (n x : Nat) : Int :=
  if x % 2 ^ n < 2 ^ (n - 1) then (x % 2 ^ n : Nat) else ((x % 2 ^ n : Nat) : Int) - 2 ^ n

/-- The word of an integer, modulo 2^64. -/
def wordOfInt (i : Int) : Word := BitVec.ofInt 64 i

/-- An integer that fits 64-bit two's complement. -/
def fitsI64 (i : Int) : Bool := decide (-(2 ^ 63) ≤ i) && decide (i < 2 ^ 63)

/-! ### Tags (R22, R23) -/

@[reducible] def tagFix : Tag := 0x00
@[reducible] def tagFlo : Tag := 0x01
@[reducible] def tagF32x2 : Tag := 0x02
@[reducible] def tagI32x2 : Tag := 0x03
@[reducible] def tagQ32 : Tag := 0x04
@[reducible] def tagNil : Tag := 0x20
@[reducible] def tagTrue : Tag := 0x21
@[reducible] def tagChar : Tag := 0x22
@[reducible] def tagUnbound : Tag := 0x23
@[reducible] def tagMark : Tag := 0x24
@[reducible] def tagPhase0 : Tag := 0x30
@[reducible] def tagPhase15 : Tag := 0x3F
@[reducible] def tagCons : Tag := 0x40
@[reducible] def tagString : Tag := 0x42
@[reducible] def tagBytes : Tag := 0x46
@[reducible] def tagSamples : Tag := 0x47
@[reducible] def tagBignum : Tag := 0x48
@[reducible] def tagForeign : Tag := 0x49
@[reducible] def tagMeas : Tag := 0x60
@[reducible] def tagFwd : Tag := 0x80
@[reducible] def tagHeader : Tag := 0x81
@[reducible] def tagFiller : Tag := 0x82
@[reducible] def tagRetaddr : Tag := 0xA0
@[reducible] def tagCodeptr : Tag := 0xA1
@[reducible] def tagCont : Tag := 0xA2
@[reducible] def tagInsn2 : Tag := 0xA3
@[reducible] def tagRaw64 : Tag := 0xC0
@[reducible] def tagPoison : Tag := 0xE0
@[reducible] def tagVoid : Tag := 0xFF

/-- The class field, tag bits [7:5] (R22). -/
def tagClass (t : Tag) : Nat := t.toNat / 32

/-- Class PTR: an object pointer. -/
def isPtr (t : Tag) : Bool := tagClass t == 2

/-- Class MEAS: a measurand; tag bits [4:0] are its quality flags (R34). -/
def isMeas (t : Tag) : Bool := tagClass t == 3

/-- PHASE n for some n. -/
def isPhase (t : Tag) : Bool := t.toNat / 16 == 3

/-- The source a PHASE tag names. -/
def phaseOf (t : Tag) : Nat := t.toNat % 16

/-- The tag PHASE n. -/
def tagPhase (n : Nat) : Tag := BitVec.ofNat 8 (0x30 + n % 16)

/-- The tag of a measurand with the given flags. -/
def tagMeasOf (flags : Nat) : Tag := BitVec.ofNat 8 (0x60 + flags % 32)

/-- The codes R23 marks reserved. -/
def isReservedTag (t : Tag) : Bool :=
  let n := t.toNat
  (0x05 ≤ n && n ≤ 0x1F) || (0x25 ≤ n && n ≤ 0x2F) || (0x4A ≤ n && n ≤ 0x4F) ||
  (0x83 ≤ n && n ≤ 0x9F) || (0xA4 ≤ n && n ≤ 0xBF) || (0xC1 ≤ n && n ≤ 0xDF) ||
  (0xE1 ≤ n && n ≤ 0xFE)

/-! ### Cells -/

/-- The cell of memory that has never been written: VOID with zero data (R23, R202). -/
@[reducible] def cellVoid : Cell := ⟨tagVoid, 0⟩
@[reducible] def cellNil : Cell := ⟨tagNil, 0⟩
@[reducible] def cellTrue : Cell := ⟨tagTrue, 0⟩
@[reducible] def cellUnbound : Cell := ⟨tagUnbound, 0⟩
@[reducible] def cellRaw (w : Word) : Cell := ⟨tagRaw64, w⟩
@[reducible] def cellFix (w : Word) : Cell := ⟨tagFix, w⟩

/-- FIX of an integer. -/
def cellFixI (i : Int) : Cell := ⟨tagFix, wordOfInt i⟩

/-- TRUE or NIL. -/
def cellBool (b : Bool) : Cell := if b then cellTrue else cellNil

/-- The POISON cell of an error (R28): origin kind in [51:44], the address in [43:0]. -/
def cellPoison (origin addr : Nat) : Cell :=
  ⟨tagPoison, w64 (origin % 256 * 2 ^ 44 + addr % 2 ^ 44)⟩

/-- The POISON cell of an error of some origin in the cell at a physical address: by R435 the origin says whether the cell's
own address, its line's or none is kept. -/
def poisonOf (origin pa : Nat) : Cell :=
  cellPoison origin (if origin = 0x09 then 0 else if [0x03, 0x04, 0x05].contains origin then pa / 8 * 8 else pa / 64 * 64)

/-- A payload that obeys R24: bits [2:0] and [63:48] are zero. -/
def ptrOk (w : Word) : Bool := bitsOf w 2 0 == 0 && bitsOf w 63 48 == 0

/-! ### Bytes of a cell (R21): little-endian, `n` bytes from byte `o` -/

/-- The `n` bytes at byte offset `o` of a word. -/
def bytesOf (w : Word) (o n : Nat) : Nat := w.toNat / 2 ^ (8 * o) % 2 ^ (8 * n)

/-- The word with its `n` bytes at byte offset `o` replaced. -/
def putBytes (w : Word) (o n v : Nat) : Word := putBits w (8 * o + 8 * n - 1) (8 * o) v

/-- The byte mask of `n` bytes at offset `o`. -/
def byteMask (o n : Nat) : BitVec 8 := BitVec.ofNat 8 ((2 ^ n - 1) * 2 ^ o)

/-- The bytes of `a` where the mask is 0 and of `b` where it is 1. -/
def mixBytes (mask : BitVec 8) (a b : Word) : Word :=
  (List.range 8).foldl (fun w i => if mask.getLsbD i then putBytes w i 1 (bytesOf b i 1) else w) a

/-! ### Lines -/

/-- The line (64 bytes, 8 cells) that holds a physical address (R172). -/
def lineOf (pa : Nat) : Nat := pa / 64

/-- The key of the cell that holds a physical address. -/
def cellKey (pa : Nat) : Nat := pa / 8

/-- The bits [hi:lo] of a word, in place. -/
def keepBits (w : Word) (hi lo : Nat) : Word := w64 (bitsOf w hi lo * 2 ^ lo)

end Sys2Proof.Machine
end

