-- ==== Sys2Proof/Machine/Float.lean ====
section
/-!
DEFINITION. Machine/Float.lean: exact values and the three binary formats: binary64, binary52 (R31, R32) and binary32.
A value is decoded to an exact fraction, computed on exactly, and rounded once, to nearest with ties to even
(R30, R32, R42 to R46, R468 of 02_cells_tags_units.md).
-/

namespace Sys2Proof.Machine

/-- A numeric value: a NaN (sign and 52 fraction bits), an infinity, or a signed exact fraction n / d with d > 0. -/
inductive FV where
  | nan (neg : Bool) (frac : Nat)
  | inf (neg : Bool)
  | fin (neg : Bool) (n d : Nat)
deriving DecidableEq, Repr

/-- A binary format: fraction bits and the bias of its exponent (the largest finite biased exponent is 2 * bias). -/
structure Fmt where
  frac : Nat
  bias : Nat
deriving DecidableEq, Repr

@[reducible] def fmt64 : Fmt := ⟨52, 1023⟩
@[reducible] def fmt52 : Fmt := ⟨40, 1023⟩
@[reducible] def fmt32 : Fmt := ⟨23, 127⟩

/-- Bits of a format, sign included: 1 + 11 + frac or 1 + 8 + frac. -/
def Fmt.width (f : Fmt) : Nat := f.frac + Nat.log2 (f.bias + 1) + 2

/-- The value of a bit pattern. -/
def fvOf (f : Fmt) (bits : Nat) : FV :=
  let frac := bits % 2 ^ f.frac
  let exp := bits / 2 ^ f.frac % (2 * f.bias + 2)
  let neg := bits / 2 ^ f.frac / (2 * f.bias + 2) % 2 == 1
  if exp = 2 * f.bias + 1 then
    if frac = 0 then .inf neg else .nan neg (frac * 2 ^ (52 - f.frac))
  else
    let m := if exp = 0 then frac else frac + 2 ^ f.frac
    let e := if exp = 0 then 1 else exp
    .fin neg (m * 2 ^ e) (2 ^ (f.bias + f.frac))

/-- Nearest integer of n / d, ties to even. -/
def roundDiv (n d : Nat) : Nat :=
  let q := n / d
  let r := n % d
  if 2 * r < d then q else if 2 * r = d then q + q % 2 else q + 1

/-- floor(log2 (n / d)) for n, d > 0. -/
def log2Frac (n d : Nat) : Int :=
  let e : Int := (Nat.log2 n : Int) - Nat.log2 d
  if 0 ≤ e then (if n < d * 2 ^ e.toNat then e - 1 else e)
  else (if n * 2 ^ (-e).toNat < d then e - 1 else e)

/-- The magnitude bits of a nonnegative fraction in a format; the all-ones exponent when it rounds past the range. -/
def roundMag (f : Fmt) (n d : Nat) : Nat :=
  if n = 0 then 0 else
    let e := log2Frac n d
    let emin : Int := 1 - (f.bias : Int)
    let q : Int := (if e < emin then emin else e) - f.frac
    let m := if 0 ≤ q then roundDiv n (d * 2 ^ q.toNat) else roundDiv (n * 2 ^ (-q).toNat) d
    let b := if e < emin then m else (e - emin).toNat * 2 ^ f.frac + m
    if (2 * f.bias + 1) * 2 ^ f.frac ≤ b then (2 * f.bias + 1) * 2 ^ f.frac else b

/-- The sign bit of a format, in place. -/
def signBit (f : Fmt) (neg : Bool) : Nat := neg.toNat * (2 * f.bias + 2) * 2 ^ f.frac

/-- A value's bits in a format: rounded to nearest even; a NaN keeps its upper fraction bits and is quiet (R468). -/
def fvTo (f : Fmt) : FV → Nat
  | .nan neg frac =>
    signBit f neg + (2 * f.bias + 1) * 2 ^ f.frac +
      (frac / 2 ^ (52 - f.frac) % 2 ^ (f.frac - 1) + 2 ^ (f.frac - 1))
  | .inf neg => signBit f neg + (2 * f.bias + 1) * 2 ^ f.frac
  | .fin neg n d => signBit f neg + roundMag f n d

/-- The canonical NaN: positive, most significant fraction bit alone (R32, R468). -/
@[reducible] def fvNaN : FV := .nan false (2 ^ 51)

def FV.isNaN : FV → Bool
  | .nan _ _ => true
  | _ => false

def FV.isInf : FV → Bool
  | .inf _ => true
  | _ => false

def FV.isZero : FV → Bool
  | .fin _ n _ => n == 0
  | _ => false

def FV.isNeg : FV → Bool
  | .nan s _ => s
  | .inf s => s
  | .fin s n _ => s && n != 0

/-- The value of an integer divided by a positive number: no rounding. -/
def fvInt (i : Int) (d : Nat) : FV := .fin (decide (i < 0)) i.natAbs d

/-- The leftmost NaN operand, quieted (R468). -/
def fvPickNaN (a b : FV) : Option FV :=
  match a, b with
  | .nan s f, _ => some (.nan s f)
  | _, .nan s f => some (.nan s f)
  | _, _ => none

/-- Negation of a value that is not a NaN. -/
def fvNeg : FV → FV
  | .nan s f => .nan s f
  | .inf s => .inf (!s)
  | .fin s n d => .fin (!s) n d

/-- Exact sum. An exact zero is positive unless both terms are negative zeros or zero results of negative terms. -/
def fvAdd (a b : FV) : FV :=
  match fvPickNaN a b with
  | some n => n
  | none =>
    match a, b with
    | .inf s, .inf t => if s = t then .inf s else fvNaN
    | .inf s, _ => .inf s
    | _, .inf t => .inf t
    | .fin s n d, .fin t m e =>
      let x : Int := (if s then -((n * e : Nat) : Int) else (n * e : Nat)) +
        (if t then -((m * d : Nat) : Int) else (m * d : Nat))
      if x = 0 then .fin (s && t) 0 1 else fvInt x (d * e)
    | _, _ => fvNaN

/-- Exact difference; a NaN operand keeps its sign. -/
def fvSub (a b : FV) : FV :=
  match fvPickNaN a b with
  | some n => n
  | none => fvAdd a (fvNeg b)

/-- Exact product. -/
def fvMul (a b : FV) : FV :=
  match fvPickNaN a b with
  | some n => n
  | none =>
    match a, b with
    | .fin s n d, .fin t m e => .fin (xor s t) (n * m) (d * e)
    | .inf s, .fin t m _ => if m = 0 then fvNaN else .inf (xor s t)
    | .fin s n _, .inf t => if n = 0 then fvNaN else .inf (xor s t)
    | .inf s, .inf t => .inf (xor s t)
    | _, _ => fvNaN

/-- Exact quotient; a nonzero number by zero is an infinity, 0/0 and inf/inf the canonical NaN. -/
def fvDiv (a b : FV) : FV :=
  match fvPickNaN a b with
  | some n => n
  | none =>
    match a, b with
    | .fin s n d, .fin t m e =>
      if m = 0 then (if n = 0 then fvNaN else .inf (xor s t)) else .fin (xor s t) (n * e) (d * m)
    | .inf s, .fin t _ _ => .inf (xor s t)
    | .fin s _ _, .inf t => .fin (xor s t) 0 1
    | _, _ => fvNaN

/-- Integer square root: the largest r with r * r ≤ n, by the binary digits of r (`k` of them). -/
def isqrtGo (n : Nat) : Nat → Nat → Nat
  | 0, r => r
  | k + 1, r => isqrtGo n k (if (r + 2 ^ k) * (r + 2 ^ k) ≤ n then r + 2 ^ k else r)

def isqrt (n : Nat) : Nat := isqrtGo n (Nat.log2 n / 2 + 1) 0

/-- The square root rounded once to a format: the root is taken to twice the precision needed, with a sticky last
bit, so that rounding it equals rounding the exact root. -/
def fvSqrtTo (f : Fmt) : FV → Nat
  | .nan s x => fvTo f (.nan s x)
  | .inf s => if s then fvTo f fvNaN else fvTo f (.inf false)
  | .fin s n d =>
    if n = 0 then fvTo f (.fin s 0 1)
    else if s then fvTo f fvNaN
    else
      let k := 2 * f.frac + 8 + Nat.log2 d + Nat.log2 n
      let x := n * 2 ^ (2 * k) / d
      let r := isqrt x
      let exact := decide (r * r = x) && decide (n * 2 ^ (2 * k) % d = 0)
      fvTo f (.fin false (2 * r + (if exact then 0 else 1)) (2 ^ (k + 1)))

/-- Comparison of two exact values; none when a NaN takes part (unordered). -/
def fvCmp (a b : FV) : Option Ordering :=
  match a, b with
  | .nan _ _, _ => none
  | _, .nan _ _ => none
  | .inf s, .inf t => some (if s = t then .eq else if s then .lt else .gt)
  | .inf s, .fin _ _ _ => some (if s then .lt else .gt)
  | .fin _ _ _, .inf t => some (if t then .gt else .lt)
  | .fin s n d, .fin t m e =>
    let x : Int := if s then -((n * e : Nat) : Int) else (n * e : Nat)
    let y : Int := if t then -((m * d : Nat) : Int) else (m * d : Nat)
    some (compare x y)

/-- Round an exact value to a format and take the rounded value. -/
def fvRound (f : Fmt) (v : FV) : FV := fvOf f (fvTo f v)

/-- The exact value of a binary64 payload, a Q32 payload and a FIX payload. -/
def fvOfFlo (w : Word) : FV := fvOf fmt64 w.toNat
def fvOfQ32 (w : Word) : FV := fvInt w.toInt (2 ^ 32)
def fvOfFix (w : Word) : FV := fvInt w.toInt 1

/-- A value as a FLO payload. -/
def floOf (v : FV) : Word := w64 (fvTo fmt64 v)

/-- The value of a measurand payload (R31): its upper 52 bits. -/
def fvOfMeas (w : Word) : FV := fvOf fmt52 (w.toNat / 2 ^ 12)

/-- The payload of a measurand of unit `u`: the value rounded to binary52. -/
def measWord (v : FV) (u : Nat) : Word := w64 (fvTo fmt52 v * 2 ^ 12 + u % 4096)

/-- Nearest integer, ties to even, of a signed fraction. -/
def roundInt (neg : Bool) (n d : Nat) : Int :=
  if neg then -((roundDiv n d : Nat) : Int) else (roundDiv n d : Nat)

end Sys2Proof.Machine
end

