-- ==== Sys2Proof/Config.lean ====
section
/-!
DEFINITION. Config.lean: what the spec leaves open, as constants without a body: no proof can see what they are, so a
statement holds whatever they are. Each is named in the assumption log.
-/

namespace Sys2Proof

/-- A fresh word: the internal random generator (R75, R194, R199), and every value the spec leaves open that fits a
word; applied to the counter State.draw. -/
opaque Config.freeWord : Nat → Word

/-- A fresh number without a bound. -/
opaque Config.freeNat : Nat → Nat

/-- A fresh choice. -/
opaque Config.freeBit : Nat → Bool

/-- A fresh cell. -/
opaque Config.freeCell : Nat → Cell

/-- Which of the two bracketing values a conversion between a LOG unit and the NAMED unit gives (R46): the PHASH of the
control-store image, into the LOG unit or out of it, the level factor k and the reference as binary64 payloads, and the
operand's upper 52 bits. -/
opaque Config.logPick : List (BitVec 8) → Bool → Word → Word → Nat → Nat

/-- The corrections of a tracking loop (R240) to phase, rate and acceleration: by ORDER, bandwidth, time since the last
edge, and residual. -/
opaque Config.loopStep : Nat → Nat → Nat → Int → Int × Int × Int

/-- What R320 and R326 leave open of a drive sample, by output and instant: the last place of a sine and of the envelope, and
what an input that cannot be read stands for. -/
opaque Config.driveSample : Nat → Nat → Nat → Nat

/-- Coefficients of the 16-tap fractional-delay interpolation of R323: fraction of a sample in 2^-64, tap; in 2^-64. -/
opaque Config.driveTap : Nat → Nat → Int

/-- Free values of the resampler within the tolerances of R263 and R268: the descriptor, a fresh number, channel and index. -/
opaque Config.resampled : List Word → Nat → Nat → Nat → Nat

/-- Coefficients of the resampler's filters, which R266 bounds by their response: those of a half-band decimator at the odd
distances 2i + 1 from its centre, in 2^-64; and the prototype of the interpolator for CUT = NARROW or WIDE, in binary32. -/
opaque Config.halfBand : Nat → Int
opaque Config.sincTap : Bool → Nat → Nat

/-- Free values of the spectral array within the tolerances of R276: the descriptor, a fresh number, an index. -/
opaque Config.spectral : List Word → Nat → Nat → Nat

/-- The generator of SYNTH (R279): its seed, and the place in its sequence; a fraction of a revolution in 2^-64. -/
opaque Config.synthAngle : Word → Nat → Nat

/-- The delay in 2^-64 s that a LAT1 value stands for (R303 states no unit). -/
opaque Config.latDelay : Nat → Nat

/-- Byte `i` of the SHA-256 value of a message (R387, R390). -/
opaque Config.sha256 : List (BitVec 8) → Nat → BitVec 8

/-- Whether an HSS signature verifies (RFC 8554): the public key, the message, the signature (R388). -/
opaque Config.hssOk : List (BitVec 8) → List (BitVec 8) → List (BitVec 8) → Bool

/-- Byte `i` of the HSS public key of an attestation seed, or of the identity (R402, R403). -/
opaque Config.hssKey : Option Nat → Nat → BitVec 8

/-- Byte `i` of the signature of a message with a leaf of that key (R402, R403). -/
opaque Config.hssSign : Option Nat → Nat → List (BitVec 8) → Nat → BitVec 8

end Sys2Proof
end

