-- ==== Sys2Proof/Machine/RegSpec.lean ====
section
/-!
DEFINITION. Machine/RegSpec.lean: every register of the BAR0 register map, with its place, its width, its reset
scope and its fields, as the heading line and the field table of each register of the spec give them
(chapters 00 to 21; the index is R463 and R464 of 21_register_index.md).
A register's `desc` gives its BAR0 offset as base + (i / inner) * s1 + (i % inner) * s2 for index i.
Fields that no table gives are reserved: they read 0 and ignore writes (R9).
-/

namespace Sys2Proof.Machine

/-- Access codes of R7 (00_scope.md). -/
inductive RegAcc where
  | rw | ro | wo | w1c | w1s | rwl | rws
deriving DecidableEq, Repr

/-- The reset scope a register's heading names (R464): constant, power-on, PCIe, device warm, cluster. -/
inductive RegScope where
  | constant | powerOn | pcie | warm | cluster
deriving DecidableEq, Repr

/-- One field of a register: bits [hi:lo], its access code and its reset value. -/
structure RegField where
  hi : Nat
  lo : Nat
  acc : RegAcc
  reset : Nat
deriving DecidableEq, Repr

/-- The place and shape of a register (array). -/
structure RegDesc where
  base : Nat
  s1 : Nat
  outer : Nat
  s2 : Nat
  inner : Nat
  wide : Bool
  scope : RegScope
  fields : List RegField
deriving DecidableEq, Repr

/-- The registers of R464, by name. -/
inductive Reg where
  | GLB_ID | GLB_LOCK | GLB_UNIT_GRANT | GLB_UNIT_STAT | GLB_PART_CTL | GLB_PART_ATTRPAL
  | GLB_PART_S2TTB | GLB_PART_ENTRY | GLB_KTTB | GLB_ADM_SRC | GLB_ADM_PART | GLB_ADM_PSTAT
  | GLB_RESET | GLB_RST_STAT | GLB_ADM_GRANT | CLK_STAT | CLK_CTL | CLK_ADM_PIN
  | CLK_PLL_CFG | CLK_PLL_SS | CLK_DOM_SEL | PWR_DOM_CTL | PWR_THERM | PWR_AVS
  | PWR_THROT | PWR_THROT_DIV | SEC_BOOT_STAT | SEC_BOOT_CTL | SEC_BOOT_ADDR | SEC_BOOT_LEN
  | SEC_BOOT_CNT | SEC_SERIAL | SEC_EPOCH | SEC_OTP_POL | SEC_ATT_STAT | SEC_MEAS_MC
  | SEC_MEAS_KP | SEC_MEAS_SV | SEC_OTP_DATA | SEC_OTP_CMD | HIF_FN_NEG | HIF_FN_CTL
  | HIF_FN_STAT | HIF_FN_RSTGEN | HIF_FN_BADDB | HIF_RING_BASE | HIF_RING_CFG | HIF_RING_AUX
  | HIF_RING_SEQ | HIF_ATTIC | HIF_SHADOW | PHASE_SRC_CFG | PHASE_SRC_CPR | PHASE_SRC_LOOP
  | PHASE_SRC_LIM | PHASE_SRC_RATIO | PHASE_SRC_OFFS | PHASE_SRC_STAT | PHASE_SRC_EST | PHASE_SRC_RATE
  | PHASE_SRC_REJ | PHASE_DT_CTL | PHASE_DT_STAT | PHASE_DT_NOW | PHASE_CAL_QUOTA | PHASE_CAL_RPTB
  | PHASE_CAL_RPTP | PHASE_CAL_RPTC | PHASE_CAL_RLOST | PHASE_SRC_OWN | PHASE_ENC_CTL | PHASE_MAINS_CTL
  | PHASE_SYNCIN_CTL | PHASE_SYNCOUT_CTL | PHASE_SYNCOUT_DIV | RSMP_UNIT_OWN | RSMP_UNIT_STAT | RSMP_UNIT_SKIP
  | SPEC_ENG_OWN | SPEC_ENG_STAT | SPEC_ENG_DROP | SFL_LANE_CTL | SFL_LANE_STAT | SFL_LANE_POD
  | SFL_LANE_PCAP | SFL_LANE_PLAT | SFL_LANE_ASYM | SFL_LANE_TOFF | SFL_LANE_TDLY | SFL_LANE_CRC
  | SFL_LANE_RPL | SFL_LANE_TERR | SFL_TS_CTL | SFL_BOND | SFL_LINK_LIM | SFL_LINK_LOAD
  | SFL_LINK_STAT | SFL_CHT_A | SFL_CHT_B | DRV_OUT_CFG | DRV_OUT_MAP | DRV_OUT_AMAX
  | DRV_OUT_SMAX | DRV_OUT_RMAX | DRV_OUT_LACT | DRV_OUT_STAT | DRV_OUT_CLIP | DRV_GCTL
  | DRV_ABT | MEM_STAT | MEM_HASH_KEY | MEM_BAL | MEM_RSV | MEM_SKEW
  | MEM_SKEW_CTL | MEM_SCRUB_CTL | LARD_BANK_CTL | LARD_DARN_CTL | LARD_HASH_KEY | LARD_SKEW
  | LNDR_CTL | LNDR_RTB | LNDR_PART_HEAP | LNDR_PART_SIDE | LNDR_PART_CTL | LNDR_PART_STAT
  | LNDR_PART_CYCLES | LNDR_PART_ROOT | FLT_CLS_CFG | FLT_CNT | FLT_WSUM | FLT_PAGE
  | FLT_CORE_OFF | FLT_LANE_RET | FLT_LOGB | FLT_LOGP | FLT_LOGC | FLT_LOST
  | FLT_CORE_REC | CLU_L2_CTL | CLU_L2_WAYCTL | CLU_L2_WAYOWN | CLU_CORE_PART | CLU_CORE_EPOCH
  | CLU_DISP_MBQ | CLU_DISP_BLOST | CLU_CORE_BOOT | CLU_RESET | SC_CTL | SC_WAYCTL
  | SC_WAYOWN | DBG_PERM
deriving DecidableEq, Repr

/-- Registers in the order of their first BAR0 offset, part 0. -/
def regList0 : List Reg :=
  [.GLB_ID, .GLB_LOCK, .GLB_UNIT_GRANT, .GLB_UNIT_STAT, .GLB_PART_CTL, .GLB_PART_ATTRPAL, .GLB_PART_S2TTB,
   .GLB_PART_ENTRY, .GLB_KTTB, .GLB_ADM_SRC, .GLB_ADM_PART, .GLB_ADM_PSTAT, .GLB_RESET, .GLB_RST_STAT,
   .GLB_ADM_GRANT, .CLK_STAT, .CLK_CTL, .CLK_ADM_PIN, .CLK_PLL_CFG, .CLK_PLL_SS, .CLK_DOM_SEL, .PWR_DOM_CTL,
   .PWR_THERM, .PWR_AVS, .PWR_THROT, .PWR_THROT_DIV, .SEC_BOOT_STAT, .SEC_BOOT_CTL, .SEC_BOOT_ADDR, .SEC_BOOT_LEN,
   .SEC_BOOT_CNT, .SEC_SERIAL, .SEC_EPOCH, .SEC_OTP_POL, .SEC_ATT_STAT, .SEC_MEAS_MC, .SEC_MEAS_KP, .SEC_MEAS_SV,
   .SEC_OTP_DATA, .SEC_OTP_CMD]

/-- Registers in the order of their first BAR0 offset, part 1. -/
def regList1 : List Reg :=
  [.HIF_FN_NEG, .HIF_FN_CTL, .HIF_FN_STAT, .HIF_FN_RSTGEN, .HIF_FN_BADDB, .HIF_RING_BASE, .HIF_RING_CFG,
   .HIF_RING_AUX, .HIF_RING_SEQ, .HIF_ATTIC, .HIF_SHADOW, .PHASE_SRC_CFG, .PHASE_SRC_CPR, .PHASE_SRC_LOOP,
   .PHASE_SRC_LIM, .PHASE_SRC_RATIO, .PHASE_SRC_OFFS, .PHASE_SRC_STAT, .PHASE_SRC_EST, .PHASE_SRC_RATE,
   .PHASE_SRC_REJ, .PHASE_DT_CTL, .PHASE_DT_STAT, .PHASE_DT_NOW, .PHASE_CAL_QUOTA, .PHASE_CAL_RPTB, .PHASE_CAL_RPTP,
   .PHASE_CAL_RPTC, .PHASE_CAL_RLOST, .PHASE_SRC_OWN, .PHASE_ENC_CTL, .PHASE_MAINS_CTL, .PHASE_SYNCIN_CTL,
   .PHASE_SYNCOUT_CTL, .PHASE_SYNCOUT_DIV, .RSMP_UNIT_OWN, .RSMP_UNIT_STAT, .RSMP_UNIT_SKIP, .SPEC_ENG_OWN,
   .SPEC_ENG_STAT]

/-- Registers in the order of their first BAR0 offset, part 2. -/
def regList2 : List Reg :=
  [.SPEC_ENG_DROP, .SFL_LANE_CTL, .SFL_LANE_STAT, .SFL_LANE_POD, .SFL_LANE_PCAP, .SFL_LANE_PLAT, .SFL_LANE_ASYM,
   .SFL_LANE_TOFF, .SFL_LANE_TDLY, .SFL_LANE_CRC, .SFL_LANE_RPL, .SFL_LANE_TERR, .SFL_TS_CTL, .SFL_BOND,
   .SFL_LINK_LIM, .SFL_LINK_LOAD, .SFL_LINK_STAT, .SFL_CHT_A, .SFL_CHT_B, .DRV_OUT_CFG, .DRV_OUT_MAP, .DRV_OUT_AMAX,
   .DRV_OUT_SMAX, .DRV_OUT_RMAX, .DRV_OUT_LACT, .DRV_OUT_STAT, .DRV_OUT_CLIP, .DRV_GCTL, .DRV_ABT, .MEM_STAT,
   .MEM_HASH_KEY, .MEM_BAL, .MEM_RSV, .MEM_SKEW, .MEM_SKEW_CTL, .MEM_SCRUB_CTL, .LARD_BANK_CTL, .LARD_DARN_CTL,
   .LARD_HASH_KEY, .LARD_SKEW]

/-- Registers in the order of their first BAR0 offset, part 3. -/
def regList3 : List Reg :=
  [.LNDR_CTL, .LNDR_RTB, .LNDR_PART_HEAP, .LNDR_PART_SIDE, .LNDR_PART_CTL, .LNDR_PART_STAT, .LNDR_PART_CYCLES,
   .LNDR_PART_ROOT, .FLT_CLS_CFG, .FLT_CNT, .FLT_WSUM, .FLT_PAGE, .FLT_CORE_OFF, .FLT_LANE_RET, .FLT_LOGB,
   .FLT_LOGP, .FLT_LOGC, .FLT_LOST, .FLT_CORE_REC, .CLU_L2_CTL, .CLU_L2_WAYCTL, .CLU_L2_WAYOWN, .CLU_CORE_PART,
   .CLU_CORE_EPOCH, .CLU_DISP_MBQ, .CLU_DISP_BLOST, .CLU_CORE_BOOT, .CLU_RESET, .SC_CTL, .SC_WAYCTL, .SC_WAYOWN,
   .DBG_PERM]

/-- Every register, in the order of its first BAR0 offset. -/
def Reg.all : List Reg :=
  regList0 ++ regList1 ++ regList2 ++ regList3

/-- Place, width, reset scope and fields of each register. -/
def Reg.desc : Reg → RegDesc
  | .GLB_ID => ⟨0x0, 0x0, 1, 0, 1, false, .constant, [⟨31, 16, .ro, 0x8064⟩, ⟨15, 12, .ro, 1⟩, ⟨11, 8, .ro, 1⟩, ⟨7, 4, .ro, 0⟩]⟩
  | .GLB_LOCK => ⟨0x8, 0x0, 1, 0, 1, false, .warm, [⟨0, 0, .w1s, 0⟩]⟩
  | .GLB_UNIT_GRANT => ⟨0x100, 0x4, 8, 0, 1, false, .warm, [⟨11, 0, .rwl, 0⟩, ⟨23, 12, .rwl, 0⟩]⟩
  | .GLB_UNIT_STAT => ⟨0x120, 0x0, 1, 0, 1, false, .warm, [⟨10, 0, .ro, 1⟩, ⟨16, 16, .ro, 0⟩]⟩
  | .GLB_PART_CTL => ⟨0x200, 0x20, 8, 0, 1, false, .warm, [⟨1, 0, .ro, 0⟩, ⟨2, 2, .rw, 0⟩, ⟨3, 3, .rw, 0⟩, ⟨9, 4, .rw, 0⟩, ⟨10, 10, .w1s, 0⟩, ⟨11, 11, .w1s, 0⟩, ⟨12, 12, .w1s, 0⟩, ⟨13, 13, .w1s, 0⟩]⟩
  | .GLB_PART_ATTRPAL => ⟨0x208, 0x20, 8, 0, 1, true, .warm,
    [⟨3, 0, .rw, 0⟩, ⟨11, 8, .rw, 0⟩, ⟨19, 16, .rw, 0⟩, ⟨27, 24, .rw, 0⟩, ⟨35, 32, .rw, 0⟩, ⟨43, 40, .rw, 0⟩, ⟨51, 48, .rw, 0⟩,
     ⟨59, 56, .rw, 0⟩]⟩
  | .GLB_PART_S2TTB => ⟨0x210, 0x20, 8, 0, 1, true, .warm, [⟨0, 0, .rw, 0⟩, ⟨43, 12, .rw, 0⟩]⟩
  | .GLB_PART_ENTRY => ⟨0x218, 0x20, 8, 0, 1, true, .warm, [⟨0, 0, .ro, 0⟩, ⟨1, 1, .ro, 0⟩, ⟨43, 6, .rw, 0⟩]⟩
  | .GLB_KTTB => ⟨0x300, 0x0, 1, 0, 1, true, .warm, [⟨0, 0, .rwl, 0⟩, ⟨43, 12, .rwl, 0⟩]⟩
  | .GLB_ADM_SRC => ⟨0x400, 0x8, 16, 0, 1, true, .warm, [⟨31, 0, .rw, 0⟩, ⟨63, 32, .rw, 0⟩]⟩
  | .GLB_ADM_PART => ⟨0x500, 0x10, 9, 0, 1, true, .warm, [⟨11, 0, .rw, 0⟩, ⟨23, 12, .rw, 0x14⟩, ⟨39, 24, .rw, 0⟩, ⟨47, 40, .rw, 0x14⟩]⟩
  | .GLB_ADM_PSTAT => ⟨0x508, 0x10, 9, 0, 1, true, .warm, [⟨15, 0, .rw, 0⟩, ⟨31, 16, .rw, 0⟩, ⟨47, 32, .rw, 0⟩, ⟨63, 48, .rw, 0⟩]⟩
  | .GLB_RESET => ⟨0x600, 0x0, 1, 0, 1, false, .pcie, [⟨0, 0, .w1s, 0⟩, ⟨1, 1, .ro, 0⟩]⟩
  | .GLB_RST_STAT => ⟨0x604, 0x0, 1, 0, 1, false, .powerOn, [⟨1, 0, .ro, 1⟩, ⟨2, 2, .ro, 0⟩]⟩
  | .GLB_ADM_GRANT => ⟨0x1000, 0x8, 256, 0, 1, true, .warm, [⟨3, 0, .rw, 0⟩, ⟨5, 4, .rw, 0⟩, ⟨9, 6, .rw, 0⟩, ⟨25, 10, .rw, 0⟩, ⟨63, 32, .rw, 0⟩]⟩
  | .CLK_STAT => ⟨0x10000, 0x0, 1, 0, 1, false, .pcie, [⟨0, 0, .w1c, 0⟩, ⟨1, 1, .w1c, 0⟩, ⟨2, 2, .w1c, 0⟩, ⟨3, 3, .w1c, 0⟩, ⟨9, 4, .w1c, 0⟩, ⟨15, 10, .ro, 0⟩, ⟨16, 16, .ro, 0⟩, ⟨19, 17, .ro, 0⟩]⟩
  | .CLK_CTL => ⟨0x10004, 0x0, 1, 0, 1, false, .pcie, [⟨0, 0, .w1s, 0⟩]⟩
  | .CLK_ADM_PIN => ⟨0x10008, 0x0, 1, 0, 1, false, .pcie, [⟨24, 0, .ro, 0⟩]⟩
  | .CLK_PLL_CFG => ⟨0x10100, 0x10, 6, 0, 1, true, .pcie, [⟨1, 0, .rwl, 0⟩, ⟨10, 2, .rwl, 0⟩, ⟨34, 11, .rwl, 0⟩, ⟨35, 35, .w1s, 0⟩, ⟨36, 36, .w1c, 0⟩, ⟨37, 37, .ro, 0⟩]⟩
  | .CLK_PLL_SS => ⟨0x10108, 0x10, 6, 0, 1, false, .pcie, [⟨0, 0, .rwl, 0⟩, ⟨5, 1, .rwl, 0⟩, ⟨11, 6, .rwl, 0x1e⟩]⟩
  | .CLK_DOM_SEL => ⟨0x10200, 0x4, 25, 0, 1, false, .pcie, [⟨1, 0, .rwl, 0⟩, ⟨7, 2, .rwl, 0⟩, ⟨8, 8, .ro, 0⟩, ⟨9, 9, .w1c, 0⟩, ⟨10, 10, .ro, 0⟩]⟩
  | .PWR_DOM_CTL => ⟨0x20000, 0x4, 30, 0, 1, false, .pcie, [⟨0, 0, .rw, 1⟩, ⟨2, 1, .ro, 1⟩, ⟨3, 3, .ro, 0⟩, ⟨4, 4, .w1c, 0⟩]⟩
  | .PWR_THERM => ⟨0x20100, 0x4, 16, 0, 1, false, .pcie, [⟨11, 0, .ro, 0⟩, ⟨12, 12, .ro, 0⟩]⟩
  | .PWR_AVS => ⟨0x20180, 0x4, 2, 0, 1, false, .pcie, [⟨9, 0, .ro, 0x320⟩, ⟨19, 10, .rwl, 0x28a⟩, ⟨20, 20, .rwl, 1⟩, ⟨21, 21, .w1c, 0⟩]⟩
  | .PWR_THROT => ⟨0x20200, 0x0, 1, 0, 1, false, .powerOn, [⟨7, 0, .rwl, 0x64⟩, ⟨15, 8, .rwl, 0x5f⟩, ⟨23, 16, .rwl, 0x73⟩, ⟨24, 24, .rwl, 0⟩, ⟨25, 25, .ro, 0⟩, ⟨26, 26, .w1c, 0⟩, ⟨27, 27, .w1s, 0⟩]⟩
  | .PWR_THROT_DIV => ⟨0x20300, 0x4, 25, 0, 1, false, .pcie, [⟨5, 0, .rwl, 0⟩]⟩
  | .SEC_BOOT_STAT => ⟨0x30000, 0x0, 1, 0, 1, false, .pcie, [⟨3, 0, .ro, 0⟩, ⟨11, 4, .ro, 0⟩, ⟨13, 12, .ro, 0⟩]⟩
  | .SEC_BOOT_CTL => ⟨0x30004, 0x0, 1, 0, 1, false, .pcie, [⟨0, 0, .w1s, 0⟩, ⟨1, 1, .w1s, 0⟩]⟩
  | .SEC_BOOT_ADDR => ⟨0x30008, 0x0, 1, 0, 1, true, .pcie, [⟨63, 12, .rw, 0⟩]⟩
  | .SEC_BOOT_LEN => ⟨0x30010, 0x0, 1, 0, 1, false, .pcie, [⟨26, 0, .rw, 0⟩]⟩
  | .SEC_BOOT_CNT => ⟨0x30014, 0x0, 1, 0, 1, false, .pcie, [⟨16, 0, .ro, 0⟩]⟩
  | .SEC_SERIAL => ⟨0x30018, 0x0, 1, 0, 1, true, .constant, [⟨63, 0, .ro, 0⟩]⟩
  | .SEC_EPOCH => ⟨0x30020, 0x0, 1, 0, 1, false, .pcie, [⟨6, 0, .ro, 0⟩, ⟨14, 8, .ro, 0⟩, ⟨22, 16, .ro, 0⟩, ⟨30, 24, .ro, 0⟩]⟩
  | .SEC_OTP_POL => ⟨0x30024, 0x0, 1, 0, 1, false, .pcie, [⟨5, 0, .ro, 0⟩, ⟨13, 8, .ro, 0⟩, ⟨16, 16, .ro, 0⟩, ⟨17, 17, .ro, 0⟩, ⟨18, 18, .ro, 0⟩]⟩
  | .SEC_ATT_STAT => ⟨0x30028, 0x0, 1, 0, 1, false, .pcie, [⟨1, 0, .ro, 0⟩, ⟨22, 2, .ro, 0⟩]⟩
  | .SEC_MEAS_MC => ⟨0x30100, 0x0, 1, 8, 4, true, .pcie, [⟨63, 0, .ro, 0⟩]⟩
  | .SEC_MEAS_KP => ⟨0x30120, 0x0, 1, 8, 4, true, .pcie, [⟨63, 0, .ro, 0⟩]⟩
  | .SEC_MEAS_SV => ⟨0x30140, 0x20, 8, 8, 4, true, .warm, [⟨63, 0, .ro, 0⟩]⟩
  | .SEC_OTP_DATA => ⟨0x30200, 0x8, 4, 0, 1, true, .pcie, [⟨63, 0, .rw, 0⟩]⟩
  | .SEC_OTP_CMD => ⟨0x30220, 0x0, 1, 0, 1, false, .pcie, [⟨1, 0, .wo, 0⟩, ⟨4, 2, .wo, 0⟩, ⟨5, 5, .ro, 0⟩, ⟨6, 6, .w1c, 0⟩]⟩
  | .HIF_FN_NEG => ⟨0x40000, 0x1000, 9, 0, 1, false, .pcie, [⟨2, 0, .ro, 7⟩, ⟨9, 8, .rw, 1⟩, ⟨13, 12, .ro, 1⟩, ⟨16, 16, .w1c, 0⟩, ⟨18, 17, .ro, 0⟩]⟩
  | .HIF_FN_CTL => ⟨0x40004, 0x1000, 9, 0, 1, false, .warm, [⟨0, 0, .w1s, 0⟩, ⟨1, 1, .w1s, 0⟩, ⟨2, 2, .w1s, 0⟩, ⟨3, 3, .w1s, 0⟩, ⟨15, 8, .rw, 0⟩]⟩
  | .HIF_FN_STAT => ⟨0x40008, 0x1000, 9, 0, 1, false, .pcie, [⟨1, 0, .ro, 0⟩, ⟨2, 2, .ro, 0⟩, ⟨3, 3, .ro, 0⟩, ⟨5, 4, .ro, 0⟩]⟩
  | .HIF_FN_RSTGEN => ⟨0x40010, 0x1000, 9, 0, 1, true, .pcie, [⟨31, 0, .ro, 0⟩, ⟨63, 32, .ro, 0⟩]⟩
  | .HIF_FN_BADDB => ⟨0x40018, 0x1000, 9, 0, 1, true, .pcie, [⟨63, 0, .ro, 0⟩]⟩
  | .HIF_RING_BASE => ⟨0x40100, 0x1000, 9, 32, 21, true, .pcie, [⟨63, 12, .rw, 0⟩]⟩
  | .HIF_RING_CFG => ⟨0x40108, 0x1000, 9, 32, 21, false, .pcie, [⟨4, 0, .rw, 4⟩, ⟨5, 5, .rw, 0⟩, ⟨15, 8, .rw, 0⟩, ⟨16, 16, .rw, 0⟩, ⟨31, 20, .rw, 0⟩]⟩
  | .HIF_RING_AUX => ⟨0x40110, 0x1000, 9, 32, 21, true, .pcie, [⟨5, 0, .rw, 0x10⟩, ⟨63, 12, .rw, 0⟩]⟩
  | .HIF_RING_SEQ => ⟨0x40118, 0x1000, 9, 32, 21, true, .pcie, [⟨47, 0, .rws, 0⟩]⟩
  | .HIF_ATTIC => ⟨0x4a000, 0x8, 9, 0, 1, true, .pcie, [⟨5, 0, .rws, 0⟩, ⟨6, 6, .rws, 0⟩, ⟨11, 8, .rws, 9⟩, ⟨21, 16, .rws, 0⟩]⟩
  | .HIF_SHADOW => ⟨0x4a100, 0x8, 9, 0, 1, true, .pcie, [⟨0, 0, .rws, 0⟩, ⟨5, 1, .rws, 0xa⟩, ⟨43, 12, .rws, 0⟩]⟩
  | .PHASE_SRC_CFG => ⟨0x100000, 0x1000, 15, 0, 1, false, .warm, [⟨0, 0, .rw, 0⟩, ⟨3, 1, .rw, 0⟩, ⟨9, 4, .rw, 0⟩, ⟨10, 10, .rw, 1⟩, ⟨11, 11, .rw, 1⟩, ⟨12, 12, .rw, 0⟩, ⟨13, 13, .rw, 0⟩, ⟨19, 16, .rw, 3⟩, ⟨20, 20, .w1s, 0⟩]⟩
  | .PHASE_SRC_CPR => ⟨0x100004, 0x1000, 15, 0, 1, false, .warm, [⟨23, 0, .rw, 1⟩, ⟨25, 24, .rw, 2⟩]⟩
  | .PHASE_SRC_LOOP => ⟨0x100008, 0x1000, 15, 0, 1, false, .warm, [⟨13, 0, .rw, 0x64⟩, ⟨23, 14, .rw, 0x40⟩, ⟨27, 24, .rw, 8⟩]⟩
  | .PHASE_SRC_LIM => ⟨0x10000c, 0x1000, 15, 0, 1, false, .warm, [⟨11, 0, .rw, 0x32⟩, ⟨23, 12, .rw, 0x3e8⟩, ⟨27, 24, .rw, 8⟩, ⟨31, 28, .rw, 4⟩]⟩
  | .PHASE_SRC_RATIO => ⟨0x100010, 0x1000, 15, 0, 1, true, .warm, [⟨31, 0, .rw, 1⟩, ⟨63, 32, .rw, 1⟩]⟩
  | .PHASE_SRC_OFFS => ⟨0x100018, 0x1000, 15, 0, 1, true, .warm, [⟨63, 0, .rw, 0⟩]⟩
  | .PHASE_SRC_STAT => ⟨0x100020, 0x1000, 15, 0, 1, false, .warm, [⟨1, 0, .ro, 0⟩, ⟨2, 2, .ro, 0⟩, ⟨15, 8, .ro, 0⟩, ⟨23, 16, .ro, 0⟩]⟩
  | .PHASE_SRC_EST => ⟨0x100028, 0x1000, 15, 0, 1, true, .warm, [⟨63, 0, .ro, 0⟩]⟩
  | .PHASE_SRC_RATE => ⟨0x100030, 0x1000, 15, 0, 1, true, .warm, [⟨63, 0, .ro, 0⟩]⟩
  | .PHASE_SRC_REJ => ⟨0x100038, 0x1000, 15, 0, 1, true, .warm, [⟨63, 0, .ro, 0⟩]⟩
  | .PHASE_DT_CTL => ⟨0x10f000, 0x0, 1, 0, 1, false, .warm, [⟨1, 0, .rw, 0⟩, ⟨23, 8, .rw, 0⟩]⟩
  | .PHASE_DT_STAT => ⟨0x10f004, 0x0, 1, 0, 1, false, .warm, [⟨1, 0, .ro, 0⟩, ⟨31, 16, .ro, 0⟩]⟩
  | .PHASE_DT_NOW => ⟨0x10f008, 0x0, 1, 0, 1, true, .pcie, [⟨63, 0, .ro, 0⟩]⟩
  | .PHASE_CAL_QUOTA => ⟨0x120000, 0x1000, 8, 0, 1, false, .warm, [⟨12, 0, .rw, 0⟩, ⟨28, 16, .ro, 0⟩]⟩
  | .PHASE_CAL_RPTB => ⟨0x120008, 0x1000, 8, 0, 1, true, .warm, [⟨0, 0, .rw, 0⟩, ⟨4, 1, .rw, 4⟩, ⟨43, 9, .rw, 0⟩]⟩
  | .PHASE_CAL_RPTP => ⟨0x120010, 0x1000, 8, 0, 1, false, .warm, [⟨15, 0, .ro, 0⟩]⟩
  | .PHASE_CAL_RPTC => ⟨0x120014, 0x1000, 8, 0, 1, false, .warm, [⟨15, 0, .rw, 0⟩]⟩
  | .PHASE_CAL_RLOST => ⟨0x120018, 0x1000, 8, 0, 1, true, .warm, [⟨63, 0, .ro, 0⟩]⟩
  | .PHASE_SRC_OWN => ⟨0x130000, 0x4, 15, 0, 1, false, .warm, [⟨2, 0, .rw, 0⟩, ⟨3, 3, .rw, 0⟩, ⟨15, 8, .rw, 0⟩]⟩
  | .PHASE_ENC_CTL => ⟨0x130040, 0x4, 8, 0, 1, false, .warm, [⟨2, 0, .rw, 0⟩, ⟨3, 3, .rw, 0⟩, ⟨7, 4, .rw, 2⟩]⟩
  | .PHASE_MAINS_CTL => ⟨0x130060, 0x4, 2, 0, 1, false, .warm, [⟨0, 0, .rw, 0⟩, ⟨8, 1, .rw, 0x28⟩]⟩
  | .PHASE_SYNCIN_CTL => ⟨0x130068, 0x0, 1, 0, 1, false, .warm, [⟨0, 0, .rw, 0⟩, ⟨4, 1, .rw, 2⟩]⟩
  | .PHASE_SYNCOUT_CTL => ⟨0x130070, 0x0, 1, 0, 1, false, .warm, [⟨1, 0, .rw, 0⟩, ⟨5, 2, .rw, 0⟩, ⟨6, 6, .rw, 0⟩, ⟨14, 7, .rw, 0x19⟩, ⟨17, 15, .rw, 0⟩, ⟨18, 18, .rw, 0⟩, ⟨26, 19, .rw, 0⟩]⟩
  | .PHASE_SYNCOUT_DIV => ⟨0x130074, 0x0, 1, 0, 1, false, .warm, [⟨23, 0, .rw, 1⟩]⟩
  | .RSMP_UNIT_OWN => ⟨0x140000, 0x4, 8, 0, 1, false, .warm, [⟨2, 0, .rw, 0⟩, ⟨3, 3, .rw, 0⟩]⟩
  | .RSMP_UNIT_STAT => ⟨0x140040, 0x4, 8, 0, 1, false, .warm, [⟨3, 0, .ro, 0⟩, ⟨25, 16, .ro, 0⟩]⟩
  | .RSMP_UNIT_SKIP => ⟨0x140080, 0x8, 8, 0, 1, true, .warm, [⟨63, 0, .ro, 0⟩]⟩
  | .SPEC_ENG_OWN => ⟨0x180000, 0x4, 16, 0, 1, false, .warm, [⟨2, 0, .rw, 0⟩, ⟨3, 3, .rw, 0⟩]⟩
  | .SPEC_ENG_STAT => ⟨0x180040, 0x4, 16, 0, 1, false, .warm, [⟨15, 0, .ro, 0⟩, ⟨16, 16, .ro, 0⟩, ⟨21, 17, .ro, 0⟩]⟩
  | .SPEC_ENG_DROP => ⟨0x180080, 0x8, 16, 0, 1, true, .warm, [⟨63, 0, .ro, 0⟩]⟩
  | .SFL_LANE_CTL => ⟨0x200000, 0x100, 8, 0, 1, false, .warm, [⟨0, 0, .rw, 0⟩, ⟨2, 1, .rw, 0⟩, ⟨4, 3, .rw, 3⟩, ⟨5, 5, .rw, 1⟩, ⟨6, 6, .rw, 1⟩, ⟨23, 16, .rw, 0x14⟩]⟩
  | .SFL_LANE_STAT => ⟨0x200004, 0x100, 8, 0, 1, false, .warm, [⟨2, 0, .ro, 0⟩, ⟨4, 3, .ro, 0⟩, ⟨5, 5, .ro, 0⟩, ⟨7, 6, .ro, 0⟩, ⟨10, 8, .ro, 0⟩, ⟨11, 11, .ro, 0⟩, ⟨19, 12, .ro, 0⟩]⟩
  | .SFL_LANE_POD => ⟨0x200008, 0x100, 8, 0, 1, true, .warm, [⟨63, 0, .ro, 0⟩]⟩
  | .SFL_LANE_PCAP => ⟨0x200010, 0x100, 8, 0, 1, true, .warm, [⟨63, 0, .ro, 0⟩]⟩
  | .SFL_LANE_PLAT => ⟨0x200018, 0x100, 8, 0, 1, true, .warm, [⟨63, 0, .ro, 0⟩]⟩
  | .SFL_LANE_ASYM => ⟨0x200020, 0x100, 8, 0, 1, false, .warm, [⟨15, 0, .rw, 0⟩]⟩
  | .SFL_LANE_TOFF => ⟨0x200028, 0x100, 8, 0, 1, true, .warm, [⟨63, 0, .ro, 0⟩]⟩
  | .SFL_LANE_TDLY => ⟨0x200030, 0x100, 8, 0, 1, true, .warm, [⟨63, 0, .ro, 0⟩]⟩
  | .SFL_LANE_CRC => ⟨0x200038, 0x100, 8, 0, 1, true, .warm, [⟨63, 0, .ro, 0⟩]⟩
  | .SFL_LANE_RPL => ⟨0x200040, 0x100, 8, 0, 1, true, .warm, [⟨31, 0, .ro, 0⟩, ⟨63, 32, .ro, 0⟩]⟩
  | .SFL_LANE_TERR => ⟨0x200048, 0x100, 8, 0, 1, true, .warm, [⟨63, 0, .ro, 0⟩]⟩
  | .SFL_TS_CTL => ⟨0x200800, 0x0, 1, 0, 1, false, .warm, [⟨15, 0, .rw, 0x3e8⟩]⟩
  | .SFL_BOND => ⟨0x200900, 0x4, 8, 0, 1, false, .warm, [⟨7, 0, .rw, 0⟩, ⟨8, 8, .rw, 0⟩, ⟨9, 9, .rw, 0⟩, ⟨10, 10, .ro, 0⟩, ⟨23, 16, .ro, 0⟩]⟩
  | .SFL_LINK_LIM => ⟨0x200a00, 0x8, 8, 0, 1, true, .warm, [⟨39, 0, .rw, 0⟩]⟩
  | .SFL_LINK_LOAD => ⟨0x200a40, 0x8, 8, 0, 1, true, .warm, [⟨39, 0, .ro, 0⟩]⟩
  | .SFL_LINK_STAT => ⟨0x200a80, 0x4, 8, 0, 1, false, .warm, [⟨0, 0, .w1c, 0⟩]⟩
  | .SFL_CHT_A => ⟨0x240000, 0x10, 16384, 0, 1, true, .warm, [⟨0, 0, .rw, 0⟩, ⟨3, 1, .rw, 0⟩, ⟨19, 4, .rw, 0⟩, ⟨22, 20, .rw, 0⟩, ⟨23, 23, .rw, 0⟩, ⟨24, 24, .rw, 0⟩, ⟨25, 25, .rw, 0⟩, ⟨26, 26, .rw, 0⟩, ⟨39, 28, .rw, 0⟩, ⟨51, 40, .rw, 0⟩]⟩
  | .SFL_CHT_B => ⟨0x240008, 0x10, 16384, 0, 1, true, .warm, [⟨4, 0, .rw, 6⟩, ⟨43, 6, .rw, 0⟩]⟩
  | .DRV_OUT_CFG => ⟨0x280000, 0x40, 64, 0, 1, false, .warm, [⟨2, 0, .rw, 0⟩, ⟨3, 3, .rw, 0⟩, ⟨5, 4, .rw, 0⟩, ⟨9, 6, .rw, 0⟩, ⟨11, 10, .rw, 0⟩, ⟨12, 12, .rw, 0⟩, ⟨23, 13, .rw, 0x64⟩]⟩
  | .DRV_OUT_MAP => ⟨0x280004, 0x40, 64, 0, 1, false, .warm, [⟨2, 0, .rw, 0⟩, ⟨18, 3, .rw, 0⟩, ⟨30, 19, .rw, 0⟩, ⟨31, 31, .rw, 0⟩]⟩
  | .DRV_OUT_AMAX => ⟨0x280008, 0x40, 64, 0, 1, false, .warm, [⟨31, 0, .rw, 0⟩]⟩
  | .DRV_OUT_SMAX => ⟨0x28000c, 0x40, 64, 0, 1, false, .warm, [⟨31, 0, .rw, 0⟩]⟩
  | .DRV_OUT_RMAX => ⟨0x280010, 0x40, 64, 0, 1, false, .warm, [⟨31, 0, .rw, 0⟩]⟩
  | .DRV_OUT_LACT => ⟨0x280014, 0x40, 64, 0, 1, false, .warm, [⟨1, 0, .rw, 2⟩, ⟨3, 2, .rw, 2⟩, ⟨5, 4, .rw, 2⟩, ⟨10, 6, .rw, 0xa⟩, ⟨26, 11, .rw, 0⟩]⟩
  | .DRV_OUT_STAT => ⟨0x280018, 0x40, 64, 0, 1, false, .warm, [⟨1, 0, .ro, 0⟩, ⟨5, 2, .ro, 0⟩, ⟨9, 6, .ro, 0⟩, ⟨10, 10, .w1c, 0⟩]⟩
  | .DRV_OUT_CLIP => ⟨0x280020, 0x40, 64, 0, 1, true, .warm, [⟨63, 0, .ro, 0⟩]⟩
  | .DRV_GCTL => ⟨0x282000, 0x0, 1, 0, 1, false, .warm, [⟨0, 0, .rwl, 0⟩, ⟨1, 1, .w1s, 0⟩, ⟨5, 2, .rw, 1⟩, ⟨13, 6, .rw, 0x10⟩, ⟨14, 14, .w1s, 0⟩]⟩
  | .DRV_ABT => ⟨0x282004, 0x0, 1, 0, 1, false, .warm, [⟨0, 0, .w1c, 0⟩, ⟨1, 1, .w1c, 0⟩, ⟨2, 2, .w1c, 0⟩, ⟨15, 8, .w1c, 0⟩]⟩
  | .MEM_STAT => ⟨0x300000, 0x0, 1, 0, 1, false, .pcie, [⟨2, 0, .ro, 0⟩, ⟨11, 8, .ro, 0⟩, ⟨23, 16, .ro, 0⟩, ⟨24, 24, .ro, 0⟩]⟩
  | .MEM_HASH_KEY => ⟨0x300008, 0x0, 1, 0, 1, true, .pcie, [⟨63, 0, .rw, 0⟩]⟩
  | .MEM_BAL => ⟨0x300010, 0x0, 1, 0, 1, true, .warm, [⟨7, 0, .rw, 0⟩, ⟨15, 8, .rw, 0⟩, ⟨16, 16, .ro, 0⟩]⟩
  | .MEM_RSV => ⟨0x300100, 0x4, 8, 0, 1, false, .warm, [⟨7, 0, .rw, 0⟩]⟩
  | .MEM_SKEW => ⟨0x300200, 0x0, 1, 0, 1, true, .warm, [⟨63, 0, .ro, 0⟩]⟩
  | .MEM_SKEW_CTL => ⟨0x300208, 0x0, 1, 0, 1, false, .warm, [⟨0, 0, .rw, 0⟩, ⟨31, 16, .rw, 0x3e8⟩]⟩
  | .MEM_SCRUB_CTL => ⟨0x300300, 0x0, 1, 0, 1, false, .warm, [⟨0, 0, .rw, 1⟩, ⟨15, 8, .rw, 0x18⟩]⟩
  | .LARD_BANK_CTL => ⟨0x340000, 0x4, 64, 0, 1, false, .pcie, [⟨1, 0, .rw, 0⟩, ⟨3, 2, .ro, 0⟩, ⟨5, 4, .rw, 0⟩, ⟨8, 6, .rw, 0⟩, ⟨9, 9, .rw, 1⟩, ⟨10, 10, .w1c, 0⟩, ⟨14, 11, .ro, 0⟩, ⟨15, 15, .ro, 0⟩]⟩
  | .LARD_DARN_CTL => ⟨0x340100, 0x0, 1, 0, 1, false, .warm, [⟨0, 0, .rw, 1⟩, ⟨19, 4, .rw, 0x64⟩]⟩
  | .LARD_HASH_KEY => ⟨0x340200, 0x8, 8, 0, 1, true, .pcie, [⟨35, 0, .rw, 0⟩]⟩
  | .LARD_SKEW => ⟨0x340300, 0x0, 1, 0, 1, true, .warm, [⟨63, 0, .ro, 0⟩]⟩
  | .LNDR_CTL => ⟨0x380000, 0x0, 1, 0, 1, false, .warm, [⟨0, 0, .rw, 0⟩, ⟨5, 1, .rw, 0x10⟩]⟩
  | .LNDR_RTB => ⟨0x380008, 0x0, 1, 0, 1, true, .warm, [⟨43, 19, .rw, 0⟩]⟩
  | .LNDR_PART_HEAP => ⟨0x381000, 0x40, 8, 0, 1, true, .warm, [⟨16, 0, .rw, 0⟩, ⟨43, 21, .rw, 0⟩, ⟨59, 44, .rw, 0⟩]⟩
  | .LNDR_PART_SIDE => ⟨0x381008, 0x40, 8, 0, 1, true, .warm, [⟨43, 16, .rw, 0⟩]⟩
  | .LNDR_PART_CTL => ⟨0x381010, 0x40, 8, 0, 1, false, .warm, [⟨0, 0, .rw, 0⟩, ⟨7, 1, .rw, 4⟩, ⟨15, 8, .rw, 0x10⟩, ⟨23, 16, .rw, 0xc0⟩, ⟨31, 24, .rw, 0x40⟩]⟩
  | .LNDR_PART_STAT => ⟨0x381014, 0x40, 8, 0, 1, false, .warm, [⟨2, 0, .ro, 0⟩, ⟨3, 3, .ro, 0⟩, ⟨7, 4, .ro, 0⟩, ⟨24, 8, .ro, 0⟩]⟩
  | .LNDR_PART_CYCLES => ⟨0x381018, 0x40, 8, 0, 1, true, .warm, [⟨31, 0, .ro, 0⟩, ⟨63, 32, .ro, 0⟩]⟩
  | .LNDR_PART_ROOT => ⟨0x382000, 0x40, 8, 8, 8, true, .warm, [⟨0, 0, .rw, 0⟩, ⟨43, 9, .rw, 0⟩, ⟨63, 44, .rw, 0⟩]⟩
  | .FLT_CLS_CFG => ⟨0x3c0000, 0x8, 10, 0, 1, true, .warm, [⟨15, 0, .rw, 0⟩, ⟨47, 16, .rw, 0⟩, ⟨50, 48, .rw, 0⟩, ⟨51, 51, .rw, 0⟩, ⟨52, 52, .rw, 0⟩, ⟨53, 53, .rw, 1⟩]⟩
  | .FLT_CNT => ⟨0x3c1000, 0x8, 298, 0, 1, true, .warm, [⟨39, 0, .ro, 0⟩, ⟨55, 40, .ro, 0⟩, ⟨63, 56, .ro, 0⟩]⟩
  | .FLT_WSUM => ⟨0x3c2000, 0x4, 298, 0, 1, false, .warm, [⟨15, 0, .ro, 0⟩, ⟨16, 16, .ro, 0⟩]⟩
  | .FLT_PAGE => ⟨0x3c3000, 0x8, 32, 0, 1, true, .pcie, [⟨0, 0, .rws, 0⟩, ⟨43, 12, .rws, 0⟩]⟩
  | .FLT_CORE_OFF => ⟨0x3c3100, 0x0, 1, 0, 1, true, .pcie, [⟨63, 0, .rws, 0⟩]⟩
  | .FLT_LANE_RET => ⟨0x3c3108, 0x0, 1, 0, 1, false, .pcie, [⟨7, 0, .rws, 0⟩]⟩
  | .FLT_LOGB => ⟨0x3c3200, 0x0, 1, 0, 1, true, .warm, [⟨0, 0, .rw, 0⟩, ⟨4, 1, .rw, 8⟩, ⟨43, 9, .rw, 0⟩]⟩
  | .FLT_LOGP => ⟨0x3c3208, 0x0, 1, 0, 1, false, .warm, [⟨15, 0, .ro, 0⟩]⟩
  | .FLT_LOGC => ⟨0x3c320c, 0x0, 1, 0, 1, false, .warm, [⟨15, 0, .rw, 0⟩]⟩
  | .FLT_LOST => ⟨0x3c3210, 0x0, 1, 0, 1, true, .warm, [⟨63, 0, .ro, 0⟩]⟩
  | .FLT_CORE_REC => ⟨0x3c4000, 0x20, 64, 8, 4, true, .warm, [⟨63, 0, .ro, 0⟩]⟩
  | .CLU_L2_CTL => ⟨0x410000, 0x40000, 8, 0, 1, false, .warm, [⟨1, 0, .rw, 1⟩, ⟨2, 2, .rw, 1⟩]⟩
  | .CLU_L2_WAYCTL => ⟨0x410008, 0x40000, 8, 0, 1, true, .warm, [⟨11, 0, .rw, 0⟩, ⟨15, 15, .ro, 0⟩, ⟨31, 16, .rws, 0⟩]⟩
  | .CLU_L2_WAYOWN => ⟨0x410010, 0x40000, 8, 0, 1, true, .warm, [⟨47, 0, .rw, 0⟩]⟩
  | .CLU_CORE_PART => ⟨0x430000, 0x40000, 8, 4, 8, false, .warm, [⟨2, 0, .rw, 0⟩, ⟨3, 3, .rw, 0⟩, ⟨4, 4, .ro, 0⟩]⟩
  | .CLU_CORE_EPOCH => ⟨0x430020, 0x40000, 8, 4, 8, false, .warm, [⟨31, 0, .ro, 0⟩]⟩
  | .CLU_DISP_MBQ => ⟨0x430040, 0x40000, 8, 4, 8, false, .warm, [⟨8, 0, .rw, 0⟩, ⟨24, 16, .ro, 0⟩]⟩
  | .CLU_DISP_BLOST => ⟨0x430080, 0x40000, 8, 0, 1, true, .cluster, [⟨63, 0, .ro, 0⟩]⟩
  | .CLU_CORE_BOOT => ⟨0x4300c0, 0x40000, 8, 8, 8, true, .cluster, [⟨0, 0, .w1s, 0⟩, ⟨1, 1, .ro, 0⟩, ⟨47, 2, .rw, 0⟩]⟩
  | .CLU_RESET => ⟨0x430100, 0x40000, 8, 0, 1, false, .warm, [⟨0, 0, .w1s, 0⟩, ⟨1, 1, .ro, 0⟩]⟩
  | .SC_CTL => ⟨0x600000, 0x0, 1, 0, 1, false, .warm, [⟨1, 0, .rw, 1⟩, ⟨2, 2, .rw, 1⟩]⟩
  | .SC_WAYCTL => ⟨0x600008, 0x0, 1, 0, 1, true, .warm, [⟨11, 0, .rw, 0⟩, ⟨15, 15, .ro, 0⟩, ⟨31, 16, .rws, 0⟩]⟩
  | .SC_WAYOWN => ⟨0x600010, 0x0, 1, 0, 1, true, .warm, [⟨47, 0, .rw, 0⟩]⟩
  | .DBG_PERM => ⟨0x700000, 0x0, 1, 0, 1, false, .pcie, [⟨2, 0, .ro, 0⟩]⟩

/-- A named field of a register array. -/
structure Fld where
  reg : Reg
  hi : Nat
  lo : Nat
deriving DecidableEq, Repr

@[reducible] def fldGLB_ID_PART : Fld := ⟨.GLB_ID, 31, 16⟩
@[reducible] def fldGLB_ID_FAMILY : Fld := ⟨.GLB_ID, 15, 12⟩
@[reducible] def fldGLB_ID_STEP_MAJ : Fld := ⟨.GLB_ID, 11, 8⟩
@[reducible] def fldGLB_ID_STEP_MIN : Fld := ⟨.GLB_ID, 7, 4⟩
@[reducible] def fldGLB_LOCK_LOCK : Fld := ⟨.GLB_LOCK, 0, 0⟩
@[reducible] def fldGLB_UNIT_GRANT_BASE : Fld := ⟨.GLB_UNIT_GRANT, 11, 0⟩
@[reducible] def fldGLB_UNIT_GRANT_COUNT : Fld := ⟨.GLB_UNIT_GRANT, 23, 12⟩
@[reducible] def fldGLB_UNIT_STAT_DIMIDX_USED : Fld := ⟨.GLB_UNIT_STAT, 10, 0⟩
@[reducible] def fldGLB_UNIT_STAT_REFILL : Fld := ⟨.GLB_UNIT_STAT, 16, 16⟩
@[reducible] def fldGLB_PART_CTL_STATE : Fld := ⟨.GLB_PART_CTL, 1, 0⟩
@[reducible] def fldGLB_PART_CTL_LDX : Fld := ⟨.GLB_PART_CTL, 2, 2⟩
@[reducible] def fldGLB_PART_CTL_MULX : Fld := ⟨.GLB_PART_CTL, 3, 3⟩
@[reducible] def fldGLB_PART_CTL_TCBBANK : Fld := ⟨.GLB_PART_CTL, 9, 4⟩
@[reducible] def fldGLB_PART_CTL_CLAIM : Fld := ⟨.GLB_PART_CTL, 10, 10⟩
@[reducible] def fldGLB_PART_CTL_START : Fld := ⟨.GLB_PART_CTL, 11, 11⟩
@[reducible] def fldGLB_PART_CTL_RESET : Fld := ⟨.GLB_PART_CTL, 12, 12⟩
@[reducible] def fldGLB_PART_CTL_RELEASE : Fld := ⟨.GLB_PART_CTL, 13, 13⟩
@[reducible] def fldGLB_PART_ATTRPAL_VALUE : Fld := ⟨.GLB_PART_ATTRPAL, 63, 0⟩
@[reducible] def fldGLB_PART_S2TTB_S2EN : Fld := ⟨.GLB_PART_S2TTB, 0, 0⟩
@[reducible] def fldGLB_PART_S2TTB_BASE : Fld := ⟨.GLB_PART_S2TTB, 43, 12⟩
@[reducible] def fldGLB_PART_ENTRY_VERIFIED : Fld := ⟨.GLB_PART_ENTRY, 0, 0⟩
@[reducible] def fldGLB_PART_ENTRY_LERR : Fld := ⟨.GLB_PART_ENTRY, 1, 1⟩
@[reducible] def fldGLB_PART_ENTRY_PADDR : Fld := ⟨.GLB_PART_ENTRY, 43, 6⟩
@[reducible] def fldGLB_KTTB_EN : Fld := ⟨.GLB_KTTB, 0, 0⟩
@[reducible] def fldGLB_KTTB_BASE : Fld := ⟨.GLB_KTTB, 43, 12⟩
@[reducible] def fldGLB_ADM_SRC_WMAX : Fld := ⟨.GLB_ADM_SRC, 31, 0⟩
@[reducible] def fldGLB_ADM_SRC_DYN : Fld := ⟨.GLB_ADM_SRC, 63, 32⟩
@[reducible] def fldGLB_ADM_PART_FLIPGAP : Fld := ⟨.GLB_ADM_PART, 11, 0⟩
@[reducible] def fldGLB_ADM_PART_TSTREAM : Fld := ⟨.GLB_ADM_PART, 23, 12⟩
@[reducible] def fldGLB_ADM_PART_HSTALL : Fld := ⟨.GLB_ADM_PART, 39, 24⟩
@[reducible] def fldGLB_ADM_PART_HLAT : Fld := ⟨.GLB_ADM_PART, 47, 40⟩
@[reducible] def fldGLB_ADM_PSTAT_OVERRUN : Fld := ⟨.GLB_ADM_PSTAT, 15, 0⟩
@[reducible] def fldGLB_ADM_PSTAT_LATE : Fld := ⟨.GLB_ADM_PSTAT, 31, 16⟩
@[reducible] def fldGLB_ADM_PSTAT_STALL : Fld := ⟨.GLB_ADM_PSTAT, 47, 32⟩
@[reducible] def fldGLB_ADM_PSTAT_DYN : Fld := ⟨.GLB_ADM_PSTAT, 63, 48⟩
@[reducible] def fldGLB_RESET_WARM : Fld := ⟨.GLB_RESET, 0, 0⟩
@[reducible] def fldGLB_RESET_PENDING : Fld := ⟨.GLB_RESET, 1, 1⟩
@[reducible] def fldGLB_RST_STAT_LAST : Fld := ⟨.GLB_RST_STAT, 1, 0⟩
@[reducible] def fldGLB_RST_STAT_TRIP : Fld := ⟨.GLB_RST_STAT, 2, 2⟩
@[reducible] def fldGLB_ADM_GRANT_KIND : Fld := ⟨.GLB_ADM_GRANT, 3, 0⟩
@[reducible] def fldGLB_ADM_GRANT_CLASS : Fld := ⟨.GLB_ADM_GRANT, 5, 4⟩
@[reducible] def fldGLB_ADM_GRANT_PART : Fld := ⟨.GLB_ADM_GRANT, 9, 6⟩
@[reducible] def fldGLB_ADM_GRANT_INDEX : Fld := ⟨.GLB_ADM_GRANT, 25, 10⟩
@[reducible] def fldGLB_ADM_GRANT_LIMIT : Fld := ⟨.GLB_ADM_GRANT, 63, 32⟩
@[reducible] def fldCLK_STAT_FIRC_FAIL : Fld := ⟨.CLK_STAT, 0, 0⟩
@[reducible] def fldCLK_STAT_SIRC_FAIL : Fld := ⟨.CLK_STAT, 1, 1⟩
@[reducible] def fldCLK_STAT_XA_FAIL : Fld := ⟨.CLK_STAT, 2, 2⟩
@[reducible] def fldCLK_STAT_XB_FAIL : Fld := ⟨.CLK_STAT, 3, 3⟩
@[reducible] def fldCLK_STAT_PLL_FAIL : Fld := ⟨.CLK_STAT, 9, 4⟩
@[reducible] def fldCLK_STAT_LOCK : Fld := ⟨.CLK_STAT, 15, 10⟩
@[reducible] def fldCLK_STAT_XB_MODE : Fld := ⟨.CLK_STAT, 16, 16⟩
@[reducible] def fldCLK_STAT_XDLY : Fld := ⟨.CLK_STAT, 19, 17⟩
@[reducible] def fldCLK_CTL_LOCK : Fld := ⟨.CLK_CTL, 0, 0⟩
@[reducible] def fldCLK_ADM_PIN_PIN : Fld := ⟨.CLK_ADM_PIN, 24, 0⟩
@[reducible] def fldCLK_PLL_CFG_REF : Fld := ⟨.CLK_PLL_CFG, 1, 0⟩
@[reducible] def fldCLK_PLL_CFG_NINT : Fld := ⟨.CLK_PLL_CFG, 10, 2⟩
@[reducible] def fldCLK_PLL_CFG_FRAC : Fld := ⟨.CLK_PLL_CFG, 34, 11⟩
@[reducible] def fldCLK_PLL_CFG_RELOCK : Fld := ⟨.CLK_PLL_CFG, 35, 35⟩
@[reducible] def fldCLK_PLL_CFG_REFUSED : Fld := ⟨.CLK_PLL_CFG, 36, 36⟩
@[reducible] def fldCLK_PLL_CFG_COAST : Fld := ⟨.CLK_PLL_CFG, 37, 37⟩
@[reducible] def fldCLK_PLL_SS_SSEN : Fld := ⟨.CLK_PLL_SS, 0, 0⟩
@[reducible] def fldCLK_PLL_SS_DEPTH : Fld := ⟨.CLK_PLL_SS, 5, 1⟩
@[reducible] def fldCLK_PLL_SS_RATE : Fld := ⟨.CLK_PLL_SS, 11, 6⟩
@[reducible] def fldCLK_DOM_SEL_SRC : Fld := ⟨.CLK_DOM_SEL, 1, 0⟩
@[reducible] def fldCLK_DOM_SEL_DIV : Fld := ⟨.CLK_DOM_SEL, 7, 2⟩
@[reducible] def fldCLK_DOM_SEL_SWITCHING : Fld := ⟨.CLK_DOM_SEL, 8, 8⟩
@[reducible] def fldCLK_DOM_SEL_REFUSED : Fld := ⟨.CLK_DOM_SEL, 9, 9⟩
@[reducible] def fldCLK_DOM_SEL_FIXED : Fld := ⟨.CLK_DOM_SEL, 10, 10⟩
@[reducible] def fldPWR_DOM_CTL_REQ : Fld := ⟨.PWR_DOM_CTL, 0, 0⟩
@[reducible] def fldPWR_DOM_CTL_PST : Fld := ⟨.PWR_DOM_CTL, 2, 1⟩
@[reducible] def fldPWR_DOM_CTL_FIXED : Fld := ⟨.PWR_DOM_CTL, 3, 3⟩
@[reducible] def fldPWR_DOM_CTL_REFUSED : Fld := ⟨.PWR_DOM_CTL, 4, 4⟩
@[reducible] def fldPWR_THERM_TEMP : Fld := ⟨.PWR_THERM, 11, 0⟩
@[reducible] def fldPWR_THERM_VALID : Fld := ⟨.PWR_THERM, 12, 12⟩
@[reducible] def fldPWR_AVS_TARGET : Fld := ⟨.PWR_AVS, 9, 0⟩
@[reducible] def fldPWR_AVS_VMIN : Fld := ⟨.PWR_AVS, 19, 10⟩
@[reducible] def fldPWR_AVS_EN : Fld := ⟨.PWR_AVS, 20, 20⟩
@[reducible] def fldPWR_AVS_FAULT : Fld := ⟨.PWR_AVS, 21, 21⟩
@[reducible] def fldPWR_THROT_TH_HI : Fld := ⟨.PWR_THROT, 7, 0⟩
@[reducible] def fldPWR_THROT_TH_LO : Fld := ⟨.PWR_THROT, 15, 8⟩
@[reducible] def fldPWR_THROT_TCRIT : Fld := ⟨.PWR_THROT, 23, 16⟩
@[reducible] def fldPWR_THROT_EN : Fld := ⟨.PWR_THROT, 24, 24⟩
@[reducible] def fldPWR_THROT_ACTIVE : Fld := ⟨.PWR_THROT, 25, 25⟩
@[reducible] def fldPWR_THROT_CRIT : Fld := ⟨.PWR_THROT, 26, 26⟩
@[reducible] def fldPWR_THROT_LOCK : Fld := ⟨.PWR_THROT, 27, 27⟩
@[reducible] def fldPWR_THROT_DIV_DIV : Fld := ⟨.PWR_THROT_DIV, 5, 0⟩
@[reducible] def fldSEC_BOOT_STAT_STATE : Fld := ⟨.SEC_BOOT_STAT, 3, 0⟩
@[reducible] def fldSEC_BOOT_STAT_ERR : Fld := ⟨.SEC_BOOT_STAT, 11, 4⟩
@[reducible] def fldSEC_BOOT_STAT_IMG : Fld := ⟨.SEC_BOOT_STAT, 13, 12⟩
@[reducible] def fldSEC_BOOT_CTL_RELEASE : Fld := ⟨.SEC_BOOT_CTL, 0, 0⟩
@[reducible] def fldSEC_BOOT_CTL_GO : Fld := ⟨.SEC_BOOT_CTL, 1, 1⟩
@[reducible] def fldSEC_BOOT_ADDR_ADDR : Fld := ⟨.SEC_BOOT_ADDR, 63, 12⟩
@[reducible] def fldSEC_BOOT_LEN_LEN : Fld := ⟨.SEC_BOOT_LEN, 26, 0⟩
@[reducible] def fldSEC_BOOT_CNT_BOOT : Fld := ⟨.SEC_BOOT_CNT, 16, 0⟩
@[reducible] def fldSEC_SERIAL_VALUE : Fld := ⟨.SEC_SERIAL, 63, 0⟩
@[reducible] def fldSEC_EPOCH_MCODE : Fld := ⟨.SEC_EPOCH, 6, 0⟩
@[reducible] def fldSEC_EPOCH_KEEPER : Fld := ⟨.SEC_EPOCH, 14, 8⟩
@[reducible] def fldSEC_EPOCH_SUPER : Fld := ⟨.SEC_EPOCH, 22, 16⟩
@[reducible] def fldSEC_EPOCH_DEBUG : Fld := ⟨.SEC_EPOCH, 30, 24⟩
@[reducible] def fldSEC_OTP_POL_PROG : Fld := ⟨.SEC_OTP_POL, 5, 0⟩
@[reducible] def fldSEC_OTP_POL_REVOKED : Fld := ⟨.SEC_OTP_POL, 13, 8⟩
@[reducible] def fldSEC_OTP_POL_OWNER_KEEPER : Fld := ⟨.SEC_OTP_POL, 16, 16⟩
@[reducible] def fldSEC_OTP_POL_SUPER_SIGNED : Fld := ⟨.SEC_OTP_POL, 17, 17⟩
@[reducible] def fldSEC_OTP_POL_DEBUG_LOCK : Fld := ⟨.SEC_OTP_POL, 18, 18⟩
@[reducible] def fldSEC_ATT_STAT_STATE : Fld := ⟨.SEC_ATT_STAT, 1, 0⟩
@[reducible] def fldSEC_ATT_STAT_QUSED : Fld := ⟨.SEC_ATT_STAT, 22, 2⟩
@[reducible] def fldSEC_MEAS_MC_VALUE : Fld := ⟨.SEC_MEAS_MC, 63, 0⟩
@[reducible] def fldSEC_MEAS_KP_VALUE : Fld := ⟨.SEC_MEAS_KP, 63, 0⟩
@[reducible] def fldSEC_MEAS_SV_VALUE : Fld := ⟨.SEC_MEAS_SV, 63, 0⟩
@[reducible] def fldSEC_OTP_DATA_VALUE : Fld := ⟨.SEC_OTP_DATA, 63, 0⟩
@[reducible] def fldSEC_OTP_CMD_CMD : Fld := ⟨.SEC_OTP_CMD, 1, 0⟩
@[reducible] def fldSEC_OTP_CMD_SLOT : Fld := ⟨.SEC_OTP_CMD, 4, 2⟩
@[reducible] def fldSEC_OTP_CMD_BUSY : Fld := ⟨.SEC_OTP_CMD, 5, 5⟩
@[reducible] def fldSEC_OTP_CMD_ERR : Fld := ⟨.SEC_OTP_CMD, 6, 6⟩
@[reducible] def fldHIF_FN_NEG_SUPP : Fld := ⟨.HIF_FN_NEG, 2, 0⟩
@[reducible] def fldHIF_FN_NEG_REQ : Fld := ⟨.HIF_FN_NEG, 9, 8⟩
@[reducible] def fldHIF_FN_NEG_AGREED : Fld := ⟨.HIF_FN_NEG, 13, 12⟩
@[reducible] def fldHIF_FN_NEG_REFUSED : Fld := ⟨.HIF_FN_NEG, 16, 16⟩
@[reducible] def fldHIF_FN_NEG_REASON : Fld := ⟨.HIF_FN_NEG, 18, 17⟩
@[reducible] def fldHIF_FN_CTL_ATTACH : Fld := ⟨.HIF_FN_CTL, 0, 0⟩
@[reducible] def fldHIF_FN_CTL_DETACH : Fld := ⟨.HIF_FN_CTL, 1, 1⟩
@[reducible] def fldHIF_FN_CTL_RESTORE : Fld := ⟨.HIF_FN_CTL, 2, 2⟩
@[reducible] def fldHIF_FN_CTL_RESUME : Fld := ⟨.HIF_FN_CTL, 3, 3⟩
@[reducible] def fldHIF_FN_CTL_SVEC : Fld := ⟨.HIF_FN_CTL, 15, 8⟩
@[reducible] def fldHIF_FN_STAT_FSTATE : Fld := ⟨.HIF_FN_STAT, 1, 0⟩
@[reducible] def fldHIF_FN_STAT_JFULL : Fld := ⟨.HIF_FN_STAT, 2, 2⟩
@[reducible] def fldHIF_FN_STAT_SFULL : Fld := ⟨.HIF_FN_STAT, 3, 3⟩
@[reducible] def fldHIF_FN_STAT_CAUSE : Fld := ⟨.HIF_FN_STAT, 5, 4⟩
@[reducible] def fldHIF_FN_RSTGEN_WARM : Fld := ⟨.HIF_FN_RSTGEN, 31, 0⟩
@[reducible] def fldHIF_FN_RSTGEN_BOOT : Fld := ⟨.HIF_FN_RSTGEN, 63, 32⟩
@[reducible] def fldHIF_FN_BADDB_VALUE : Fld := ⟨.HIF_FN_BADDB, 63, 0⟩
@[reducible] def fldHIF_RING_BASE_BASE : Fld := ⟨.HIF_RING_BASE, 63, 12⟩
@[reducible] def fldHIF_RING_CFG_LOG2N : Fld := ⟨.HIF_RING_CFG, 4, 0⟩
@[reducible] def fldHIF_RING_CFG_EN : Fld := ⟨.HIF_RING_CFG, 5, 5⟩
@[reducible] def fldHIF_RING_CFG_VEC : Fld := ⟨.HIF_RING_CFG, 15, 8⟩
@[reducible] def fldHIF_RING_CFG_IEN : Fld := ⟨.HIF_RING_CFG, 16, 16⟩
@[reducible] def fldHIF_RING_CFG_MOD : Fld := ⟨.HIF_RING_CFG, 31, 20⟩
@[reducible] def fldHIF_RING_AUX_LOG2D : Fld := ⟨.HIF_RING_AUX, 5, 0⟩
@[reducible] def fldHIF_RING_AUX_DBASE : Fld := ⟨.HIF_RING_AUX, 63, 12⟩
@[reducible] def fldHIF_RING_SEQ_SEQ : Fld := ⟨.HIF_RING_SEQ, 47, 0⟩
@[reducible] def fldHIF_ATTIC_BANK : Fld := ⟨.HIF_ATTIC, 5, 0⟩
@[reducible] def fldHIF_ATTIC_EN : Fld := ⟨.HIF_ATTIC, 6, 6⟩
@[reducible] def fldHIF_ATTIC_LOG2N : Fld := ⟨.HIF_ATTIC, 11, 8⟩
@[reducible] def fldHIF_ATTIC_OFFS : Fld := ⟨.HIF_ATTIC, 21, 16⟩
@[reducible] def fldHIF_SHADOW_EN : Fld := ⟨.HIF_SHADOW, 0, 0⟩
@[reducible] def fldHIF_SHADOW_LOG2N : Fld := ⟨.HIF_SHADOW, 5, 1⟩
@[reducible] def fldHIF_SHADOW_BASE : Fld := ⟨.HIF_SHADOW, 43, 12⟩
@[reducible] def fldPHASE_SRC_CFG_EN : Fld := ⟨.PHASE_SRC_CFG, 0, 0⟩
@[reducible] def fldPHASE_SRC_CFG_TYPE : Fld := ⟨.PHASE_SRC_CFG, 3, 1⟩
@[reducible] def fldPHASE_SRC_CFG_INPUT : Fld := ⟨.PHASE_SRC_CFG, 9, 4⟩
@[reducible] def fldPHASE_SRC_CFG_ORDER : Fld := ⟨.PHASE_SRC_CFG, 10, 10⟩
@[reducible] def fldPHASE_SRC_CFG_REQ_Z : Fld := ⟨.PHASE_SRC_CFG, 11, 11⟩
@[reducible] def fldPHASE_SRC_CFG_AUTO : Fld := ⟨.PHASE_SRC_CFG, 12, 12⟩
@[reducible] def fldPHASE_SRC_CFG_REVERSE : Fld := ⟨.PHASE_SRC_CFG, 13, 13⟩
@[reducible] def fldPHASE_SRC_CFG_HPER : Fld := ⟨.PHASE_SRC_CFG, 19, 16⟩
@[reducible] def fldPHASE_SRC_CFG_RESTART : Fld := ⟨.PHASE_SRC_CFG, 20, 20⟩
@[reducible] def fldPHASE_SRC_CPR_EPR : Fld := ⟨.PHASE_SRC_CPR, 23, 0⟩
@[reducible] def fldPHASE_SRC_CPR_QMODE : Fld := ⟨.PHASE_SRC_CPR, 25, 24⟩
@[reducible] def fldPHASE_SRC_LOOP_BW : Fld := ⟨.PHASE_SRC_LOOP, 13, 0⟩
@[reducible] def fldPHASE_SRC_LOOP_ACQN : Fld := ⟨.PHASE_SRC_LOOP, 23, 14⟩
@[reducible] def fldPHASE_SRC_LOOP_GAPK : Fld := ⟨.PHASE_SRC_LOOP, 27, 24⟩
@[reducible] def fldPHASE_SRC_LIM_COAST_MAX : Fld := ⟨.PHASE_SRC_LIM, 11, 0⟩
@[reducible] def fldPHASE_SRC_LIM_FB_LIM : Fld := ⟨.PHASE_SRC_LIM, 23, 12⟩
@[reducible] def fldPHASE_SRC_LIM_LOSE_TH : Fld := ⟨.PHASE_SRC_LIM, 27, 24⟩
@[reducible] def fldPHASE_SRC_LIM_REJN : Fld := ⟨.PHASE_SRC_LIM, 31, 28⟩
@[reducible] def fldPHASE_SRC_RATIO_NUM : Fld := ⟨.PHASE_SRC_RATIO, 31, 0⟩
@[reducible] def fldPHASE_SRC_RATIO_DEN : Fld := ⟨.PHASE_SRC_RATIO, 63, 32⟩
@[reducible] def fldPHASE_SRC_OFFS_VALUE : Fld := ⟨.PHASE_SRC_OFFS, 63, 0⟩
@[reducible] def fldPHASE_SRC_STAT_STATE : Fld := ⟨.PHASE_SRC_STAT, 1, 0⟩
@[reducible] def fldPHASE_SRC_STAT_SETTLED : Fld := ⟨.PHASE_SRC_STAT, 2, 2⟩
@[reducible] def fldPHASE_SRC_STAT_GEN : Fld := ⟨.PHASE_SRC_STAT, 15, 8⟩
@[reducible] def fldPHASE_SRC_STAT_ZERR : Fld := ⟨.PHASE_SRC_STAT, 23, 16⟩
@[reducible] def fldPHASE_SRC_EST_VALUE : Fld := ⟨.PHASE_SRC_EST, 63, 0⟩
@[reducible] def fldPHASE_SRC_RATE_VALUE : Fld := ⟨.PHASE_SRC_RATE, 63, 0⟩
@[reducible] def fldPHASE_SRC_REJ_VALUE : Fld := ⟨.PHASE_SRC_REJ, 63, 0⟩
@[reducible] def fldPHASE_DT_CTL_DISC : Fld := ⟨.PHASE_DT_CTL, 1, 0⟩
@[reducible] def fldPHASE_DT_CTL_TRIM : Fld := ⟨.PHASE_DT_CTL, 23, 8⟩
@[reducible] def fldPHASE_DT_STAT_DSTATE : Fld := ⟨.PHASE_DT_STAT, 1, 0⟩
@[reducible] def fldPHASE_DT_STAT_OFFSET : Fld := ⟨.PHASE_DT_STAT, 31, 16⟩
@[reducible] def fldPHASE_DT_NOW_VALUE : Fld := ⟨.PHASE_DT_NOW, 63, 0⟩
@[reducible] def fldPHASE_CAL_QUOTA_QUOTA : Fld := ⟨.PHASE_CAL_QUOTA, 12, 0⟩
@[reducible] def fldPHASE_CAL_QUOTA_USED : Fld := ⟨.PHASE_CAL_QUOTA, 28, 16⟩
@[reducible] def fldPHASE_CAL_RPTB_EN : Fld := ⟨.PHASE_CAL_RPTB, 0, 0⟩
@[reducible] def fldPHASE_CAL_RPTB_LOG2N : Fld := ⟨.PHASE_CAL_RPTB, 4, 1⟩
@[reducible] def fldPHASE_CAL_RPTB_BASE : Fld := ⟨.PHASE_CAL_RPTB, 43, 9⟩
@[reducible] def fldPHASE_CAL_RPTP_P : Fld := ⟨.PHASE_CAL_RPTP, 15, 0⟩
@[reducible] def fldPHASE_CAL_RPTC_C : Fld := ⟨.PHASE_CAL_RPTC, 15, 0⟩
@[reducible] def fldPHASE_CAL_RLOST_VALUE : Fld := ⟨.PHASE_CAL_RLOST, 63, 0⟩
@[reducible] def fldPHASE_SRC_OWN_PART : Fld := ⟨.PHASE_SRC_OWN, 2, 0⟩
@[reducible] def fldPHASE_SRC_OWN_ASSIGNED : Fld := ⟨.PHASE_SRC_OWN, 3, 3⟩
@[reducible] def fldPHASE_SRC_OWN_READ : Fld := ⟨.PHASE_SRC_OWN, 15, 8⟩
@[reducible] def fldPHASE_ENC_CTL_INV : Fld := ⟨.PHASE_ENC_CTL, 2, 0⟩
@[reducible] def fldPHASE_ENC_CTL_SWAP : Fld := ⟨.PHASE_ENC_CTL, 3, 3⟩
@[reducible] def fldPHASE_ENC_CTL_FILT : Fld := ⟨.PHASE_ENC_CTL, 7, 4⟩
@[reducible] def fldPHASE_MAINS_CTL_BOTH : Fld := ⟨.PHASE_MAINS_CTL, 0, 0⟩
@[reducible] def fldPHASE_MAINS_CTL_HOLD : Fld := ⟨.PHASE_MAINS_CTL, 8, 1⟩
@[reducible] def fldPHASE_SYNCIN_CTL_POL : Fld := ⟨.PHASE_SYNCIN_CTL, 0, 0⟩
@[reducible] def fldPHASE_SYNCIN_CTL_FILT : Fld := ⟨.PHASE_SYNCIN_CTL, 4, 1⟩
@[reducible] def fldPHASE_SYNCOUT_CTL_MODE : Fld := ⟨.PHASE_SYNCOUT_CTL, 1, 0⟩
@[reducible] def fldPHASE_SYNCOUT_CTL_SRC : Fld := ⟨.PHASE_SYNCOUT_CTL, 5, 2⟩
@[reducible] def fldPHASE_SYNCOUT_CTL_POL : Fld := ⟨.PHASE_SYNCOUT_CTL, 6, 6⟩
@[reducible] def fldPHASE_SYNCOUT_CTL_WIDTH : Fld := ⟨.PHASE_SYNCOUT_CTL, 14, 7⟩
@[reducible] def fldPHASE_SYNCOUT_CTL_PART : Fld := ⟨.PHASE_SYNCOUT_CTL, 17, 15⟩
@[reducible] def fldPHASE_SYNCOUT_CTL_ASSIGNED : Fld := ⟨.PHASE_SYNCOUT_CTL, 18, 18⟩
@[reducible] def fldPHASE_SYNCOUT_CTL_DELAY : Fld := ⟨.PHASE_SYNCOUT_CTL, 26, 19⟩
@[reducible] def fldPHASE_SYNCOUT_DIV_DIV : Fld := ⟨.PHASE_SYNCOUT_DIV, 23, 0⟩
@[reducible] def fldRSMP_UNIT_OWN_PART : Fld := ⟨.RSMP_UNIT_OWN, 2, 0⟩
@[reducible] def fldRSMP_UNIT_OWN_ASSIGNED : Fld := ⟨.RSMP_UNIT_OWN, 3, 3⟩
@[reducible] def fldRSMP_UNIT_STAT_BUSY : Fld := ⟨.RSMP_UNIT_STAT, 3, 0⟩
@[reducible] def fldRSMP_UNIT_STAT_LOAD : Fld := ⟨.RSMP_UNIT_STAT, 25, 16⟩
@[reducible] def fldRSMP_UNIT_SKIP_VALUE : Fld := ⟨.RSMP_UNIT_SKIP, 63, 0⟩
@[reducible] def fldSPEC_ENG_OWN_PART : Fld := ⟨.SPEC_ENG_OWN, 2, 0⟩
@[reducible] def fldSPEC_ENG_OWN_ASSIGNED : Fld := ⟨.SPEC_ENG_OWN, 3, 3⟩
@[reducible] def fldSPEC_ENG_STAT_ARMED : Fld := ⟨.SPEC_ENG_STAT, 15, 0⟩
@[reducible] def fldSPEC_ENG_STAT_RUN : Fld := ⟨.SPEC_ENG_STAT, 16, 16⟩
@[reducible] def fldSPEC_ENG_STAT_PEND : Fld := ⟨.SPEC_ENG_STAT, 21, 17⟩
@[reducible] def fldSPEC_ENG_DROP_VALUE : Fld := ⟨.SPEC_ENG_DROP, 63, 0⟩
@[reducible] def fldSFL_LANE_CTL_EN : Fld := ⟨.SFL_LANE_CTL, 0, 0⟩
@[reducible] def fldSFL_LANE_CTL_RATE : Fld := ⟨.SFL_LANE_CTL, 2, 1⟩
@[reducible] def fldSFL_LANE_CTL_VMAX : Fld := ⟨.SFL_LANE_CTL, 4, 3⟩
@[reducible] def fldSFL_LANE_CTL_AUTO : Fld := ⟨.SFL_LANE_CTL, 5, 5⟩
@[reducible] def fldSFL_LANE_CTL_TSEN : Fld := ⟨.SFL_LANE_CTL, 6, 6⟩
@[reducible] def fldSFL_LANE_CTL_RTO : Fld := ⟨.SFL_LANE_CTL, 23, 16⟩
@[reducible] def fldSFL_LANE_STAT_LSTATE : Fld := ⟨.SFL_LANE_STAT, 2, 0⟩
@[reducible] def fldSFL_LANE_STAT_VER : Fld := ⟨.SFL_LANE_STAT, 4, 3⟩
@[reducible] def fldSFL_LANE_STAT_FAST : Fld := ⟨.SFL_LANE_STAT, 5, 5⟩
@[reducible] def fldSFL_LANE_STAT_TSTATE : Fld := ⟨.SFL_LANE_STAT, 7, 6⟩
@[reducible] def fldSFL_LANE_STAT_GROUP : Fld := ⟨.SFL_LANE_STAT, 10, 8⟩
@[reducible] def fldSFL_LANE_STAT_BONDED : Fld := ⟨.SFL_LANE_STAT, 11, 11⟩
@[reducible] def fldSFL_LANE_STAT_PODPORT : Fld := ⟨.SFL_LANE_STAT, 19, 12⟩
@[reducible] def fldSFL_LANE_POD_VALUE : Fld := ⟨.SFL_LANE_POD, 63, 0⟩
@[reducible] def fldSFL_LANE_PCAP_VALUE : Fld := ⟨.SFL_LANE_PCAP, 63, 0⟩
@[reducible] def fldSFL_LANE_PLAT_VALUE : Fld := ⟨.SFL_LANE_PLAT, 63, 0⟩
@[reducible] def fldSFL_LANE_ASYM_ASYM : Fld := ⟨.SFL_LANE_ASYM, 15, 0⟩
@[reducible] def fldSFL_LANE_TOFF_VALUE : Fld := ⟨.SFL_LANE_TOFF, 63, 0⟩
@[reducible] def fldSFL_LANE_TDLY_VALUE : Fld := ⟨.SFL_LANE_TDLY, 63, 0⟩
@[reducible] def fldSFL_LANE_CRC_VALUE : Fld := ⟨.SFL_LANE_CRC, 63, 0⟩
@[reducible] def fldSFL_LANE_RPL_RPL : Fld := ⟨.SFL_LANE_RPL, 31, 0⟩
@[reducible] def fldSFL_LANE_RPL_NAK : Fld := ⟨.SFL_LANE_RPL, 63, 32⟩
@[reducible] def fldSFL_LANE_TERR_VALUE : Fld := ⟨.SFL_LANE_TERR, 63, 0⟩
@[reducible] def fldSFL_TS_CTL_PER : Fld := ⟨.SFL_TS_CTL, 15, 0⟩
@[reducible] def fldSFL_BOND_MEMBERS : Fld := ⟨.SFL_BOND, 7, 0⟩
@[reducible] def fldSFL_BOND_EN : Fld := ⟨.SFL_BOND, 8, 8⟩
@[reducible] def fldSFL_BOND_SPARE : Fld := ⟨.SFL_BOND, 9, 9⟩
@[reducible] def fldSFL_BOND_ACTIVE : Fld := ⟨.SFL_BOND, 10, 10⟩
@[reducible] def fldSFL_BOND_UP : Fld := ⟨.SFL_BOND, 23, 16⟩
@[reducible] def fldSFL_LINK_LIM_LIM : Fld := ⟨.SFL_LINK_LIM, 39, 0⟩
@[reducible] def fldSFL_LINK_LOAD_LOAD : Fld := ⟨.SFL_LINK_LOAD, 39, 0⟩
@[reducible] def fldSFL_LINK_STAT_REFUSED : Fld := ⟨.SFL_LINK_STAT, 0, 0⟩
@[reducible] def fldSFL_CHT_A_V : Fld := ⟨.SFL_CHT_A, 0, 0⟩
@[reducible] def fldSFL_CHT_A_LINK : Fld := ⟨.SFL_CHT_A, 3, 1⟩
@[reducible] def fldSFL_CHT_A_PODCH : Fld := ⟨.SFL_CHT_A, 19, 4⟩
@[reducible] def fldSFL_CHT_A_PART : Fld := ⟨.SFL_CHT_A, 22, 20⟩
@[reducible] def fldSFL_CHT_A_ASSIGNED : Fld := ⟨.SFL_CHT_A, 23, 23⟩
@[reducible] def fldSFL_CHT_A_FMT : Fld := ⟨.SFL_CHT_A, 24, 24⟩
@[reducible] def fldSFL_CHT_A_UNC : Fld := ⟨.SFL_CHT_A, 25, 25⟩
@[reducible] def fldSFL_CHT_A_SUB : Fld := ⟨.SFL_CHT_A, 26, 26⟩
@[reducible] def fldSFL_CHT_A_RDIVM1 : Fld := ⟨.SFL_CHT_A, 39, 28⟩
@[reducible] def fldSFL_CHT_A_UNIT : Fld := ⟨.SFL_CHT_A, 51, 40⟩
@[reducible] def fldSFL_CHT_B_LOG2N : Fld := ⟨.SFL_CHT_B, 4, 0⟩
@[reducible] def fldSFL_CHT_B_BASE : Fld := ⟨.SFL_CHT_B, 43, 6⟩
@[reducible] def fldDRV_OUT_CFG_PART : Fld := ⟨.DRV_OUT_CFG, 2, 0⟩
@[reducible] def fldDRV_OUT_CFG_ASSIGNED : Fld := ⟨.DRV_OUT_CFG, 3, 3⟩
@[reducible] def fldDRV_OUT_CFG_MODE : Fld := ⟨.DRV_OUT_CFG, 5, 4⟩
@[reducible] def fldDRV_OUT_CFG_PHSRC : Fld := ⟨.DRV_OUT_CFG, 9, 6⟩
@[reducible] def fldDRV_OUT_CFG_PHTRIG : Fld := ⟨.DRV_OUT_CFG, 11, 10⟩
@[reducible] def fldDRV_OUT_CFG_LATEAB : Fld := ⟨.DRV_OUT_CFG, 12, 12⟩
@[reducible] def fldDRV_OUT_CFG_RAMP : Fld := ⟨.DRV_OUT_CFG, 23, 13⟩
@[reducible] def fldDRV_OUT_MAP_LINK : Fld := ⟨.DRV_OUT_MAP, 2, 0⟩
@[reducible] def fldDRV_OUT_MAP_PODCH : Fld := ⟨.DRV_OUT_MAP, 18, 3⟩
@[reducible] def fldDRV_OUT_MAP_RDIVM1 : Fld := ⟨.DRV_OUT_MAP, 30, 19⟩
@[reducible] def fldDRV_OUT_MAP_EN : Fld := ⟨.DRV_OUT_MAP, 31, 31⟩
@[reducible] def fldDRV_OUT_AMAX_VALUE : Fld := ⟨.DRV_OUT_AMAX, 31, 0⟩
@[reducible] def fldDRV_OUT_SMAX_VALUE : Fld := ⟨.DRV_OUT_SMAX, 31, 0⟩
@[reducible] def fldDRV_OUT_RMAX_VALUE : Fld := ⟨.DRV_OUT_RMAX, 31, 0⟩
@[reducible] def fldDRV_OUT_LACT_AACT : Fld := ⟨.DRV_OUT_LACT, 1, 0⟩
@[reducible] def fldDRV_OUT_LACT_SACT : Fld := ⟨.DRV_OUT_LACT, 3, 2⟩
@[reducible] def fldDRV_OUT_LACT_RACT : Fld := ⟨.DRV_OUT_LACT, 5, 4⟩
@[reducible] def fldDRV_OUT_LACT_LOG2W : Fld := ⟨.DRV_OUT_LACT, 10, 6⟩
@[reducible] def fldDRV_OUT_LACT_WDOG : Fld := ⟨.DRV_OUT_LACT, 26, 11⟩
@[reducible] def fldDRV_OUT_STAT_STATE : Fld := ⟨.DRV_OUT_STAT, 1, 0⟩
@[reducible] def fldDRV_OUT_STAT_PEND : Fld := ⟨.DRV_OUT_STAT, 5, 2⟩
@[reducible] def fldDRV_OUT_STAT_CAUSE : Fld := ⟨.DRV_OUT_STAT, 9, 6⟩
@[reducible] def fldDRV_OUT_STAT_CLIPPED : Fld := ⟨.DRV_OUT_STAT, 10, 10⟩
@[reducible] def fldDRV_OUT_CLIP_VALUE : Fld := ⟨.DRV_OUT_CLIP, 63, 0⟩
@[reducible] def fldDRV_GCTL_ARMEN : Fld := ⟨.DRV_GCTL, 0, 0⟩
@[reducible] def fldDRV_GCTL_ABORT : Fld := ⟨.DRV_GCTL, 1, 1⟩
@[reducible] def fldDRV_GCTL_FILT : Fld := ⟨.DRV_GCTL, 5, 2⟩
@[reducible] def fldDRV_GCTL_LEAD : Fld := ⟨.DRV_GCTL, 13, 6⟩
@[reducible] def fldDRV_GCTL_LOCK : Fld := ⟨.DRV_GCTL, 14, 14⟩
@[reducible] def fldDRV_ABT_ABTN : Fld := ⟨.DRV_ABT, 0, 0⟩
@[reducible] def fldDRV_ABT_CLOCK : Fld := ⟨.DRV_ABT, 1, 1⟩
@[reducible] def fldDRV_ABT_SOFT : Fld := ⟨.DRV_ABT, 2, 2⟩
@[reducible] def fldDRV_ABT_PART : Fld := ⟨.DRV_ABT, 15, 8⟩
@[reducible] def fldMEM_STAT_STATE : Fld := ⟨.MEM_STAT, 2, 0⟩
@[reducible] def fldMEM_STAT_SIZE : Fld := ⟨.MEM_STAT, 11, 8⟩
@[reducible] def fldMEM_STAT_SUBFAIL : Fld := ⟨.MEM_STAT, 23, 16⟩
@[reducible] def fldMEM_STAT_HOT : Fld := ⟨.MEM_STAT, 24, 24⟩
@[reducible] def fldMEM_HASH_KEY_KEY : Fld := ⟨.MEM_HASH_KEY, 63, 0⟩
@[reducible] def fldMEM_BAL_BASE : Fld := ⟨.MEM_BAL, 7, 0⟩
@[reducible] def fldMEM_BAL_SIZE : Fld := ⟨.MEM_BAL, 15, 8⟩
@[reducible] def fldMEM_BAL_INUSE : Fld := ⟨.MEM_BAL, 16, 16⟩
@[reducible] def fldMEM_RSV_LINES : Fld := ⟨.MEM_RSV, 7, 0⟩
@[reducible] def fldMEM_SKEW_VALUE : Fld := ⟨.MEM_SKEW, 63, 0⟩
@[reducible] def fldMEM_SKEW_CTL_EV_EN : Fld := ⟨.MEM_SKEW_CTL, 0, 0⟩
@[reducible] def fldMEM_SKEW_CTL_TH : Fld := ⟨.MEM_SKEW_CTL, 31, 16⟩
@[reducible] def fldMEM_SCRUB_CTL_EN : Fld := ⟨.MEM_SCRUB_CTL, 0, 0⟩
@[reducible] def fldMEM_SCRUB_CTL_PERIOD : Fld := ⟨.MEM_SCRUB_CTL, 15, 8⟩
@[reducible] def fldLARD_BANK_CTL_PREQ : Fld := ⟨.LARD_BANK_CTL, 1, 0⟩
@[reducible] def fldLARD_BANK_CTL_PST : Fld := ⟨.LARD_BANK_CTL, 3, 2⟩
@[reducible] def fldLARD_BANK_CTL_ROLE : Fld := ⟨.LARD_BANK_CTL, 5, 4⟩
@[reducible] def fldLARD_BANK_CTL_PART : Fld := ⟨.LARD_BANK_CTL, 8, 6⟩
@[reducible] def fldLARD_BANK_CTL_DARN : Fld := ⟨.LARD_BANK_CTL, 9, 9⟩
@[reducible] def fldLARD_BANK_CTL_REFUSED : Fld := ⟨.LARD_BANK_CTL, 10, 10⟩
@[reducible] def fldLARD_BANK_CTL_SPARES : Fld := ⟨.LARD_BANK_CTL, 14, 11⟩
@[reducible] def fldLARD_BANK_CTL_FAILED : Fld := ⟨.LARD_BANK_CTL, 15, 15⟩
@[reducible] def fldLARD_DARN_CTL_EN : Fld := ⟨.LARD_DARN_CTL, 0, 0⟩
@[reducible] def fldLARD_DARN_CTL_GAP : Fld := ⟨.LARD_DARN_CTL, 19, 4⟩
@[reducible] def fldLARD_HASH_KEY_KEY : Fld := ⟨.LARD_HASH_KEY, 35, 0⟩
@[reducible] def fldLARD_SKEW_VALUE : Fld := ⟨.LARD_SKEW, 63, 0⟩
@[reducible] def fldLNDR_CTL_EN : Fld := ⟨.LNDR_CTL, 0, 0⟩
@[reducible] def fldLNDR_CTL_MCOPY : Fld := ⟨.LNDR_CTL, 5, 1⟩
@[reducible] def fldLNDR_RTB_PADDR : Fld := ⟨.LNDR_RTB, 43, 19⟩
@[reducible] def fldLNDR_PART_HEAP_RCOUNT : Fld := ⟨.LNDR_PART_HEAP, 16, 0⟩
@[reducible] def fldLNDR_PART_HEAP_BASE : Fld := ⟨.LNDR_PART_HEAP, 43, 21⟩
@[reducible] def fldLNDR_PART_HEAP_RBASE : Fld := ⟨.LNDR_PART_HEAP, 59, 44⟩
@[reducible] def fldLNDR_PART_SIDE_BASE : Fld := ⟨.LNDR_PART_SIDE, 43, 16⟩
@[reducible] def fldLNDR_PART_CTL_EN : Fld := ⟨.LNDR_PART_CTL, 0, 0⟩
@[reducible] def fldLNDR_PART_CTL_NMAX : Fld := ⟨.LNDR_PART_CTL, 7, 1⟩
@[reducible] def fldLNDR_PART_CTL_NTRIG : Fld := ⟨.LNDR_PART_CTL, 15, 8⟩
@[reducible] def fldLNDR_PART_CTL_MTRIG : Fld := ⟨.LNDR_PART_CTL, 23, 16⟩
@[reducible] def fldLNDR_PART_CTL_SPARSE : Fld := ⟨.LNDR_PART_CTL, 31, 24⟩
@[reducible] def fldLNDR_PART_STAT_PHASE : Fld := ⟨.LNDR_PART_STAT, 2, 0⟩
@[reducible] def fldLNDR_PART_STAT_ROOTS : Fld := ⟨.LNDR_PART_STAT, 3, 3⟩
@[reducible] def fldLNDR_PART_STAT_FAIL : Fld := ⟨.LNDR_PART_STAT, 7, 4⟩
@[reducible] def fldLNDR_PART_STAT_FREE : Fld := ⟨.LNDR_PART_STAT, 24, 8⟩
@[reducible] def fldLNDR_PART_CYCLES_NURSERY : Fld := ⟨.LNDR_PART_CYCLES, 31, 0⟩
@[reducible] def fldLNDR_PART_CYCLES_MATURE : Fld := ⟨.LNDR_PART_CYCLES, 63, 32⟩
@[reducible] def fldLNDR_PART_ROOT_V : Fld := ⟨.LNDR_PART_ROOT, 0, 0⟩
@[reducible] def fldLNDR_PART_ROOT_BASE : Fld := ⟨.LNDR_PART_ROOT, 43, 9⟩
@[reducible] def fldLNDR_PART_ROOT_CARDS : Fld := ⟨.LNDR_PART_ROOT, 63, 44⟩
@[reducible] def fldFLT_CLS_CFG_TH : Fld := ⟨.FLT_CLS_CFG, 15, 0⟩
@[reducible] def fldFLT_CLS_CFG_BUCKET : Fld := ⟨.FLT_CLS_CFG, 47, 16⟩
@[reducible] def fldFLT_CLS_CFG_ACT : Fld := ⟨.FLT_CLS_CFG, 50, 48⟩
@[reducible] def fldFLT_CLS_CFG_UCI : Fld := ⟨.FLT_CLS_CFG, 51, 51⟩
@[reducible] def fldFLT_CLS_CFG_LOGCE : Fld := ⟨.FLT_CLS_CFG, 52, 52⟩
@[reducible] def fldFLT_CLS_CFG_EN : Fld := ⟨.FLT_CLS_CFG, 53, 53⟩
@[reducible] def fldFLT_CNT_CORRECTED : Fld := ⟨.FLT_CNT, 39, 0⟩
@[reducible] def fldFLT_CNT_UNCORRECTABLE : Fld := ⟨.FLT_CNT, 55, 40⟩
@[reducible] def fldFLT_CNT_DECLARED : Fld := ⟨.FLT_CNT, 63, 56⟩
@[reducible] def fldFLT_WSUM_S : Fld := ⟨.FLT_WSUM, 15, 0⟩
@[reducible] def fldFLT_WSUM_ACTING : Fld := ⟨.FLT_WSUM, 16, 16⟩
@[reducible] def fldFLT_PAGE_V : Fld := ⟨.FLT_PAGE, 0, 0⟩
@[reducible] def fldFLT_PAGE_PADDR : Fld := ⟨.FLT_PAGE, 43, 12⟩
@[reducible] def fldFLT_CORE_OFF_OFF : Fld := ⟨.FLT_CORE_OFF, 63, 0⟩
@[reducible] def fldFLT_LANE_RET_RET : Fld := ⟨.FLT_LANE_RET, 7, 0⟩
@[reducible] def fldFLT_LOGB_EN : Fld := ⟨.FLT_LOGB, 0, 0⟩
@[reducible] def fldFLT_LOGB_LOG2N : Fld := ⟨.FLT_LOGB, 4, 1⟩
@[reducible] def fldFLT_LOGB_BASE : Fld := ⟨.FLT_LOGB, 43, 9⟩
@[reducible] def fldFLT_LOGP_P : Fld := ⟨.FLT_LOGP, 15, 0⟩
@[reducible] def fldFLT_LOGC_C : Fld := ⟨.FLT_LOGC, 15, 0⟩
@[reducible] def fldFLT_LOST_VALUE : Fld := ⟨.FLT_LOST, 63, 0⟩
@[reducible] def fldFLT_CORE_REC_VALUE : Fld := ⟨.FLT_CORE_REC, 63, 0⟩
@[reducible] def fldCLU_L2_CTL_EN : Fld := ⟨.CLU_L2_CTL, 1, 0⟩
@[reducible] def fldCLU_L2_CTL_PF_EN : Fld := ⟨.CLU_L2_CTL, 2, 2⟩
@[reducible] def fldCLU_L2_WAYCTL_LOCK : Fld := ⟨.CLU_L2_WAYCTL, 11, 0⟩
@[reducible] def fldCLU_L2_WAYCTL_SWEEP : Fld := ⟨.CLU_L2_WAYCTL, 15, 15⟩
@[reducible] def fldCLU_L2_WAYCTL_DIS : Fld := ⟨.CLU_L2_WAYCTL, 31, 16⟩
@[reducible] def fldCLU_L2_WAYOWN_OWN : Fld := ⟨.CLU_L2_WAYOWN, 47, 0⟩
@[reducible] def fldCLU_CORE_PART_PART : Fld := ⟨.CLU_CORE_PART, 2, 0⟩
@[reducible] def fldCLU_CORE_PART_ASSIGNED : Fld := ⟨.CLU_CORE_PART, 3, 3⟩
@[reducible] def fldCLU_CORE_PART_MOVING : Fld := ⟨.CLU_CORE_PART, 4, 4⟩
@[reducible] def fldCLU_CORE_EPOCH_EPOCH : Fld := ⟨.CLU_CORE_EPOCH, 31, 0⟩
@[reducible] def fldCLU_DISP_MBQ_QUOTA : Fld := ⟨.CLU_DISP_MBQ, 8, 0⟩
@[reducible] def fldCLU_DISP_MBQ_USED : Fld := ⟨.CLU_DISP_MBQ, 24, 16⟩
@[reducible] def fldCLU_DISP_BLOST_VALUE : Fld := ⟨.CLU_DISP_BLOST, 63, 0⟩
@[reducible] def fldCLU_CORE_BOOT_GO : Fld := ⟨.CLU_CORE_BOOT, 0, 0⟩
@[reducible] def fldCLU_CORE_BOOT_RUN : Fld := ⟨.CLU_CORE_BOOT, 1, 1⟩
@[reducible] def fldCLU_CORE_BOOT_ENTRY : Fld := ⟨.CLU_CORE_BOOT, 47, 2⟩
@[reducible] def fldCLU_RESET_REQ : Fld := ⟨.CLU_RESET, 0, 0⟩
@[reducible] def fldCLU_RESET_BUSY : Fld := ⟨.CLU_RESET, 1, 1⟩
@[reducible] def fldSC_CTL_EN : Fld := ⟨.SC_CTL, 1, 0⟩
@[reducible] def fldSC_CTL_PF_EN : Fld := ⟨.SC_CTL, 2, 2⟩
@[reducible] def fldSC_WAYCTL_LOCK : Fld := ⟨.SC_WAYCTL, 11, 0⟩
@[reducible] def fldSC_WAYCTL_SWEEP : Fld := ⟨.SC_WAYCTL, 15, 15⟩
@[reducible] def fldSC_WAYCTL_DIS : Fld := ⟨.SC_WAYCTL, 31, 16⟩
@[reducible] def fldSC_WAYOWN_OWN : Fld := ⟨.SC_WAYOWN, 47, 0⟩
@[reducible] def fldDBG_PERM_PERM : Fld := ⟨.DBG_PERM, 2, 0⟩

end Sys2Proof.Machine
end

