-- ==== Sys2Proof/Machine/Sparse.lean ====
section
/-!
DEFINITION. Machine/Sparse.lean: data held by key in ONE canonical form: keys strictly rising, and no entry equal to
what an unlisted key reads as. What an unlisted key reads as is a parameter (`d`).
Memory, register cells and the register map are held so; `recPut` keeps records without the second condition.
-/

namespace Sys2Proof.Machine

/-- A list of key and value pairs. -/
abbrev Sparse (α : Type) := List (Nat × α)

/-- The value at key `k`; an unlisted key reads as `d k`. -/
def sparseGet {α : Type} (d : Nat → α) : Sparse α → Nat → α
  | [], k => d k
  | (k', v) :: m, k => if k = k' then v else sparseGet d m k

/-- Writes a record at key `k`, keeping the keys rising. -/
def recPut {α : Type} (k : Nat) (v : α) : Sparse α → Sparse α
  | [] => [(k, v)]
  | (k', v') :: m =>
    if k < k' then (k, v) :: (k', v') :: m
    else if k = k' then (k, v) :: m
    else (k', v') :: recPut k v m

/-- Writes `v` at key `k`. Writing what an unlisted key reads as removes the entry. -/
def sparsePut {α : Type} [DecidableEq α] (d : Nat → α) (k : Nat) (v : α) (m : Sparse α) : Sparse α :=
  if v = d k then m.filter (fun p => p.1 != k) else recPut k v m

/-- Every key of the list is above `b`, and the keys rise strictly. -/
def sparseSorted {α : Type} : Option Nat → Sparse α → Bool
  | _, [] => true
  | none, (k, _) :: m => sparseSorted (some k) m
  | some b, (k, _) :: m => decide (b < k) && sparseSorted (some k) m

/-- The canonical form: keys strictly rising, no entry equal to what an unlisted key reads as. -/
def sparseWf {α : Type} [DecidableEq α] (d : Nat → α) (m : Sparse α) : Bool :=
  sparseSorted none m && m.all (fun p => decide (p.2 ≠ d p.1))

end Sys2Proof.Machine
end

