-- ==== Sys2Proof/Machine/State.lean ====
section
/-!
DEFINITION. Machine/State.lean: the state of the block, as plain data, and the state right after power-on reset.
Every register of the BAR0 map is held in `regs` (Machine/RegSpec.lean names each one, with its reset value); the
structures below hold what is not a BAR0 register: the cores and their contexts, memory and the caches, and the
working state of each engine.
-/

namespace Sys2Proof.Machine

/-! ### Faults and refusals -/

/-- Why the machine stops. -/
inductive Fault where
  /-- Raised by a command that changes a clock when a ratio rule of R412 (17_clocks.md) breaks: the device's behaviour
  is undefined until the next power-on or PCIe reset. Safe: nothing is proved past that point. -/
  | ratioRule
deriving DecidableEq, Repr

/-- Why a command has no meaning. -/
inductive Refusal where
  /-- A command whose meaning is not written. No meaning answers with it. Safe. -/
  | notModelled (mnemonic : String)
deriving DecidableEq, Repr

/-! ### The cores (03, 04, 05) -/

/-- One register context of a core (R60). -/
structure Ctx where
  /-- The 296 physical cells of R54; an unlisted cell is VOID. -/
  cells : Sparse Cell
  /-- CK0 to CK15 (R62). -/
  ck : Sparse Cell
  pc : Word
  npc : Word
  /-- The next instruction lies in a delay slot (R69). -/
  dslot : Bool
  pstat : Word
  cmode : Word
  wstat : Word
  csp : Word
  cbase : Word
  clim : Word
  mh : Word
  ml : Word
  ctxid : Word
  /-- PRED_CTL.STATIC. -/
  predStatic : Bool
  s1ttb : Word
  attrpal : Word
  vbrS : Word
  tpc : Word
  tnpc : Word
  tstat : Word
  tcause : Word
  taddr : Cell
  tprog : Cell
  /-- The progress latch of R95. -/
  latch : Cell
  /-- No instruction has completed since the latch was loaded (R95). -/
  fresh : Bool
  /-- The register a load with CMODE.LDX = 1 has written, and the cell its shadow instruction still reads (R63). -/
  shadow : Option (Nat × Cell)
  /-- Products waiting to be written to MH:ML under CMODE.MULX = 1, oldest first (R64). -/
  mulq : List (Word × Word)
  /-- Global history, return stack (newest first) and scramble key of R73 and R75. -/
  history : BitVec 16
  rstack : List Word
  key : Word
  /-- The task has executed since its context was loaded (R140). -/
  ran : Bool
  /-- Register units not yet scanned in the current root sweep, bit i for unit i (R218). -/
  unscanned : BitVec 34
deriving DecidableEq, Repr

/-- A cell of a merging-buffer entry: a whole cell, or bytes under a mask (R177). -/
structure MergeCell where
  whole : Bool
  mask : BitVec 8
  cell : Cell
deriving DecidableEq, Repr

/-- An entry of a core's merging buffer: its line, whether it drains to the L2 (kind WTM without NL2) and its NSC, and
the cells it holds, by position 0 to 7 (R177). -/
structure MergeEntry where
  line : Nat
  toL2 : Bool
  nsc : Bool
  cells : Sparse MergeCell
deriving DecidableEq, Repr

/-- The space a translation belongs to (R161). -/
inductive Space where
  | part (p : Nat)
  | unassigned
  | kernel
deriving DecidableEq, Repr

/-- A combined leaf of an ITLB, DTLB or L2 TLB (R161): permissions, ATTRPAL slot and kinds of both stages, with the
levels of the two leaves. `size` is the base-2 logarithm of the bytes the entry covers; `slot` its way. -/
structure TlbEntry where
  slot : Nat
  space : Space
  asid : Nat
  global : Bool
  size : Nat
  va : Nat
  pa : Nat
  leaf1 : Nat
  level1 : Nat
  leaf2 : Nat
  level2 : Nat
deriving DecidableEq, Repr

/-- An entry of a walk cache (R161): a table entry read at a level for an address prefix. -/
structure WalkEntry where
  slot : Nat
  space : Space
  asid : Nat
  level : Nat
  pre : Nat
  entry : Word
deriving DecidableEq, Repr

/-- One way of the indirect-target table (R73): tag and target, scrambled. -/
structure TargetEntry where
  set : Nat
  way : Nat
  tag : BitVec 16
  target : BitVec 46
deriving DecidableEq, Repr

/-- An entry of a product cache (R47): operation 0 = CONV, 1 = MUL, 2 = DIV. -/
structure ProductEntry where
  op : Nat
  ua : Nat
  ub : Nat
  unit : Nat
  k : Word
  way : Nat
deriving DecidableEq, Repr

/-- A range operation running on a core's maintenance engine (R183). -/
structure RangeOp where
  ipa : Nat
  lines : Nat
  op : Nat
  levels : Nat
  inclLocked : Bool
  wake : Bool
  discard : Bool
  part : Option Nat
  task : Nat
  epoch : Nat
deriving DecidableEq, Repr

/-- A TLBI that has been sent and has not completed (R165), by what it removes. -/
inductive TlbiOp where
  | va (space : Space) (asid : Option Nat) (va : Nat)
  | asid (space : Space) (asid : Nat)
  | space (space : Space)
  | ipa (p ipa : Nat)
  | part (p : Nat)
  | ks (va : Nat)
  | all
deriving DecidableEq, Repr

/-- One core (R60). -/
structure CoreState where
  front : Ctx
  back : Ctx
  /-- The front context executes; a stopped core executes nothing. -/
  run : Bool
  mantle : Sparse Cell
  mtpc : Word
  mtnpc : Word
  mtstat : Word
  mtcause : Word
  mtaddr : Cell
  mtprog : Cell
  vbrK : Word
  edtb : Word
  dfsp : Word
  s2ttb : Word
  mcver : Word
  /-- CORE cycles since core reset (CYCLE). -/
  cycle : Nat
  /-- Pending events (R115), rising. -/
  events : List Nat
  /-- Address and detail of a pending STORE_ERROR (R110). -/
  storeErr : Word × Nat
  /-- The merging buffer, oldest entry first (R177). -/
  merge : List MergeEntry
  itlb : List TlbEntry
  dtlb : List TlbEntry
  l2tlb : List TlbEntry
  walk1 : List WalkEntry
  walk2 : List WalkEntry
  /-- The replacement trees (R161): 0 the ITLB, 1 the DTLB, 2 and 3 the walk caches, 16 + set the L2 TLB. -/
  tlbLru : Sparse Nat
  tlbis : List TlbiOp
  /-- Direction table: index to counter + 1; 0 = invalid (R73, R74). -/
  dirs : Sparse Nat
  targets : List TargetEntry
  targetLru : Sparse Nat
  products : List ProductEntry
  productLru : Sparse Nat
  wrongPath : Word
  /-- CACHE_MAINT_STAT and the operation it reports (R183). -/
  maint : Word
  rangeOp : Option RangeOp
  /-- The half latch for the register region: offset and high half (R11). -/
  half : Option (Nat × Nat)
  /-- Allocation buffer: ABCUR, ABEND (R211). -/
  abcur : Word
  abend : Word
  /-- The copy buffer: next free cell and first cell beyond it (R215, R222). -/
  copyCur : Nat
  copyEnd : Nat
  /-- The task last switched out of this core, if any (R136). -/
  lastOut : Option Nat
  /-- A task that must not be preempted by the one that yielded to it (R135): (yielder, beneficiary). -/
  yielded : Option (Nat × Nat)
  /-- HOLD (2) or KILL (4) of a task, waiting for the point where R126 permits a switch: task and command. -/
  ctl : Option (Nat × Nat)
deriving DecidableEq, Repr

/-! ### Messages and the dispatcher (06) -/

/-- A message or bounce record in a mailbox slot (R142 to R146). `cells` are cells 0 to 3; `cluster` is the cluster
whose slot it occupies; a target or sender is (true, core number) or (false, task number). -/
structure Msg where
  cluster : Nat
  part : Nat
  target : Bool × Nat
  sender : Bool × Nat
  senderEpoch : Nat
  bounced : Bool
  cells : List Cell
deriving DecidableEq, Repr

/-! ### Caches and memory (08) -/

/-- A valid line of a cache. Caches: 0-63 the L1Is, 64-127 the L1Ds, 128-135 the L2s, 136 the SC (R172). -/
structure CacheLine where
  cache : Nat
  set : Nat
  way : Nat
  line : Nat
  dirty : Bool
deriving DecidableEq, Repr

/-- A sweep in progress: of a whole cache (R188), of a way to be locked (R186), of a way to be disabled (R189). -/
inductive SweepKind where
  | disable
  | lock (w : Nat)
  | way (w : Nat)
deriving DecidableEq, Repr

structure Sweep where
  cache : Nat
  kind : SweepKind
deriving DecidableEq, Repr

/-- Working state of a larder bank: the state a transition leads to (0 ON, 1 RETENTION, 2 OFF), the rows remapped to
spares, the spares that passed their step and that failed it, the rows given the next DARNING step, and the row (0-511)
or spare (512 + i) whose turn comes next (R193, R195, R196, R440). -/
structure LarderBank where
  target : Option Nat
  remap : Sparse Nat
  good : List Nat
  bad : List Nat
  urgent : List Nat
  turn : Nat
deriving DecidableEq, Repr

/-! ### Fault management (19) -/

/-- One entry of the DDRPAGE tracker: a page and its buckets (R441). -/
structure PageTrack where
  page : Nat
  buckets : List (Nat × Nat)
deriving DecidableEq, Repr

/-- A class action that has been declared and has not ended (R438, R440). -/
structure FaultAct where
  cls : Nat
  unit : Nat
  act : Nat
  row : Nat
  pa : Nat
deriving DecidableEq, Repr

/-! ### LAUNDRY (09) -/

/-- An entry of the rack table (R206), as LAUNDRY holds it; `wiped`: every cell has been written VOID (R208). -/
structure Rack where
  state : Nat
  part : Nat
  tospace : Bool
  rescan : Bool
  abandoned : Bool
  damaged : Bool
  live : Nat
  top : Nat
  span : Nat
  wiped : Bool
deriving DecidableEq, Repr

/-- A piece of LAUNDRY's work in a phase: a memory root (R217), a dirty card, or a rack to walk or to evacuate. -/
inductive LaundryRoot where
  | tcb (t : Nat)
  | cellar (t : Nat)
  | mail
  | region (i : Nat)
  | card (rack card : Nat)
  | rack (i : Nat)
deriving DecidableEq, Repr

/-- LAUNDRY's working state for a partition: a requested cycle (mature or not), the cycle under way, whether its phase
has ended and awaits the next flip, whether it has freed a rack, the work left in the phase, the objects to scan, and the
tasks that took NURSERY_EMPTY (R214, R215). -/
structure LaundryPart where
  want : Option Bool
  mature : Bool
  ended : Bool
  freed : Bool
  roots : List LaundryRoot
  queue : List Nat
  waiting : List Nat
  flipAt : Option Nat
deriving DecidableEq, Repr

/-! ### The phase engine (10) -/

/-- A history entry of a source (R244): device time, estimate and rate (2^-96 rev and 2^-32 rev/s), state, GEN. -/
structure HistEntry where
  time : Nat
  est : Int
  rate : Int
  state : Nat
  gen : Nat
deriving DecidableEq, Repr

/-- Working state of a source (R235 to R242). The counted edges since the zero, whether the zero has been found, the
count at the last Z; the estimate at device time `t0`: phase in 2^-96 rev, rate in 2^-32 rev/s, acceleration in
2^-32 rev/s^2; good edges of the acquisition and edges seen in it; rejected edges in a row; device times of the last
rejected and the last accepted edge; whether the present acquisition followed LOST; estimate, rate and time held when
the source last left LOCKED; the history, newest first. -/
structure PhaseSrc where
  count : Int
  zeroed : Bool
  zmark : Option Int
  theta : Int
  omega : Int
  alpha : Int
  t0 : Nat
  acq : Nat
  seen : Nat
  rejRun : Nat
  lastRej : Nat
  lastEdge : Nat
  afterLost : Bool
  held : Option (Int × Int × Nat)
  hist : List HistEntry
deriving DecidableEq, Repr

/-- An alarm of the calendar (R248 to R255). `poster`: core k, or 64 + a host function. `before` is DUE minus the estimate when it was armed or released; `held` the
estimate when it was held; `conv` its due device time after conversion; `resolved` the instant of R251. `times` counts
the firings left, 0 = until cancelled. -/
structure Alarm where
  seq : Nat
  poster : Nat
  part : Nat
  ident : Nat
  action : Nat
  dir : Nat
  fallback : Bool
  dropLate : Bool
  report : Bool
  pclass : Bool
  times : Nat
  src : Nat
  due : Word
  arg : Word
  desc : List Cell
  period : Option Word
  before : Int
  held : Option Int
  conv : Option Nat
  resolved : Option Nat
deriving DecidableEq, Repr

/-! ### The drive path (13) -/

/-- A pending drive frame (R321 to R323), with the host command that posted it. -/
structure Frame where
  seq : Nat
  poster : Nat
  part : Nat
  cells : List Cell
  before : Int
  held : Option Int
  resolved : Option Nat
  host : Option (Nat × Nat × Nat)
deriving DecidableEq, Repr

/-- Working state of a drive output (R320 to R326): A, the accumulator at device time `t0` (phase in 2^-96 rev, frequency
in 2^-32 Hz, its slope), the sweep, the STREAM ring and next sample, pending frames, the ramp's start, samples sent (newest
first), the last application, the last DRIVE_LIMIT event, the samples the SYNTH job handed out and how many of them are sent,
zeros still due for a frame that was not written, the grid interval of the next sample, UNDERRUN's count (R320 names
no register for it), the sample index of the next section (R298, R304), and whether a partition reset stopped its sections (R318),
and whether the next one goes ahead of every other bundle (R327). -/
structure DriveOut where
  amp : Word
  phi : Int
  freq : Int
  slope : Int
  sweep : Nat
  rate : Word
  fend : Word
  t0 : Nat
  ring : Nat
  ringLen : Nat
  ringPos : Nat
  frames : List Frame
  rampStart : Option Nat
  sent : List Nat
  applied : Nat
  limitAt : Option Nat
  tail : List Nat
  tailPos : Nat
  zeros : Nat
  nextG : Nat
  underruns : Nat
  sidx : Nat
  silent : Bool
  urgent : Bool
deriving DecidableEq, Repr

/-! ### Resampler and spectral array (11) -/

/-- A busy slot: unit 0-7 of the resampler, or 8 + engine. `seq` and `count` of the status record, the flags of the average and
the channels whose values in it carry OVR; of the resampler the next revolution and the estimate when it was chosen (none: it lay
behind already); the pending execution and the one that runs (time, order, reference phase), whether the pending one counts as
BULK, what follows the one that runs, the last firing, the seed of SYNTH. -/
structure Job where
  eng : Nat
  slot : Nat
  part : Nat
  desc : List Cell
  seq : Nat
  count : Nat
  flags : Nat
  ovrs : Nat
  next : Option Nat
  since : Option Int
  pend : Option (Nat × Nat × Word)
  cur : Option (Nat × Nat × Word)
  bulk : Bool
  resetAfter : Bool
  stopAfter : Bool
  fired : Option Nat
  seed : Word
deriving DecidableEq, Repr

/-! ### The field link (12) -/

/-- A bundle: its four header words and its payload (R285, R286). -/
structure Bundle where
  hdr : List Word
  payload : List Word
deriving DecidableEq, Repr

/-- Working state of a lane (R291 to R297): seek rate, whether a CAP was received and one with ACKCAP, whether one with
ACKCAP was sent, exchange number, the open exchanges and their t1, oldest first, the delays of the last eight exchanges, accepted
exchanges in a row within 1 ns. -/
structure LaneWork where
  fast : Bool
  gotCap : Bool
  gotAck : Bool
  podSays : Nat
  sentCap : Bool
  exch : Nat
  openTs : List (Nat × Word)
  delays : List Int
  good : Nat
deriving DecidableEq, Repr

/-- A bundle in the reorder buffer of a group (R287): its sequence number, the lane it arrived on, and whether the link was not
LOCKED then (R300). -/
structure Held where
  seq : Nat
  lane : Nat
  unc : Bool
  bundle : Bundle
deriving DecidableEq, Repr

/-- A configuration request that has no answer yet (R306, R308). -/
structure CfgReq where
  reqid : Nat
  area : Nat
  target : Cell
  part : Option Nat
  desc : List Cell
deriving DecidableEq, Repr

/-- Sequence spaces of a link (R287 to R289): next expected, held bundles, a NAK that E has not answered yet, next to send,
bundles kept for replay, bundles that wait for room among them; and its configuration requests, oldest first. -/
structure LinkWork where
  expect : Nat
  held : List Held
  nak : Bool
  next : Nat
  kept : List (Nat × Bundle)
  waiting : List (Nat × List Word)
  reqs : List CfgReq
  nextReq : Nat
deriving DecidableEq, Repr

/-- A channel entry at work (R299 to R303): the time of index 0, period (2^-64 s), WIDX, GEN, the pod's index that is
index 0, WIDX at the last restart, arrivals of version-1 bundles (index, time), newest first. -/
structure Channel where
  anchor : Option Word
  period : Nat
  widx : Nat
  gen : Nat
  shift : Int
  restartAt : Nat
  arrivals : List (Nat × Nat)
deriving DecidableEq, Repr

/-! ### The host interface (14) -/

/-- An accepted command (R351): `stage` 0 accepted, 1 may begin, 2 running, 3 ended, 4 journalled as DONE. For a FW
command, `taker` is the task and core that fetched it. -/
structure HostCmd where
  fn : Nat
  ring : Nat
  seq : Nat
  op : Nat
  cls : Nat
  tagged : Bool
  cookie : Word
  words : List Word
  stage : Nat
  status : Nat
  detail : Nat
  res0 : Nat
  res1 : Word
  taker : Option (Nat × Nat)
deriving DecidableEq, Repr

/-- A journal record: function, journal sequence number, words; KIND, ring and SEQ lie in word 0 (R359). -/
structure JournalRec where
  fn : Nat
  seq : Nat
  words : List Word
deriving DecidableEq, Repr

/-- A record entry not yet consumed (R356, R358). -/
structure RecEntry where
  fn : Nat
  ring : Nat
  seq : Nat
  words : List Word
  data : List Word
  sent : Bool
deriving DecidableEq, Repr

/-- A running export (R347). `waiting`: it found no room; `next` is the first sample index of the next record, `miss` where a
run of missing records began (R380). -/
structure Export where
  fn : Nat
  ring : Nat
  first : Nat
  count : Nat
  ns : Nat
  next : Nat
  gen : Nat
  control : Bool
  waiting : Bool
  miss : Option Nat
deriving DecidableEq, Repr

/-- Working state of a function: doorbell values by ring, task bindings by slot (task, epoch), lost markers and the
time of the first, entries not yet signalled by ring with the time of the first, shadow entries written, bytes of data written by
record ring, times of its CONTROL descriptors by ring. -/
structure HostFn where
  db : Sparse Nat
  bind : Sparse (Nat × Nat)
  lostMarks : Nat
  lostSince : Word
  unsignalled : Sparse Nat
  shadowPos : Nat
  dataPos : Sparse Nat
  control : List (Nat × Nat)
deriving DecidableEq, Repr

/-- What leaves the device: writes to host memory, MSI-X vectors, bundles on a lane, SYNC_OUT pulses: leading edge,
width in PHASE cycles, level. -/
inductive Outbound where
  | hostWrite (fn addr : Nat) (words : List Word)
  | hostBytes (fn addr : Nat) (bytes : List (BitVec 8))
  | msix (fn vec : Nat)
  | bundle (lane : Nat) (b : Bundle) (crc : Nat)
  | syncOut (time width : Nat) (high : Bool)
deriving DecidableEq, Repr


/-! ### Boot and trust (16) -/

/-- The OTP (R392): key hashes by slot, as 32 bytes; PROG and REVOKED bits of slots 0 to 5; the POL bits; the epochs of
MCODE, KEEPER, SUPER and DEBUG; the bits of the boot counter that are blown. -/
structure Otp where
  hash : Sparse (List (BitVec 8))
  prog : Nat
  revoked : Nat
  pol : Nat
  epochs : List Nat
  boots : Nat
deriving DecidableEq, Repr

/-- An image that was accepted (R386): what later paths use of its header. -/
structure Image where
  type : Nat
  epoch : Nat
  version : Nat
  plen : Nat
  dest : Nat
  cold : Word
  warm : Word
  ktab : Nat
  phash : List (BitVec 8)
deriving DecidableEq, Repr

/-- A request of the service queue (R401): its descriptor, and its poster: a partition at level S, or the keeper; `mute`: it
writes no result, since its partition has been reset. -/
structure Service where
  desc : List Cell
  part : Option Nat
  mute : Bool
deriving DecidableEq, Repr

/-- The boot sequencer (R382 to R407): the strap; how far the full boot has come (0 not begun, 1 waiting for XA, 2 PLLs
started); the images of this boot and
whether the bundle was accepted; the PHASH of the microcode in each cluster; the EPOCH of the image of each type that was
last accepted; DEBUG permissions; the seed of the attestation key; device times of the CORE entries of the last second;
requests that wait, oldest first; whether BAR0 is open (R384). -/
structure Boot where
  bootWait : Bool
  stage : Nat
  accepted : Bool
  mcode : Option Image
  keeper : Option Image
  loaded : Sparse (List (BitVec 8))
  verified : Sparse Nat
  debug : Nat
  attSeed : Nat
  entries : List Nat
  services : List Service
  barOpen : Bool
deriving DecidableEq, Repr
/-! ### The state -/

/-- The state of the block. -/
structure State where
  /-- Commands waiting, first in, first out. -/
  pending : List Instr
  /-- PHASE cycles since the last PCIe reset, and device time in 2^-64 s (R246). -/
  phaseCycles : Nat
  dtime : Nat
  /-- BAR0 registers: key 65536 * register + index; an unlisted register holds its reset value. -/
  regs : Sparse Word
  /-- Memory by physical address / 8: the value at the coherence point; an unlisted cell is VOID. -/
  mem : Sparse Cell
  /-- What lies beneath a dirty line of a cache, by 2^38 * cache + line (R178, R182). -/
  under : Sparse (List Cell)
  lines : List CacheLine
  plru : Sparse Nat
  sweeps : List Sweep
  larder : Sparse LarderBank
  cores : Sparse CoreState
  /-- The unit table: index to the three image cells; an unlisted entry is undefined (R35, R41). -/
  units : Sparse (List Word)
  /-- Mailboxes, oldest first, and the order in which tasks became READY (R134), by 1024 * partition + task. -/
  mail : List Msg
  readySeq : Sparse Nat
  /-- Where the cursors of interrupted LWALK, MEMQ and ASSQ were read from, with the cell (R94); by owner and register. -/
  cursors : Sparse (Cell × Word)
  seq : Nat
  /-- Fault windows: per unit its buckets (bucket number, events), newest first; the page tracker, most recently
  counted first; the actions under way (R437 to R441). -/
  buckets : Sparse (List (Nat × Nat))
  pages : List PageTrack
  faultActs : List FaultAct
  /-- The stage-2 TLB of the fabric translation unit (R171). -/
  fabricTlb : List TlbEntry
  fabricLru : Sparse Nat
  /-- LAUNDRY: rack entries by global rack, working state by partition, and the clusters' mark queues, oldest first, as
  (cluster, partition, address) (R206, R215, R223). -/
  racks : Sparse Rack
  laundry : Sparse LaundryPart
  markq : List (Nat × Nat × Nat)
  /-- The phase engine: sources 0 to 15, encoder levels (bit 0 A, 1 B, 2 Z), device time of the last crossing of each MAINS
  input and of the last active SYNC_IN edge with the interval before it, rate of device time above nominal (2^-64 s per PHASE
  cycle) and the time it was last steered, the calendar in post order, and the FENCE.Ps that actions still to come lie before:
  poster and the next post's number (R100, R235 to R251). -/
  sources : Sparse PhaseSrc
  encoders : Sparse Nat
  mainsAt : Sparse Nat
  syncAt : Option Nat
  syncGap : Option Nat
  dtRate : Int
  dtSteered : Nat
  alarms : List Alarm
  fences : List (Nat × Nat)
  /-- Device time up to which SYNC_OUT is busy, and the next DIVIDED or PPS pulse number (R259). -/
  syncBusy : Nat
  /-- The drive path: outputs 0 to 63, and the level of ABORT_N (R319 to R330). -/
  drives : Sparse DriveOut
  abortN : Bool
  /-- Jobs of resampler units and spectral engines (R261). -/
  jobs : List Job
  /-- The field link: lanes, links, channels (R291 to R313). -/
  lanes : Sparse LaneWork
  links : Sparse LinkWork
  channels : Sparse Channel
  /-- The host interface: functions, accepted commands in order, journal records not retired, records not consumed,
  exports (R332 to R360). -/
  hostFns : Sparse HostFn
  cmds : List HostCmd
  journal : List JournalRec
  records : List RecEntry
  exports : List Export
  /-- What has left the device, oldest first. -/
  outbound : List Outbound
  /-- Tasks whose activation has passed its grant, until their WAIT (R375), by 1024 * partition + task; device times of the
  last ADMISSION event and the last DYN count, by partition and count, and by source (R369). -/
  overran : List Nat
  /-- CORE cycles of the present activation of tasks with a TASK grant, by 1024 * partition + task (R375). -/
  activations : Sparse Nat
  admAt : Sparse Nat
  dynAt : Sparse Nat
  /-- Clocks and power (R413 to R428): monitored conditions that are bad now (0 FIRC, 1 SIRC, 2 XA, 3 XB, 4 + k PLL k), PLLs
  on their way to lock, the SRC and DIV of domain switches under way, dividers in force while throttled, the
  device time since which Tj has stayed at or below TH_LO, and whether the DRAM waits for recalibration (R202, R418). -/
  clkBad : List Nat
  locking : List Nat
  switching : Sparse (Nat × Nat)
  throttled : Sparse Nat
  cool : Option Nat
  memRecal : Bool
  /-- Device times of the MEM_SKEW windows of the last second and of the last event 0x18, and the same for LARD_SKEW and
  event 0x19 (R194, R201). -/
  skews : List Nat
  skewAt : Option Nat
  lardSkews : List Nat
  lardSkewAt : Option Nat
  /-- The keeper's writes that wait for the end of a class action (R446): 0 a DIS bit, 1 FLT_PAGE, 2 FLT_CORE_OFF, 3
  FLT_LANE_RET; its index; the value. -/
  deferred : List (Nat × Nat × Word)
  otp : Otp
  boot : Boot
  /-- Bytes of the SMBus block read that was answered last (R458), and the ball THERMTRIP_N: true = driven low (R429). -/
  smbus : List (BitVec 8)
  tripped : Bool
  /-- Cores that are moving, with the CLU_CORE_PART value they move to (R150). -/
  moving : Sparse Nat
  /-- The half latch of the host (R11). -/
  hostHalf : Option (Nat × Nat)
  /-- What the last register read returned, and the status the last post returned to its poster. -/
  readData : Word
  status : Nat
  /-- The refusal code of the last post that admission refused (R371). -/
  postCode : Nat
  /-- The model's own: how many free values have been drawn. -/
  draw : Nat
deriving DecidableEq, Repr

/-- The state right after power-on reset (R430): every register at its reset value (an empty list of differences), memory,
caches and queues empty, every core stopped at core reset, the boot sequencer at START. DESIGN CHOICE: a device whose OTP is
blank, whose straps and pins are low, whose device time starts at 0. -/
def State.reset : State := {
  pending := [], phaseCycles := 0, dtime := 0, regs := [], mem := [], under := [], lines := [], plru := [], sweeps := [],
  larder := [], cores := [], units := [], mail := [], readySeq := [], cursors := [], seq := 0, buckets := [], pages := [], faultActs := [],
  fabricTlb := [], fabricLru := [], racks := [], laundry := [], markq := [], sources := [], encoders := [], mainsAt := [],
  syncAt := none, syncGap := none, dtRate := 0, dtSteered := 0, alarms := [], fences := [], syncBusy := 0, drives := [], abortN := false, jobs := [], lanes := [], links := [],
  channels := [], hostFns := [], cmds := [], journal := [], records := [], exports := [], outbound := [], overran := [], activations := [],
  admAt := [], dynAt := [], clkBad := [], locking := [], switching := [], throttled := [], cool := none, memRecal := false,
  skews := [], skewAt := none, lardSkews := [], lardSkewAt := none, deferred := [],
  otp := ⟨[], 0, 0, 0, [0, 0, 0, 0], 0⟩,
  boot := ⟨false, 0, false, none, none, [], [], 0, 0, [], [], false⟩,
  smbus := [], tripped := false, moving := [], hostHalf := none, readData := 0, status := 0, postCode := 0, draw := 0 }

end Sys2Proof.Machine
end

