-- ==== Sys2Proof/Machine/Ops.lean ====
section
/-!
DEFINITION. Machine/Ops.lean: the named operations over the state: registers of the BAR0 map, cores and contexts,
free values, events (R113 to R115), who owns a core (R14), and the levels (R104).
-/

namespace Sys2Proof.Machine

/-! ### Free values -/

/-- The next free word. -/
def drawWord (s : State) : Word × State := (Config.freeWord s.draw, { s with draw := s.draw + 1 })

/-- The next free number. -/
def drawNat (s : State) : Nat × State := (Config.freeNat s.draw, { s with draw := s.draw + 1 })

/-- The next free choice. -/
def drawBit (s : State) : Bool × State := (Config.freeBit s.draw, { s with draw := s.draw + 1 })

/-- The next free cell. The device never produces a reserved tag (R23). -/
def drawCell (s : State) : Cell × State :=
  let c := Config.freeCell s.draw
  (if isReservedTag c.tag then ⟨tagRaw64, c.data⟩ else c, { s with draw := s.draw + 1 })

/-! ### Registers of the BAR0 map -/

/-- Reset DIV of a clock domain (R411); SAMPLE, SFLTX and SFLRX read 0. -/
def domResetDiv (d : Nat) : Nat :=
  [2, 2, 2, 2, 2, 2, 2, 2, 4, 4, 4, 5, 5, 8, 0, 0, 0, 4, 16, 8, 2, 1, 8, 20, 16].getD d 0

/-- Fixed clock domains (R411): PCIEAUX, SEC, AON. -/
def domFixed (d : Nat) : Bool := d == 18 || d == 21 || d == 22

/-- Fixed power domains (R425). -/
def pwrFixed (d : Nat) : Bool := [0, 8, 9, 23, 26, 27, 28, 29].contains d

/-- Reset NINT of a PLL (R410); PLLA for the 25 MHz reference. -/
def pllResetNint (k : Nat) : Nat := [128, 128, 160, 224, 125, 160].getD k 0

/-- Reset BUCKET, TH and ACT of a fault class (R439). -/
def faultReset (c : Nat) : Nat × Nat × Nat :=
  [(5400000, 8, 0), (225000, 4, 1), (225000, 4, 1), (225000, 1024, 0), (225000, 8, 3), (225000, 4, 2),
   (63, 100, 5), (225000, 64, 0), (225000, 16, 0), (5400000, 4, 0)].getD c (0, 0, 0)

/-- The reset value of a register: the OR of its fields' reset values (R10), with the values that depend on the index
or are drawn at random. -/
def regReset (r : Reg) (i : Nat) : Word :=
  let base := r.desc.fields.foldl (fun a f => a + f.reset * 2 ^ f.lo) 0
  match r with
  | .GLB_ID => w64 0x80641100
  | .LARD_BANK_CTL => w64 (if i = 0 then base + 0x20 else base)
  | .LARD_HASH_KEY => putBits 0 35 0 (Config.freeWord (2 ^ 64 + i)).toNat
  | .MEM_HASH_KEY => Config.freeWord (2 ^ 65)
  | .CLK_DOM_SEL => w64 (base + domResetDiv i * 4 + (domFixed i).toNat * 1025)
  | .CLK_PLL_CFG => w64 (base + pllResetNint i * 4)
  | .PWR_DOM_CTL => w64 (base + (pwrFixed i).toNat * 8)
  | .FLT_CLS_CFG =>
    let f := faultReset i
    w64 (base + f.2.1 + f.1 * 2 ^ 16 + f.2.2 * 2 ^ 48)
  | .CLK_PLL_SS => if 3 ≤ i then 0 else w64 base
  | .SEC_SERIAL => Config.freeWord (2 ^ 66)
  | _ => w64 base

/-- The key of a register in `State.regs`. -/
def regKey (r : Reg) (i : Nat) : Nat := r.ctorIdx * 65536 + i

/-- What an unlisted register holds: its reset value. -/
def regDefault (key : Nat) : Word := regReset (Reg.all.getD (key / 65536) .GLB_ID) (key % 65536)

/-- The value register `r[i]` holds. -/
def getReg (s : State) (r : Reg) (i : Nat) : Word := sparseGet regDefault s.regs (regKey r i)

/-- `r[i]` takes the value `v`. -/
def setReg (r : Reg) (i : Nat) (v : Word) (s : State) : State :=
  { s with regs := sparsePut regDefault (regKey r i) v s.regs }

/-- A field of a register. -/
def fget (s : State) (f : Fld) (i : Nat) : Nat := bitsOf (getReg s f.reg i) f.hi f.lo

/-- A field of a register takes the value `v`. -/
def fset (f : Fld) (i : Nat) (v : Nat) (s : State) : State :=
  setReg f.reg i (putBits (getReg s f.reg i) f.hi f.lo v) s

/-- A one-bit field. -/
def fbit (s : State) (f : Fld) (i : Nat) : Bool := fget s f i == 1

/-- A counter register (R6) counts up by `n`, modulo 2^64. -/
def countUp (r : Reg) (i n : Nat) (s : State) : State := setReg r i (getReg s r i + w64 n) s

/-- A field that saturates counts up by `n`. -/
def countSat (f : Fld) (i n : Nat) (s : State) : State :=
  fset f i (min (fget s f i + n) (2 ^ (f.hi + 1 - f.lo) - 1)) s

/-! ### Cores and contexts -/

/-- A context at core reset: PL = K, one window valid, no task loaded, every cell VOID (03, 05, 06). -/
def Ctx.atReset : Ctx :=
  { cells := [], ck := [], pc := 0, npc := 0, dslot := false, pstat := 2, cmode := 0, wstat := 0x10000, csp := 0,
    cbase := 0, clim := 0, mh := 0, ml := 0, ctxid := 0x10000, predStatic := false, s1ttb := 0, attrpal := 0,
    vbrS := 0, tpc := 0, tnpc := 0, tstat := 0, tcause := 0, taddr := cellVoid, tprog := cellVoid,
    latch := cellVoid, fresh := false, shadow := none, mulq := [], history := 0, rstack := [], key := 0, ran := false,
    unscanned := 0 }

/-- A core at core reset, stopped. -/
def CoreState.atReset : CoreState :=
  { front := Ctx.atReset, back := Ctx.atReset, run := false, mantle := [], mtpc := 0, mtnpc := 0, mtstat := 0,
    mtcause := 0, mtaddr := cellVoid, mtprog := cellVoid, vbrK := 0, edtb := 0, dfsp := 0, s2ttb := 0, mcver := 0,
    cycle := 0, events := [], storeErr := (0, 0), merge := [], itlb := [], dtlb := [], l2tlb := [], walk1 := [],
    walk2 := [], tlbLru := [], tlbis := [], dirs := [], targets := [], targetLru := [], products := [], productLru := [],
    wrongPath := 0, maint := 0, rangeOp := none, half := none, abcur := 0, abend := 0, copyCur := 0, copyEnd := 0, lastOut := none,
    yielded := none, ctl := none }

/-- Core `k` after power-on: its contexts' scramble keys are drawn from the internal random generator (R75, R78), here free
words at fixed places. -/
def CoreState.powerOn (k : Nat) : CoreState :=
  { CoreState.atReset with
    front := { Ctx.atReset with key := Config.freeWord (2 ^ 68 + 2 * k) }
    back := { Ctx.atReset with key := Config.freeWord (2 ^ 68 + 2 * k + 1) } }

/-- Core `k`. -/
def getCore (s : State) (k : Nat) : CoreState := sparseGet CoreState.powerOn s.cores k

/-- Core `k` becomes `c`. -/
def setCore (k : Nat) (c : CoreState) (s : State) : State := { s with cores := recPut k c s.cores }

/-- A change of core `k`. -/
def modCore (k : Nat) (f : CoreState → CoreState) (s : State) : State := setCore k (f (getCore s k)) s

/-- A change of the front context of core `k`. -/
def modFront (k : Nat) (f : Ctx → Ctx) (s : State) : State :=
  modCore k (fun c => { c with front := f c.front }) s

/-- The front context of core `k`. -/
def front (s : State) (k : Nat) : Ctx := (getCore s k).front

/-! ### PSTAT (05) -/

/-- PSTAT.PL: 0 = T, 1 = S, 2 = K (R104). -/
def plOf (c : Ctx) : Nat := bitsOf c.pstat 1 0
/-- PSTAT.EE; reads 1 at level T. -/
def eeOf (c : Ctx) : Bool := plOf c == 0 || bitOf c.pstat 2
def cbOf (c : Ctx) : Bool := bitOf c.pstat 3
def ckmapOf (c : Ctx) : Bool := bitOf c.pstat 4
def mbOf (c : Ctx) : Bool := bitOf c.pstat 5
def nibRunOf (c : Ctx) : Bool := bitOf c.pstat 7
def nibRemOf (c : Ctx) : Nat := bitsOf c.pstat 19 8

/-- PSTAT as it reads, by MFS and into TSTAT at an entry: EE is 1 at level T, NIB_EXPIRED and PHDR are 0 (R104). -/
def pstatRead (x : Ctx) : Word :=
  putBits (putBit (if plOf x = 0 then putBit x.pstat 2 true else x.pstat) 6 false) 63 20 0

/-- The record an entry saves in TPROG where no step has ended: the latch, at the first instruction after it was loaded
(R95). -/
def progOf (x : Ctx) : Cell := if x.fresh then x.latch else cellVoid

/-- What TPC and TNPC hold of an instruction address: bits [47:2] (R65, R108). A fetch address has 64 bits (R151). -/
def addrField (w : Word) : Word := putBits (putBits w 63 48 0) 1 0 0

/-- PSTAT as a task runs with it: PL = T, EE = 1, nothing else (R127). -/
def pstatTask : Word := 4

/-! ### Ownership (R14, R467) -/

/-- The partition that owns core `k`, if any (CLU_CORE_PART). -/
def partOf (s : State) (k : Nat) : Option Nat :=
  if fbit s fldCLU_CORE_PART_ASSIGNED k then some (fget s fldCLU_CORE_PART_PART k) else none

/-- The partition of a host function: VF n serves partition n; the PF acts for the keeper (R12, R14). -/
def hostPart (f : Nat) : Option Nat := if f < 8 then some f else none

/-- The PF, or a core at level K (R12, R467): who may write the GLB, SEC and MEM blocks. -/
def pfOrK (s : State) : Agent → Bool
  | .host f => f.val == 8
  | .core k => plOf (front s k.val) == 2

/-- Whether an agent acts for the keeper. The PF does once BAR0 is open (R384). -/
def isKeeper (s : State) (a : Agent) : Bool :=
  pfOrK s a && (match a with
    | .host _ => s.boot.barOpen
    | .core _ => true)

/-- The partition whose rights an agent has; none for the keeper and for code on an unowned core (R467). -/
def agentPart (s : State) : Agent → Option Nat
  | .host f => hostPart f.val
  | .core k => partOf s k.val

/-- Code below level K on a core that no partition owns: it holds no rights (R467). -/
def noRights (s : State) (a : Agent) : Bool :=
  match a with
  | .host _ => false
  | .core k => plOf (front s k.val) != 2 && (partOf s k.val).isNone

/-- Whether an agent may act on what partition `p` owns: the keeper and that partition. -/
def mayAct (s : State) (a : Agent) (p : Nat) : Bool := isKeeper s a || agentPart s a == some p

/-- The cores partition `p` owns, rising. -/
def coresOf (s : State) (p : Nat) : List Nat := (List.range 64).filter (fun k => partOf s k == some p)

/-! ### Events (R113 to R115) -/

/-- Inserts a number in a rising list without repeats. -/
def insertNat (e : Nat) : List Nat → List Nat
  | [] => [e]
  | x :: l => if e < x then e :: x :: l else if e = x then x :: l else x :: insertNat e l

/-- Event `e` becomes pending at core `k`; further occurrences merge (R115). -/
def raiseEvent (k e : Nat) (s : State) : State :=
  modCore k (fun c => { c with events := insertNat e c.events }) s

/-- A keeper event, at core 0 of cluster 0 (R113). -/
def raiseKeeper (e : Nat) (s : State) : State := raiseEvent 0 e s

/-- Partition event i of partition p, at the event core; a partition without a core receives none (R114). -/
def raisePart (p i : Nat) (s : State) : State :=
  match coresOf s p with
  | [] => s
  | k :: _ => raiseEvent k (0x40 + 24 * p + i) s

/-- Answers a register read, or a post, to its requester. -/
def answerRead (v : Word) (s : State) : State := { s with readData := v }
def answerStatus (n : Nat) (s : State) : State := { s with status := n }

/-! ### Device time (R246): PS15 in units of 2^-32 rev -/

/-- Device time as a 32.32 phase payload. -/
def dtNow (s : State) : Word := w64 (s.dtime / 2 ^ 32)

end Sys2Proof.Machine
end

