-- ==== Sys2Proof/Machine/Operands.lean ====
section
/-!
DEFINITION. Machine/Operands.lean: traps as data (R106 to R108), the registers an instruction names (R53, R54, R121,
R63), and the checks of source operands in the order of R29 and R49.
-/

namespace Sys2Proof.Machine

/-! ### Traps -/

/-- A synchronous trap (R107, R108): vector, DETAIL, the reported operand (register number and tag), another tag seen,
the unit indices, and the address for TADDR (none: VOID). -/
structure Trap where
  vec : Nat
  detail : Nat := 0
  opnd : Option (Nat × Tag) := none
  seen : Option Tag := none
  unitA : Nat := 0
  unitB : Nat := 0
  addr : Option Word := none
deriving DecidableEq, Repr

@[reducible] def vFetchTag : Nat := 1
@[reducible] def vFetchS1 : Nat := 2
@[reducible] def vFetchS2 : Nat := 3
@[reducible] def vIllegalOp : Nat := 4
@[reducible] def vPrivOp : Nat := 5
@[reducible] def vPrivRestore : Nat := 6
@[reducible] def vTagCheck : Nat := 7
@[reducible] def vVoidUse : Nat := 8
@[reducible] def vPoisonUse : Nat := 9
@[reducible] def vPhaseSource : Nat := 10
@[reducible] def vUnitMiss : Nat := 11
@[reducible] def vUnitMismatch : Nat := 12
@[reducible] def vFixOverflow : Nat := 13
@[reducible] def vMisaligned : Nat := 14
@[reducible] def vDataS1 : Nat := 15
@[reducible] def vDataS2 : Nat := 16
@[reducible] def vWovf : Nat := 17
@[reducible] def vWunf : Nat := 18
@[reducible] def vCellarLimit : Nat := 19
@[reducible] def vSoftware : Nat := 20
@[reducible] def vKcall : Nat := 21
@[reducible] def vAlloc : Nat := 22
@[reducible] def vEventDesc : Nat := 23

/-- A trap of vector and detail alone. -/
def trapOf (vec detail : Nat) : Trap := { vec := vec, detail := detail }

/-- A trap that reports an operand (OPV = 1). -/
def trapOn (vec detail r : Nat) (t : Tag) : Trap := { vec := vec, detail := detail, opnd := some (r, t) }

/-- A trap on a cell read from memory or found at the store target: TADDR its address, TAGSEEN its tag, OPV 0. -/
def trapAt (vec detail : Nat) (va : Word) (t : Tag) : Trap :=
  { vec := vec, detail := detail, seen := some t, addr := some va }

def illegalOp (detail : Nat) : Trap := trapOf vIllegalOp detail
def privOp (detail : Nat) : Trap := trapOf vPrivOp detail

/-! ### The registers an instruction names -/

/-- The physical cell of visible register `r` in window `cwp` (R54). -/
def physCell (cwp r : Nat) : Nat :=
  if r ≤ 11 then 8 + 18 * cwp + 6 + r
  else if r ≤ 17 then 8 + 18 * cwp + (r - 12)
  else if r ≤ 23 then 8 + 18 * ((cwp + 1) % 16) + (r - 18)
  else r - 24

/-- WSTAT.CWP. -/
def cwpOf (c : Ctx) : Nat := bitsOf c.wstat 3 0
/-- WSTAT.WVALID and WSTAT.WDIRTY of a window. -/
def wvalid (c : Ctx) (w : Nat) : Bool := bitOf c.wstat (16 + w)
def wdirty (c : Ctx) (w : Nat) : Bool := bitOf c.wstat (32 + w)

/-- Where register number `r` lives: 0-295 a physical cell, 300-315 CK0-CK15, 320-335 MK0-MK15 (R121). -/
def regLoc (c : Ctx) (r : Nat) : Nat :=
  if r < 16 && mbOf c then 320 + r
  else if r < 16 && ckmapOf c then 300 + r
  else physCell (cwpOf c) r

/-- The cell at a location. -/
def readLoc (c : CoreState) (l : Nat) : Cell :=
  if l < 300 then sparseGet (fun _ => cellVoid) c.front.cells l
  else if l < 320 then sparseGet (fun _ => cellVoid) c.front.ck (l - 300)
  else sparseGet (fun _ => cellVoid) c.mantle (l - 320)

/-- A write of physical cell `p`; in a valid window it sets the window's dirty bit (R57). -/
def writePhys (p : Nat) (v : Cell) (x : Ctx) : Ctx :=
  let w := (p - 8) / 18
  { x with
    cells := sparsePut (fun _ => cellVoid) p v x.cells
    wstat := if 8 ≤ p && wvalid x w then putBit x.wstat (32 + w) true else x.wstat }

/-- A write of the cell at a location. CK and MK writes set no dirty bit (R121). -/
def writeLoc (l : Nat) (v : Cell) (c : CoreState) : CoreState :=
  if l < 300 then { c with front := writePhys l v c.front }
  else if l < 320 then
    { c with front := { c.front with ck := sparsePut (fun _ => cellVoid) (l - 300) v c.front.ck } }
  else { c with mantle := sparsePut (fun _ => cellVoid) (l - 320) v c.mantle }

/-- What an instruction on core `k` reads from the register at a location: in the shadow of a load, the cell the
register held before the load (R63). -/
def readAt (s : State) (k l : Nat) : Cell :=
  match (front s k).shadow with
  | some (l', old) => if l = l' then old else readLoc (getCore s k) l
  | none => readLoc (getCore s k) l

/-- Register `r` of core `k`, as the present instruction reads it. -/
def readReg (s : State) (k : Nat) (r : Gpr) : Cell := readAt s k (regLoc (front s k) r.val)

/-- Register `r` of core `k` takes a cell. -/
def writeReg (k : Nat) (r : Gpr) (v : Cell) (s : State) : State :=
  modCore k (fun c => writeLoc (regLoc c.front r.val) v c) s

/-- The location of x0, whatever CKMAP holds (R121). -/
def x0Loc (c : Ctx) : Nat := physCell (cwpOf c) 18

/-! ### Source operands -/

/-- A source operand: its register number, its cell, and the detail of TAG_CHECK when it qualifies on its own (R29). -/
structure Opnd where
  reg : Nat
  cell : Cell
  bad : Option Nat
deriving DecidableEq, Repr

/-- An operand that must carry one of some tags: RESERVED_TAG, else SOFT_TYPE. -/
def opTags (s : State) (k : Nat) (r : Gpr) (ok : Tag → Bool) : Opnd :=
  let c := readReg s k r
  ⟨r.val, c, if isReservedTag c.tag then some 3 else if ok c.tag then none else some 1⟩

/-- An address operand (R91): FIX, RAW64 or a PTR class, and a PTR base obeys R24. -/
def opAddr (s : State) (k : Nat) (r : Gpr) : Opnd :=
  let c := readReg s k r
  ⟨r.val, c, if isReservedTag c.tag then some 3
    else if c.tag = tagFix || c.tag = tagRaw64 then none
    else if isPtr c.tag then (if ptrOk c.data then none else some 2)
    else some 1⟩

/-- An object operand of the tags `ok` (R93): also checked under R24. -/
def opObject (s : State) (k : Nat) (r : Gpr) (ok : Tag → Bool) : Opnd :=
  let c := readReg s k r
  ⟨r.val, c, if isReservedTag c.tag then some 3 else if ok c.tag then
    (if ptrOk c.data then none else some 2) else some 1⟩

/-- Tags of the raw operations (R82). -/
def tagRaw (t : Tag) : Bool := t == tagFix || t == tagRaw64
def tagIsFix (t : Tag) : Bool := t == tagFix

/-- The operand traps of a list of source operands, leftmost first: POISON_USE, VOID_USE, TAG_CHECK (R29, R49). -/
def checkOps (ops : List Opnd) : Except Trap Unit :=
  match ops.find? (fun o => o.cell.tag == tagPoison) with
  | some o => .error (trapOn vPoisonUse 0 o.reg o.cell.tag)
  | none =>
    match ops.find? (fun o => o.cell.tag == tagVoid) with
    | some o => .error (trapOn vVoidUse 0 o.reg o.cell.tag)
    | none =>
      match ops.find? (fun o => o.bad.isSome) with
      | some o => .error (trapOn vTagCheck (o.bad.getD 1) o.reg o.cell.tag)
      | none => .ok ()

/-- The result tag of R82: RAW64 when either operand is RAW64. -/
def rawTag (a b : Tag) : Tag := if a == tagRaw64 || b == tagRaw64 then tagRaw64 else tagFix

/-- A sign-extended immediate. -/
def sext {n : Nat} (i : BitVec n) : Word := i.signExtend 64

end Sys2Proof.Machine
end

