-- ==== Sys2Proof/Machine/Plru.lean ====
section
/-!
DEFINITION. Machine/Plru.lean: tree pseudo-LRU replacement (R181 of 08_caches_larders_memory.md) over 2^depth ways.
Node i of the tree has children 2i and 2i + 1, the root is node 1; a node's bit is 1 when the next victim is to be
sought in its upper half.
-/

namespace Sys2Proof.Machine

/-- A hit or a fill of way `w`: the nodes on its path point away from it. -/
def plruTouch : Nat → Nat → Nat → Nat → Nat
  | 0, bits, _, _ => bits
  | d + 1, bits, node, w =>
    let up := w / 2 ^ d % 2
    plruTouch d (nput bits node node (1 - up)) (2 * node + up) w

/-- Some way among the 2^d ways from `base` is allowed. -/
def plruAny (ok : Nat → Bool) (base n : Nat) : Bool := (List.range n).any (fun i => ok (base + i))

/-- Walk of the tree; where every way of the indicated subtree is barred, the walk takes the other subtree. -/
def plruWalk (ok : Nat → Bool) : Nat → Nat → Nat → Nat → Nat
  | 0, _, _, base => base
  | d + 1, bits, node, base =>
    let want := nbits bits node node
    let up := if plruAny ok (base + want * 2 ^ d) (2 ^ d) then want else 1 - want
    plruWalk ok d bits (2 * node + up) (base + up * 2 ^ d)

/-- The victim: the lowest-numbered allowed way that is invalid, else the way the tree names; none when no way is
allowed. -/
def plruVictim (depth bits : Nat) (ok valid : Nat → Bool) : Option Nat :=
  match (List.range (2 ^ depth)).find? (fun w => ok w && !valid w) with
  | some w => some w
  | none => if plruAny ok 0 (2 ^ depth) then some (plruWalk ok depth bits 1 0) else none

end Sys2Proof.Machine
end

