-- ==== Sys2Proof/Machine/Flags.lean ====
section
/-!
DEFINITION. Machine/Flags.lean: measurands: their quality flags (R33, R34), the unit table (R35 to R41), the dimension
index (R38), the product cache (R46, R47), and the conversions of R42 to R46.
-/

namespace Sys2Proof.Machine

/-! ### The unit table -/

/-- Entry 0: NAMED, dimensionless, SCALE 1.0, OFFSET 0 (R37). -/
def unitZero : List Word := [0x4_0000_0000, 0x3FF0_0000_0000_0000, 0]

/-- An unlisted entry: entry 0 always exists, every other is undefined. -/
def unitDefault (u : Nat) : List Word := if u = 0 then unitZero else []

/-- The image of unit `u`; empty when undefined. -/
def unitOf (s : State) (u : Nat) : List Word := sparseGet unitDefault s.units u

def unitDefined (s : State) (u : Nat) : Bool := unitOf s u != []
def unitDim (s : State) (u : Nat) : Nat := bitsOf ((unitOf s u).getD 0 0) 31 0
def unitAffine (s : State) (u : Nat) : Bool := bitOf ((unitOf s u).getD 0 0) 32
def unitLog (s : State) (u : Nat) : Bool := bitOf ((unitOf s u).getD 0 0) 33
def unitScale (s : State) (u : Nat) : FV := fvOfFlo ((unitOf s u).getD 1 0)
/-- OFFSET counts only when the unit is AFFINE (R42). -/
def unitOffset (s : State) (u : Nat) : FV :=
  if unitAffine s u then fvOfFlo ((unitOf s u).getD 2 0) else .fin false 0 1

/-- An image marks its unit NAMED. -/
def imageNamed (img : List Word) : Bool := bitOf (img.getD 0 0) 34
def imageDim (img : List Word) : Nat := bitsOf (img.getD 0 0) 31 0

/-- The NAMED entries, entry 0 among them: pairs of index and DIM (the dimension index, R38). -/
def namedUnits (s : State) : List (Nat × Nat) :=
  (0, 0) :: (s.units.filter (fun p => p.1 != 0 && imageNamed p.2)).map (fun p => (p.1, imageDim p.2))

/-- The NAMED unit of a dimension. -/
def namedUnit (s : State) (dim : Nat) : Option Nat :=
  ((namedUnits s).find? (fun p => p.2 == dim)).map (fun p => p.1)

/-- The set of the dimension index a dimension lives in (R38). -/
def dimSet (dim : Nat) : Nat :=
  Nat.xor (Nat.xor (nbits dim 7 0) (nbits dim 15 8)) (Nat.xor (nbits dim 23 16) (nbits dim 31 24))

/-- Exponent `i` of a dimension vector (R36). -/
def dimExp (dim i : Nat) : Int := signedOf 4 (nbits dim (4 * i + 3) (4 * i))

/-- Base-by-base combination of two dimensions; none when an exponent leaves -8..+7 (R44). -/
def dimComb (f : Int → Int → Int) (a b : Nat) : Option Nat :=
  (List.range 8).foldl (fun acc i =>
    match acc with
    | none => none
    | some d =>
      let e := f (dimExp a i) (dimExp b i)
      if -8 ≤ e && e ≤ 7 then some (d + (e % 16).toNat * 2 ^ (4 * i)) else none) (some 0)

/-- Whether a binary64 payload is finite; and whether it is finite, positive and normal (R37). -/
def floFinite (w : Word) : Bool := bitsOf w 62 52 != 0x7FF
def floPosNormal (w : Word) : Bool := !bitOf w 63 && bitsOf w 62 52 != 0 && bitsOf w 62 52 != 0x7FF

/-- The rules of R37 that concern an image alone. DESIGN CHOICE (log): an OFFSET of minus zero counts as OFFSET 0. -/
def imageOk (img : List Word) : Bool :=
  let w0 := img.getD 0 0
  let sc := img.getD 1 0
  let off := img.getD 2 0
  bitsOf w0 63 35 == 0 && floPosNormal sc && floFinite off && !(bitOf w0 32 && bitOf w0 33) &&
  (!bitOf w0 34 || (sc == 0x3FF0_0000_0000_0000 && (off == 0 || off == 0x8000_0000_0000_0000)
    && !bitOf w0 32 && !bitOf w0 33)) &&
  (!bitOf w0 33 || (!bitOf off 63 && off != 0))

/-! ### The product cache (R46, R47) -/

/-- The set of a product-cache entry. -/
def productSet (op ua ub : Nat) : Nat := nbits (Nat.xor (Nat.xor ua ub) (op * 0x15)) 5 0

/-- The cached result unit and k of an operation. -/
def productFind (c : CoreState) (op ua ub : Nat) : Option ProductEntry :=
  c.products.find? (fun e => e.op == op && e.ua == ua && e.ub == ub)

/-- A hit or a fill: the set's replacement state points away from the way. -/
def productTouch (op ua ub unit : Nat) (k : Word) (c : CoreState) : CoreState :=
  let set := productSet op ua ub
  let bits := sparseGet (fun _ => 0) c.productLru set
  match productFind c op ua ub with
  | some e => { c with productLru := sparsePut (fun _ => 0) set (plruTouch 2 bits 1 e.way) c.productLru }
  | none =>
    let inSet (e : ProductEntry) : Bool := productSet e.op e.ua e.ub == set
    let way := (plruVictim 2 bits (fun _ => true)
      (fun w => c.products.any (fun e => inSet e && e.way == w))).getD 0
    { c with
      products := ⟨op, ua, ub, unit, k, way⟩ :: c.products.filter (fun e => !(inSet e && e.way == way))
      productLru := sparsePut (fun _ => 0) set (plruTouch 2 bits 1 way) c.productLru }

/-- Every product-cache entry that names a unit is invalidated, on every core (R39). -/
def productForget (u : Nat) (s : State) : State :=
  { s with cores := s.cores.map (fun p => (p.1, { p.2 with
      products := p.2.products.filter (fun e => e.ua != u && e.ub != u && e.unit != u) })) }

/-! ### Values and flags of measurands -/

/-- The unit index of a measurand payload (R31). -/
def measUnit (w : Word) : Nat := bitsOf w 11 0
/-- The quality flags of a measurand tag (R34). -/
def measFlags (t : Tag) : Nat := t.toNat % 32

/-- An operand of a measurand operation: value, unit, flags; a number is of unit 0 without flags, exact (R30). -/
structure MOp where
  val : FV
  unit : Nat
  flags : Nat
  meas : Bool
deriving DecidableEq, Repr

/-- FIX, FLO and Q32 are numbers (R30). -/
def isNumber (t : Tag) : Bool := t == tagFix || t == tagFlo || t == tagQ32

/-- The exact value of a number cell. -/
def numVal (c : Cell) : FV :=
  if c.tag = tagFix then fvOfFix c.data else if c.tag = tagFlo then fvOfFlo c.data else fvOfQ32 c.data

def mopOf (c : Cell) : MOp :=
  if isMeas c.tag then ⟨fvOfMeas c.data, measUnit c.data, measFlags c.tag, true⟩ else ⟨numVal c, 0, 0, false⟩

/-- The measurand cell of an exact result: rounded once to binary52, flags propagated, OVR (bit 0) added when an
infinite result came of finite operands (R33, R34). -/
def measCell (r : FV) (unit flags : Nat) (finiteOps : Bool) : Cell :=
  let bits := fvTo fmt52 r
  let ovr := finiteOps && (fvOf fmt52 bits).isInf
  ⟨tagMeasOf (if ovr && flags % 2 == 0 then flags + 1 else flags), w64 (bits * 2 ^ 12 + unit % 4096)⟩

def isFin : FV → Bool
  | .fin _ _ _ => true
  | _ => false

/-- The absolute value of v of unit u in the NAMED unit: round64(v * scale + offset) (R42, R44). -/
def toNamed (s : State) (v : FV) (u : Nat) : FV := fvRound fmt64 (fvAdd (fvMul v (unitScale s u)) (unitOffset s u))

/-- Conversion of v from unit u to unit w of the same DIM, neither LOG (R42). -/
def convVal (s : State) (v : FV) (u w : Nat) : FV :=
  if u = w then v else fvRound fmt64 (fvDiv (fvSub (toNamed s v u) (unitOffset s w)) (unitScale s w))

/-- Conversion by scale only: offsets are ignored (R43). -/
def convScale (s : State) (v : FV) (u w : Nat) : FV :=
  if u = w then v else
    fvRound fmt64 (fvDiv (fvRound fmt64 (fvMul v (unitScale s u))) (unitScale s w))

/-- UNIT_MISS and UNIT_MISMATCH with both unit indices (R48, R108). -/
def unitMiss (detail ua ub : Nat) (op : Option (Nat × Tag)) : Trap :=
  { vec := vUnitMiss, detail := detail, opnd := op, unitA := ua, unitB := ub }
def unitMismatch (detail ua ub : Nat) : Trap :=
  { vec := vUnitMismatch, detail := detail, unitA := ua, unitB := ub }

end Sys2Proof.Machine
end

