-- ==== Sys2Proof/Machine/Memory.lean ====
section
/-!
DEFINITION. Machine/Memory.lean: the physical map (R173), the larder's banks and interleave windows (R191, R194), the
subchannels of DDR (R199, R200), and reads and writes of one cell at the coherence point (R28, R175, R193, R442).
-/

namespace Sys2Proof.Machine

/-- What lies at a physical address (R173). -/
inductive Region where
  | ddr
  | larder (bank cell : Nat)
  | regs (off : Nat)
  | absent
deriving DecidableEq, Repr

/-- The base of the larder banks and of the interleave windows (R173). -/
@[reducible] def larderBase : Nat := 0xE0000000000
@[reducible] def windowBase : Nat := 0xE0100000000
@[reducible] def regBase : Nat := 0xF0000000000

/-- The bank and the cell a window address of cluster `c` names (R194). -/
def windowCell (key : Nat) (c o : Nat) : Nat × Nat :=
  let n := nbits o 20 6
  let v := nbits n 14 3
  let b0 := (nbits n 0 0 + parity (Nat.land v (nbits key 11 0))) % 2
  let b1 := (nbits n 1 1 + parity (Nat.land v (nbits key 23 12))) % 2
  let b2 := (nbits n 2 2 + parity (Nat.land v (nbits key 35 24))) % 2
  (8 * c + b0 + 2 * b1 + 4 * b2, 8 * v + nbits o 5 3)

/-- The region of a physical address. DDR at or above MEM_STAT.SIZE is absent. -/
def regionOf (s : State) (pa : Nat) : Region :=
  if pa < 0x4000000000 then
    (if pa < fget s fldMEM_STAT_SIZE 0 * 2 ^ 35 then .ddr else .absent)
  else if larderBase ≤ pa && pa < larderBase + 2 ^ 24 then
    .larder ((pa - larderBase) / 0x40000) ((pa - larderBase) % 0x40000 / 8)
  else if windowBase ≤ pa && pa < windowBase + 2 ^ 24 then
    let c := (pa - windowBase) / 0x200000
    let bc := windowCell (fget s fldLARD_HASH_KEY_KEY c) c ((pa - windowBase) % 0x200000)
    .larder bc.1 bc.2
  else if regBase ≤ pa && pa < regBase + 0x800000 then .regs (pa - regBase)
  else .absent

/-- The physical address of cell `i` of bank `b` (R191). -/
def bankAddr (b i : Nat) : Nat := larderBase + b * 0x40000 + 8 * i

/-- The address a cell is stored under: window addresses are those of the bank cell they name. -/
def canonPa (s : State) (pa : Nat) : Nat :=
  match regionOf s pa with
  | .larder b i => bankAddr b i + pa % 8
  | _ => pa

/-- The subchannel of a DDR address (R199), or in the balanced region (R200). -/
def subchannel (s : State) (pa : Nat) : Nat :=
  let gib := pa / 2 ^ 30
  let base := fget s fldMEM_BAL_BASE 0
  let size := fget s fldMEM_BAL_SIZE 0
  if base ≤ gib && gib < base + size then nbits pa 8 6
  else
    let key := (getReg s .MEM_HASH_KEY 0).toNat
    let u := nbits pa 29 9
    let s0 := (nbits pa 6 6 + parity (Nat.land u (nbits key 20 0))) % 2
    let s1 := (nbits pa 7 7 + parity (Nat.land u (nbits key 41 21))) % 2
    let s2 := (nbits pa 8 8 + parity (Nat.land u (nbits key 62 42))) % 2
    let sb := s0 + 2 * s1 + 4 * s2
    if nbits key 63 63 = 1 then
      Nat.xor (Nat.xor (Nat.xor sb (nbits pa 32 30)) (nbits pa 35 33)) (nbits pa 37 36)
    else sb

/-- The subchannel of a DDR line is retired (R442). -/
def subRetired (s : State) (pa : Nat) : Bool :=
  nbits (fget s fldMEM_STAT_SUBFAIL 0) (subchannel s pa) (subchannel s pa) == 1

/-- What an unlisted cell of memory reads as (R202, R193: VOID). -/
def memDefault (_ : Nat) : Cell := cellVoid

/-- The stored cell of a physical address. -/
def memCell (s : State) (pa : Nat) : Cell := sparseGet memDefault s.mem (cellKey (canonPa s pa))

/-- Stores a cell, whole. -/
def memPut (pa : Nat) (c : Cell) (s : State) : State :=
  { s with mem := sparsePut memDefault (cellKey (canonPa s pa)) c s.mem }

/-- A larder bank that is ON (R193). -/
def bankOn (s : State) (b : Nat) : Bool := fget s fldLARD_BANK_CTL_PST b == 0

/-- A line that some cache holds is served from there. -/
def heldInCache (s : State) (pa : Nat) : Bool := s.lines.any (fun e => e.line == pa / 64)

/-- A read of one cell at the coherence point: POISON with its origin where nothing answers (R28, R193, R442). -/
def physRead (s : State) (pa : Nat) : Cell :=
  match regionOf s pa with
  | .ddr => if subRetired s pa && !heldInCache s pa then poisonOf 0x02 pa else memCell s pa
  | .larder b _ => if bankOn s b then memCell s pa else poisonOf 0x05 pa
  | .regs _ => poisonOf 0x03 pa
  | .absent => poisonOf 0x03 pa

/-- A write of one cell at the coherence point; the origin kind where it fails (R110, R173, R193). A write to a retired
subchannel is discarded (R442). -/
def physWrite (pa : Nat) (c : Cell) (s : State) : Except Nat State :=
  match regionOf s pa with
  | .ddr => if subRetired s pa && !heldInCache s pa then .ok s else .ok (memPut pa c s)
  | .larder b _ => if bankOn s b then .ok (memPut pa c s) else .error 0x05
  | .regs _ => .error 0x03
  | .absent => .error 0x03

/-- `n` consecutive cells from a physical address. -/
def physCells (s : State) (pa n : Nat) : List Cell := (List.range n).map (fun i => physRead s (pa + 8 * i))

end Sys2Proof.Machine
end

