-- ==== Sys2Proof/Machine/Cache.lean ====
section
/-!
DEFINITION. Machine/Cache.lean: the caches (R172, R174, R175, R178, R181): which lines each holds, dirty lines, their
write-back, eviction, discard, and what a coherent write does to cached copies.
`State.mem` holds the value every agent reads. `State.under` holds, for a line of a cache that may differ from the level
below it, what lies there: a discard brings that value back, a write-back removes it.
-/

namespace Sys2Proof.Machine

/-- Numbers of the caches: L1I and L1D of a core, the L2 of a cluster, the SC (R172). -/
def l1iOf (k : Nat) : Nat := k
def l1dOf (k : Nat) : Nat := 64 + k
def l2Of (c : Nat) : Nat := 128 + c
@[reducible] def scCache : Nat := 136

/-- The cluster whose L2 includes a cache's lines; 8 for the SC. -/
def cacheCluster (c : Nat) : Nat := if c < 128 then c % 64 / 8 else if c < 136 then c - 128 else 8

def cacheSets (c : Nat) : Nat := if c < 128 then 128 else if c < 136 then 2048 else 32768
/-- The ways of a cache, as a power of two: its replacement tree's depth (R181). -/
def cacheDepth (c : Nat) : Nat := if c < 128 then 2 else 4
def cacheWays (c : Nat) : Nat := 2 ^ cacheDepth c

/-- A way that is locked (R186) or disabled (R189); the L1s have neither. -/
def wayLocked (s : State) (c w : Nat) : Bool :=
  if c < 128 then false
  else if c < 136 then nbits (fget s fldCLU_L2_WAYCTL_LOCK (c - 128)) w w == 1 && decide (w < 12)
  else nbits (fget s fldSC_WAYCTL_LOCK 0) w w == 1 && decide (w < 12)
def wayDis (s : State) (c w : Nat) : Bool :=
  if c < 128 then false
  else if c < 136 then nbits (fget s fldCLU_L2_WAYCTL_DIS (c - 128)) w w == 1
  else nbits (fget s fldSC_WAYCTL_DIS 0) w w == 1

/-- A cache that allocates: not DISABLED, PENDING behaves as enabled (R188), some way not disabled (R189). The L1s
allocate while their L2 does. -/
def cacheOn (s : State) (c : Nat) : Bool :=
  if c < 136 then
    let l2 := if c < 128 then 128 + cacheCluster c else c
    fget s fldCLU_L2_CTL_EN (l2 - 128) != 0 && fget s fldCLU_L2_WAYCTL_DIS (l2 - 128) != 0xFFFF
  else fget s fldSC_CTL_EN 0 != 0 && fget s fldSC_WAYCTL_DIS 0 != 0xFFFF

/-- A cache's entry for a line. -/
def cacheFind (s : State) (c line : Nat) : Option CacheLine :=
  s.lines.find? (fun e => e.cache == c && e.line == line)

def cacheHolds (s : State) (c line : Nat) : Bool := (cacheFind s c line).isSome

/-- A line in a locked way. -/
def heldLocked (s : State) (c line : Nat) : Bool :=
  match cacheFind s c line with
  | some e => wayLocked s c e.way
  | none => false

/-- A line some cache holds. -/
def lineCached (s : State) (line : Nat) : Bool := s.lines.any (fun e => e.line == line)

/-- The key of a line's lower value, and that value; [] for none. -/
def underKey (c line : Nat) : Nat := c * 2 ^ 38 + line
def underOf (s : State) (c line : Nat) : List Cell := sparseGet (fun _ => []) s.under (underKey c line)
def underSet (c line : Nat) (u : List Cell) (s : State) : State :=
  { s with under := sparsePut (fun _ => []) (underKey c line) u s.under }

/-- The cells of a line as every agent reads them. -/
def lineCells (s : State) (line : Nat) : List Cell :=
  (List.range 8).map (fun i => sparseGet memDefault s.mem (line * 8 + i))

/-- The cells of a line take values. -/
def lineRestore (line : Nat) (u : List Cell) (s : State) : State :=
  { s with mem := (List.range 8).foldl (fun m i => sparsePut memDefault (line * 8 + i) (u.getD i cellVoid) m) s.mem }

/-- The dirty mark of a cache's line. -/
def setDirty (c line : Nat) (d : Bool) (s : State) : State :=
  { s with lines := s.lines.map (fun e => if e.cache == c && e.line == line then { e with dirty := d } else e) }

/-- The level below a cache that holds a line: an L1D's L2, an L2's SC; none for memory. -/
def lowerCache (s : State) (c line : Nat) : Option Nat :=
  if c < 128 then (if cacheHolds s (128 + cacheCluster c) line then some (128 + cacheCluster c)
    else if cacheHolds s scCache line then some scCache else none)
  else if c < 136 then (if cacheHolds s scCache line then some scCache else none)
  else none

/-- Write-back of a dirty line (R178, R182): the level below takes it; the line stays, clean. -/
def cleanLine (c line : Nat) (s : State) : State :=
  match cacheFind s c line with
  | none => s
  | some e =>
    if !e.dirty then s
    else
      let u := underOf s c line
      let s1 := setDirty c line false (underSet c line [] s)
      match lowerCache s c line with
      | none => s1
      | some y => setDirty y line true (if underOf s1 y line = [] then underSet y line u s1 else s1)

/-- A line leaves a cache without a write-back: where it differed from the level below and no other cache shows its
contents, the value below returns. -/
def dropLine (c line : Nat) (s : State) : State :=
  if !cacheHolds s c line then s
  else
    let u := underOf s c line
    let s1 := underSet c line [] { s with lines := s.lines.filter (fun e => !(e.cache == c && e.line == line)) }
    if u = [] then s1
    else
      let shown := s1.lines.filter (fun e => e.line == line && decide (e.cache < 136))
      if c = scCache then
        if shown.isEmpty then lineRestore line u s1
        else (shown.filter (fun e => decide (128 ≤ e.cache))).foldl (fun t e => underSet e.cache line u t) s1
      else if (shown.filter (fun e => cacheCluster e.cache != cacheCluster c)).isEmpty then lineRestore line u s1
      else s1

/-- A line is written back and leaves a cache. -/
def recallLine (c line : Nat) (s : State) : State := dropLine c line (cleanLine c line s)

/-- The L1s of a cluster, by their number. -/
def l1sOf (cl : Nat) : List Nat :=
  (List.range 8).map (fun i => l1dOf (8 * cl + i)) ++ (List.range 8).map (fun i => l1iOf (8 * cl + i))

/-- A line leaves a cache with what inclusion requires: an L2 line takes its L1 copies with it (R172). `f` is
`recallLine` (write back) or `dropLine` (discard). -/
def leaveLine (f : Nat → Nat → State → State) (c line : Nat) (s : State) : State :=
  if 128 ≤ c && c < 136 then f c line ((l1sOf (c - 128)).foldl (fun t x => f x line t) s) else f c line s

/-- The set of a line and the state of its replacement tree. -/
def setIndex (c line : Nat) : Nat := line % cacheSets c
def plruKey (c line : Nat) : Nat := c * 65536 + setIndex c line

/-- A hit or a fill touches the way (R181). -/
def touchWay (c line w : Nat) (s : State) : State :=
  let bits := plruTouch (cacheDepth c) (sparseGet (fun _ => 0) s.plru (plruKey c line)) 1 w
  { s with plru := sparsePut (fun _ => 0) (plruKey c line) bits s.plru }

def touchLine (c line : Nat) (s : State) : State :=
  match cacheFind s c line with
  | some e => touchWay c line e.way s
  | none => s

/-- The line in a slot. -/
def slotLine (s : State) (c set w : Nat) : Option CacheLine :=
  s.lines.find? (fun e => e.cache == c && e.set == set && e.way == w)

/-- A line takes a slot, whose previous line leaves first. -/
def placeLine (c line w : Nat) (s : State) : State :=
  let s1 := match slotLine s c (setIndex c line) w with
    | some e => leaveLine recallLine c e.line s
    | none => s
  touchWay c line w { s1 with lines := s1.lines ++ [⟨c, setIndex c line, w, line, false⟩] }

/-- A fill of an ordinary way (R181); nothing happens where every way is locked or disabled, or the cache is off. -/
def allocLine (c line : Nat) (s : State) : State :=
  if cacheHolds s c line then touchLine c line s
  else if !cacheOn s c then s
  else
    match plruVictim (cacheDepth c) (sparseGet (fun _ => 0) s.plru (plruKey c line))
        (fun w => !wayLocked s c w && !wayDis s c w) (fun w => (slotLine s c (setIndex c line) w).isSome) with
    | none => s
    | some w => placeLine c line w s

/-- The fill of the SC unless NSC, and of core `k`'s L2 unless NL2 (R174). -/
def fillLower (k line : Nat) (nl2 nsc : Bool) (s : State) : State :=
  let s1 := if nsc then s else allocLine scCache line s
  if nl2 then s1 else allocLine (l2Of (k / 8)) line s1

/-- The fill of a miss by core `k` (R174, R180): the SC and the L2, and the L1 named, which only holds what its L2 holds. -/
def fillFor (k l1 line : Nat) (nl2 nsc : Bool) (s : State) : State :=
  let s1 := fillLower k line nl2 nsc s
  if !nl2 && cacheHolds s1 (l2Of (k / 8)) line then allocLine l1 line s1 else s1

/-- A coherent read by core `k`: dirty copies in other L1Ds leave, dirty copies in other L2s are written back (R175,
R178). -/
def snoopRead (k line : Nat) (s : State) : State :=
  s.lines.foldl (fun t e =>
    if e.line == line && e.dirty && e.cache != l1dOf k then
      (if e.cache < 128 then recallLine e.cache line t
       else if e.cache < 136 && e.cache != l2Of (k / 8) then cleanLine e.cache line t else t)
    else t) s

/-- The caches a coherent write empties: every L1 and L2 copy that `keep` does not name, L1s first (R175). -/
def snoopWrite (keep : Nat → Bool) (line : Nat) (s : State) : State :=
  let held := s.lines.filter (fun e => e.line == line && decide (e.cache < 136) && !keep e.cache)
  let s1 := (held.filter (fun e => decide (e.cache < 128))).foldl (fun t e => recallLine e.cache line t) s
  (held.filter (fun e => decide (128 ≤ e.cache))).foldl (fun t e => recallLine e.cache line t) s1

/-- A line becomes dirty in a cache, before its contents change. -/
def dirtyLine (c line : Nat) (s : State) : State :=
  if cacheHolds s c line then
    setDirty c line true (if underOf s c line = [] then underSet c line (lineCells s line) s else s)
  else s

/-- What a write at the coherence point does to a cached line (R174, R175, R181): copies in the L1s and L2s leave and an SC
copy is hit and becomes dirty. A line locked in the writer's own L2 (`own`) stays there and takes the write (R186). -/
def exposeLine (own : Option Nat) (line : Nat) (s : State) : State :=
  match own.filter (fun c => heldLocked s c line) with
  | some c => touchLine c line (dirtyLine c line (snoopWrite (fun x => x == c) line s))
  | none => touchLine scCache line (dirtyLine scCache line (snoopWrite (fun _ => false) line s))

/-- A whole-cell write at the coherence point (R174, R175) by a core of the cluster whose L2 is `own`, or by another agent; the
origin kind where the write fails. -/
def cohWriteBy (own : Option Nat) (pa : Nat) (c : Cell) (s : State) : Except Nat State :=
  let line := canonPa s pa / 64
  if lineCached s line then physWrite pa c (exposeLine own line s) else physWrite pa c s

/-- A whole-cell write at the coherence point by an engine, the dispatcher or the host. -/
def cohWrite (pa : Nat) (c : Cell) (s : State) : Except Nat State := cohWriteBy none pa c s

/-- A dirty line is written back and leaves a cache; memory already shows its contents. -/
def yieldLine (c line : Nat) (s : State) : State :=
  let s1 := cleanLine c line s
  { s1 with lines := s1.lines.filter (fun e => !(e.cache == c && e.line == line)) }

/-- What a read of a line by an engine, the host, LAUNDRY or a walk does to the caches (R175, R178, R181): dirty copies leave
the L1Ds, and an SC copy is hit. -/
def agentRead (line : Nat) (s : State) : State :=
  if lineCached s line then
    touchLine scCache line (s.lines.foldl (fun t e =>
      if e.line == line && e.dirty && decide (e.cache < 128) then yieldLine e.cache line t else t) s)
  else s

/-- The same for `n` bytes from a physical address. -/
def seenBytes (pa n : Nat) (s : State) : State :=
  (s.lines.filter (fun e => decide (pa / 64 ≤ e.line) && decide (e.line * 64 < pa + n))).foldl (fun t e => agentRead e.line t) s

/-- Engine and dispatcher writes: a write that fails is dropped. -/
def cohPut (pa : Nat) (c : Cell) (s : State) : State :=
  match cohWrite pa c s with
  | .ok s' => s'
  | .error _ => s

/-- Writes consecutive cells from a physical address, in order. -/
def cohPuts : Nat → List Cell → State → State
  | _, [], s => s
  | pa, c :: cs, s => cohPuts (pa + 8) cs (cohPut pa c s)

/-! ### Resets (R190) -/

/-- Every line of the caches that `pick` selects is written back and leaves, cores first. -/
def cleanCaches (pick : Nat → Bool) (s : State) : State :=
  let s1 := (s.lines.filter (fun e => pick e.cache && decide (e.cache < 128))).foldl
    (fun t e => recallLine e.cache e.line t) s
  (s1.lines.filter (fun e => pick e.cache)).foldl (fun t e => leaveLine recallLine e.cache e.line t) s1

end Sys2Proof.Machine
end

