-- ==== Sys2Proof/Machine/FaultLog.lean ====
section
/-!
DEFINITION. Machine/FaultLog.lean: fault records (R444), the counting of events in time windows (R437) and their
declaration (R438), shared by every unit that finds an error (19_fault_handling.md).
-/

namespace Sys2Proof.Machine

/-- Device time in milliseconds. -/
def dtMs (s : State) : Nat := s.dtime * 1000 / 2 ^ 64

/-- The size of a ring of 2^n entries: `n` within [lo, hi], else the value other settings act as. -/
def ringLog (n lo hi other : Nat) : Nat := if lo ≤ n && n ≤ hi then n else other

/-- A fault record (R444). -/
structure FaultRec where
  kind : Nat
  origin : Nat
  unit : Nat
  act : Nat
  cls : Nat
  detail : Nat
  pa : Nat
  sum : Nat
deriving DecidableEq, Repr

/-- The four cells of a fault record (R444). -/
def faultCells (s : State) (r : FaultRec) : List Cell :=
  [cellRaw (w64 (r.kind % 256 + r.origin % 256 * 2 ^ 8 + r.unit % 512 * 2 ^ 16 + r.act % 8 * 2 ^ 25 +
      r.cls % 16 * 2 ^ 28 + r.detail % 2 ^ 32 * 2 ^ 32)),
   ⟨tagPhase15, dtNow s⟩, cellRaw (w64 r.pa), cellRaw (w64 (r.sum % 65536))]

/-- Writes a fault record to the log ring; a full or disabled ring counts it in FLT_LOST (R444). -/
def logFault (r : FaultRec) (s : State) : State :=
  let n := ringLog (fget s fldFLT_LOGB_LOG2N 0) 4 14 8
  let p := fget s fldFLT_LOGP_P 0
  let c := fget s fldFLT_LOGC_C 0
  let used := (p + 65536 - c) % 65536
  let s1 :=
    if !fbit s fldFLT_LOGB_EN 0 || 2 ^ n ≤ used then countUp .FLT_LOST 0 1 s
    else
      let base := fget s fldFLT_LOGB_BASE 0 * 512
      let t := fset fldFLT_LOGP_P 0 ((p + 1) % 65536) (cohPuts (base + 32 * (p % 2 ^ n)) (faultCells s r) s)
      if used = 0 then raiseKeeper 0x14 t else t
  if r.kind = 7 then raiseKeeper 0x16 s1 else s1

/-- The buckets of a unit after one event at bucket `b`: only the present bucket and the 15 before it are kept. -/
def bucketAdd (b : Nat) (l : List (Nat × Nat)) : List (Nat × Nat) :=
  let keep := l.filter (fun p => b < p.1 + 16)
  match keep with
  | (x, n) :: rest => if x = b then (x, n + 1) :: rest else (b, 1) :: keep
  | [] => [(b, 1)]

/-- The sum S of a unit's buckets. -/
def bucketSum (l : List (Nat × Nat)) : Nat := l.foldl (fun a p => a + p.2) 0

/-- The actions a class takes (R439); another ACT acts as NOTIFY. -/
def classTakes (cls act : Nat) : Bool :=
  match cls with
  | 0 => act == 6
  | 1 => act == 1
  | 2 => act == 1
  | 3 => act == 4
  | 4 => act == 3
  | 5 => act == 2
  | 6 => act == 5
  | _ => false

/-- The present bucket of a class. -/
def bucketNow (s : State) (cls : Nat) : Nat := dtMs s / max 1 (fget s fldFLT_CLS_CFG_BUCKET cls)

/-- A declaration (R438): event 0x15, the LASTING record, the declaration count, and the class's action under way. -/
def declare (cls unit row pa sum : Nat) (s : State) : State :=
  let act0 := fget s fldFLT_CLS_CFG_ACT cls
  let act := if classTakes cls act0 then act0 else 0
  let s1 := raiseKeeper 0x15 (logFault ⟨3, 0, unit, act, cls, row, pa, sum⟩ s)
  let s2 := if cls = 4 then s1 else
    fset fldFLT_WSUM_ACTING unit 1 (countSat fldFLT_CNT_DECLARED unit 1 s1)
  { s2 with faultActs := s2.faultActs ++ [⟨cls, unit, act, row, pa⟩] }

/-- One event of a class and unit is counted (R437, R438): FLT_CNT always, the buckets unless an action runs, and a
declaration when S > TH, or at once for an uncorrectable event with UCI = 1. -/
def countFault (cls unit : Nat) (uncorr : Bool) (row pa : Nat) (s : State) : State :=
  let s1 := countSat (if uncorr then fldFLT_CNT_UNCORRECTABLE else fldFLT_CNT_CORRECTED) unit 1 s
  if fbit s1 fldFLT_WSUM_ACTING unit then s1
  else
    let l := bucketAdd (bucketNow s1 cls) (sparseGet (fun _ => []) s1.buckets unit)
    let sum := bucketSum l
    let s2 := fset fldFLT_WSUM_S unit (min sum 65535) { s1 with buckets := sparsePut (fun _ => []) unit l s1.buckets }
    if fbit s2 fldFLT_CLS_CFG_EN cls &&
        (decide (fget s2 fldFLT_CLS_CFG_TH cls < sum) || (uncorr && fbit s2 fldFLT_CLS_CFG_UCI cls)) then
      declare cls unit row pa sum s2
    else s2

/-- S of a unit once one more event is counted; unchanged while its action runs (R437, R438). -/
def sumNext (s : State) (cls unit : Nat) : Nat :=
  if fbit s fldFLT_WSUM_ACTING unit then fget s fldFLT_WSUM_S unit
  else bucketSum (bucketAdd (bucketNow s cls) (sparseGet (fun _ => []) s.buckets unit))

/-- The record of an event: UNCORRECTED, or CORRECTED where LOGCE asks for it (R444). -/
def logEvent (cls unit origin detail pa : Nat) (uncorr : Bool) (s : State) : State :=
  if uncorr then logFault ⟨2, origin, unit, 0, cls, detail, pa, sumNext s cls unit⟩ s
  else if fbit s fldFLT_CLS_CFG_LOGCE cls then logFault ⟨1, origin, unit, 0, cls, detail, pa, sumNext s cls unit⟩ s
  else s

/-- An event of a class: its record, then its count, which may declare it lasting. -/
def faultEvent (cls unit origin detail pa : Nat) (uncorr : Bool) (s : State) : State :=
  countFault cls unit uncorr detail pa (logEvent cls unit origin detail pa uncorr s)

/-- One DDR event in the page tracker of R441. -/
def countPage (uncorr : Bool) (pa : Nat) (s : State) : State :=
  let page := pa / 4096
  if s.faultActs.any (fun a => a.cls == 4 && a.pa / 4096 == page) then s
  else
    let old := match s.pages.find? (fun t => t.page == page) with
      | some t => t.buckets
      | none => []
    let l := bucketAdd (bucketNow s 4) old
    let s1 := { s with pages := (⟨page, l⟩ :: s.pages.filter (fun t => t.page != page)).take 64 }
    if fbit s1 fldFLT_CLS_CFG_EN 4 &&
        (decide (fget s1 fldFLT_CLS_CFG_TH 4 < bucketSum l) || (uncorr && fbit s1 fldFLT_CLS_CFG_UCI 4)) then
      declare 4 0 0 (page * 4096) (bucketSum l) s1
    else s1

end Sys2Proof.Machine
end

