-- ==== Sys2Proof/Machine/Translate.lean ====
section
/-!
DEFINITION. Machine/Translate.lean: address translation (07_translation.md): entry formats (R154, R155), the walk
(R156, R157) through the walk caches, permissions (R158), memory kinds (R159), the TLBs (R161) and syndromes (R169).
A translation uses a TLB entry when one matches and else the tables; TABLE_WALK and XPROBE fill the structures.
-/

namespace Sys2Proof.Machine

/-- A translation fault: KIND, LEVEL, STAGE, S1WALK, KSPACE of R169, the tag seen by WALK_TAG, and the IPA whose
stage-2 translation failed. -/
structure XFault where
  kind : Nat
  level : Nat
  stage2 : Bool
  s1walk : Bool
  kspace : Bool
  seen : Option Tag
  ipa : Nat
deriving DecidableEq, Repr

@[reducible] def xTranslation : Nat := 1
@[reducible] def xPermission : Nat := 2
@[reducible] def xWalkDevice : Nat := 3
@[reducible] def xWalkTag : Nat := 4
@[reducible] def xAddrSize : Nat := 5
@[reducible] def xWalkPoison : Nat := 6

def accWrites : Access → Bool
  | .load => false
  | .store => true
  | .cas => true
  | .fetch => false

/-- The 10-bit syndrome of R169. -/
def syndrome (f : XFault) (acc : Access) : Nat :=
  f.kind + f.level * 16 + f.stage2.toNat * 64 + f.s1walk.toNat * 128 + (accWrites acc).toNat * 256 +
    f.kspace.toNat * 512

/-- The trap of a translation fault (R107, R108, R169). -/
def xTrap (f : XFault) (acc : Access) (va : Word) : Trap :=
  let vec := match acc with
    | .fetch => if f.stage2 then vFetchS2 else vFetchS1
    | _ => if f.stage2 then vDataS2 else vDataS1
  { vec := vec, detail := syndrome f acc, seen := f.seen, addr := some va }

/-- The base-2 logarithm of what an entry of a level maps (R153). -/
def lvlShift (lvl : Nat) : Nat := 39 - 9 * lvl

/-- Fields of an entry (R154, R155). -/
def entV (e : Word) : Bool := bitOf e 0
def entTp (e : Word) : Bool := bitOf e 1
def entOa (e : Word) : Nat := bitsOf e 47 12 * 4096
def entBig (e : Word) : Bool := bitsOf e 47 44 != 0
def entCont (e : Word) : Bool := bitOf e 11

/-- One read of a table entry (R157): the failing KIND and tag, or the entry. -/
def readEntry (s : State) (pa : Nat) : Except (Nat × Option Tag) Word :=
  match regionOf s pa with
  | .regs _ => .error (xWalkDevice, none)
  | .absent => .error (xWalkDevice, none)
  | _ =>
    let c := physRead s pa
    if c.tag = tagPoison then .error (xWalkPoison, none)
    else if c.tag = tagRaw64 then .ok c.data
    else .error (xWalkTag, some c.tag)

/-- A walk-cache entry of a level that covers an address. -/
def walkHit (w : List WalkEntry) (sp : Space) (asid lvl a : Nat) : Option Word :=
  (w.find? (fun e => e.space == sp && e.asid == asid && e.level == lvl && e.pre == a / 2 ^ lvlShift lvl)).map
    (fun e => e.entry)

/-- The result of stage 2: PA, leaf entry, its level. With stage 2 off the IPA is the PA, of kind WBC with every
permission, and there is no leaf (R152). -/
structure Leaf where
  out : Nat
  entry : Word
  level : Nat
  used : List (Nat × Word)
deriving DecidableEq, Repr

/-- The four levels of a table walk from a physical table base, with entry addresses used as PAs: stage 2 and K-space.
`used` collects the entries of levels 0 to 2 read on the way. -/
def walkPhys (s : State) (cache : Nat → Option Word) (a : Nat) (fail : Nat → Nat → Option Tag → XFault) :
    Nat → Nat → Nat → List (Nat × Word) → Except XFault Leaf
  | 0, lvl, _, _ => .error (fail lvl xTranslation none)
  | fuel + 1, lvl, table, used =>
    let got : Except (Nat × Option Tag) Word := match cache lvl with
      | some e => .ok e
      | none => readEntry s (table + 8 * (a / 2 ^ lvlShift lvl % 512))
    match got with
    | .error (k, t) => .error (fail lvl k t)
    | .ok e =>
      if !entV e then .error (fail lvl xTranslation none)
      else if entBig e then .error (fail lvl xAddrSize none)
      else if entTp e && lvl < 3 then
        walkPhys s cache a fail fuel (lvl + 1) (entOa e) (used ++ [(lvl, e)])
      else if lvl = 0 || entTp e then .error (fail lvl xTranslation none)
      else
        .ok ⟨entOa e / 2 ^ lvlShift lvl * 2 ^ lvlShift lvl + a % 2 ^ lvlShift lvl, e, lvl,
          if lvl < 3 then used ++ [(lvl, e)] else used⟩

/-- Stage 2 is in force on a core: S2EN, or the core is assigned (S2TTB, R152). -/
def s2On (s : State) (k : Nat) : Bool := bitOf (getCore s k).s2ttb 0 || (partOf s k).isSome

/-- A stage-2 leaf as stage 2 off gives it: KIND WBC, R, W, X. -/
def s2OffLeaf : Word := 0x7C

/-- The level of the deepest entry a walk cache holds for an address, where the walk begins; 0 where it holds none (R156). -/
def walkStart (w : List WalkEntry) (sp : Space) (asid a : Nat) : Nat :=
  if (walkHit w sp asid 2 a).isSome then 2 else if (walkHit w sp asid 1 a).isSome then 1 else 0

/-- Stage 2 of an IPA through a table base for partition space `sp`, without permission checks. -/
def stage2Walk (s : State) (sp : Space) (w : List WalkEntry) (base ipa : Nat) (s1walk : Bool) : Except XFault Leaf :=
  let lvl := walkStart w sp 0 ipa
  walkPhys s (fun lvl => walkHit w sp 0 lvl ipa) ipa
    (fun lvl k t => ⟨k, lvl, true, s1walk, false, t, ipa⟩) (4 - lvl) lvl base []

/-- Permission bits of a stage-2 or K-space leaf (R155, R158). -/
def perm2 (e : Word) : Access → Bool
  | .load => bitOf e 4
  | .store => bitOf e 5
  | .cas => bitOf e 4 && bitOf e 5
  | .fetch => bitOf e 6

/-- Permission bits of a stage-1 leaf at level T (0) or S (R154, R158). -/
def perm1 (e : Word) (pl : Nat) : Access → Bool
  | .load => pl != 0 || bitOf e 5
  | .store => if pl = 0 then bitOf e 6 else bitOf e 8
  | .cas => if pl = 0 then bitOf e 5 && bitOf e 6 else bitOf e 8
  | .fetch => if pl = 0 then bitOf e 7 else bitOf e 9

def kind2 (e : Word) : Nat := bitsOf e 3 2

/-- The IPA of a stage-1 table or output through stage 2 of a core, with the permission of `acc` checked. -/
def coreStage2 (s : State) (k ipa : Nat) (acc : Access) (s1walk : Bool) : Except XFault Leaf :=
  if s2On s k then
    let c := getCore s k
    let sp := match partOf s k with
      | some p => Space.part p
      | none => Space.unassigned
    match stage2Walk s sp c.walk2 (bitsOf c.s2ttb 43 12 * 4096) ipa s1walk with
    | .error f => .error f
    | .ok l =>
      if perm2 l.entry acc then .ok l
      else .error ⟨xPermission, l.level, true, s1walk, false, none, ipa⟩
  else .ok ⟨ipa, s2OffLeaf, 0, []⟩

/-- The space of a core's lower half (R161). -/
def coreSpace (s : State) (k : Nat) : Space :=
  match partOf s k with
  | some p => .part p
  | none => .unassigned

/-- The stage-1 walk of a core: table addresses are IPAs, each translated by stage 2 (R156). -/
def walkStage1 (s : State) (k : Nat) (va : Nat) :
    Nat → Nat → Nat → List (Nat × Word) → Except XFault Leaf
  | 0, lvl, _, _ => .error ⟨xTranslation, lvl, false, false, false, none, 0⟩
  | fuel + 1, lvl, table, used =>
    let c := getCore s k
    let fail (kd : Nat) (t : Option Tag) : XFault := ⟨kd, lvl, false, false, false, t, 0⟩
    let got : Except XFault Word :=
      match walkHit c.walk1 (coreSpace s k) (bitsOf c.front.s1ttb 63 48) lvl va with
      | some e => .ok e
      | none =>
        match coreStage2 s k (table + 8 * (va / 2 ^ lvlShift lvl % 512)) .load true with
        | .error f => .error f
        | .ok l =>
          if s2On s k && kind2 l.entry = 0 then .error (fail xWalkDevice none)
          else match readEntry s l.out with
            | .error (kd, t) => .error (fail kd t)
            | .ok e => .ok e
    match got with
    | .error f => .error f
    | .ok e =>
      if !entV e then .error (fail xTranslation none)
      else if entBig e then .error (fail xAddrSize none)
      else if entTp e && lvl < 3 then walkStage1 s k va fuel (lvl + 1) (entOa e) (used ++ [(lvl, e)])
      else if lvl = 0 || entTp e then .error (fail xTranslation none)
      else .ok ⟨entOa e / 2 ^ lvlShift lvl * 2 ^ lvlShift lvl + va % 2 ^ lvlShift lvl, e, lvl, used⟩

/-- Stage 1 of a virtual address in the lower half. -/
def coreStage1 (s : State) (k : Nat) (va : Nat) : Except XFault Leaf :=
  let c := getCore s k
  let lvl := walkStart c.walk1 (coreSpace s k) (bitsOf c.front.s1ttb 63 48) va
  walkStage1 s k va (4 - lvl) lvl (bitsOf c.front.s1ttb 43 12 * 4096) []

/-- The K-space walk through GLB_KTTB (R151, R155). -/
def kspaceWalk (s : State) (k : Nat) (va : Nat) : Except XFault Leaf :=
  if !fbit s fldGLB_KTTB_EN 0 || va / 2 ^ 47 % 2 = 0 then
    .error ⟨xTranslation, 0, false, false, true, none, 0⟩
  else
    let c := getCore s k
    let lvl := walkStart c.walk1 .kernel 0 va
    walkPhys s (fun lvl => walkHit c.walk1 .kernel 0 lvl va) va
      (fun lvl kd t => ⟨kd, lvl, false, false, true, t, 0⟩) (4 - lvl) lvl (fget s fldGLB_KTTB_BASE 0 * 4096) []

/-- A resolved translation: PA, kind (0 DEV, 1 UNC, 2 WTM, 3 WBC), NL2, NSC (R159). -/
structure Xl where
  pa : Nat
  kind : Nat
  nl2 : Bool
  nsc : Bool
deriving DecidableEq, Repr

/-- Kind, NL2 and NSC of an ATTRPAL slot (R159). -/
def palKind (pal : Word) (i : Nat) : Nat := bitsOf pal (8 * i + 1) (8 * i)
def palNl2 (pal : Word) (i : Nat) : Bool := bitOf pal (8 * i + 2)
def palNsc (pal : Word) (i : Nat) : Bool := bitOf pal (8 * i + 3)

/-- The kind an access has at its place (R174): the register region acts as DEV, the larder as UNC or DEV. -/
def placedKind (s : State) (pa kind : Nat) : Nat :=
  match regionOf s pa with
  | .regs _ => 0
  | .larder _ _ => if kind = 0 then 0 else 1
  | _ => kind

/-- The fetch rule of R158: no fetch of combined kind DEV or from the register region. -/
def fetchDev (s : State) (pa kind : Nat) : Bool :=
  kind == 0 || (match regionOf s pa with
    | .regs _ => true
    | _ => false)

/-- Permissions and kind of a lower-half leaf pair (R158, R159). -/
def combine (s : State) (k pl : Nat) (acc : Access) (leaf1 : Word) (lvl1 : Nat) (leaf2 : Word) (lvl2 pa : Nat) :
    Except XFault Xl :=
  let pal := (front s k).attrpal
  let ai := bitsOf leaf1 4 2
  let kd := min (palKind pal ai) (kind2 leaf2)
  if !perm1 leaf1 pl acc then .error ⟨xPermission, lvl1, false, false, false, none, 0⟩
  else if !perm2 leaf2 acc then .error ⟨xPermission, lvl2, true, false, false, none, 0⟩
  else if acc = .fetch && fetchDev s pa kd then
    let atS2 := s2On s k && (kind2 leaf2 == 0 || (match regionOf s pa with
      | .regs _ => true
      | _ => false))
    .error ⟨xPermission, if atS2 then lvl2 else lvl1, atS2, false, false, none, 0⟩
  else .ok ⟨pa, kd, palNl2 pal ai, palNsc pal ai⟩

/-- A TLB entry that covers an address. -/
def tlbHit (t : List TlbEntry) (sp : Space) (asid va : Nat) : Option TlbEntry :=
  t.find? (fun e => e.space == sp && (e.global || e.asid == asid) && e.va == va / 2 ^ e.size)

/-- The entries an access looks up: the L1 TLB of the access, then the L2 TLB. -/
def tlbsFor (c : CoreState) (acc : Access) : List TlbEntry :=
  (if acc = .fetch then c.itlb else c.dtlb) ++ c.l2tlb

/-- Translation of a 64-bit address for an access at level `pl` (R151, R156). -/
def translate (s : State) (k pl : Nat) (acc : Access) (va : Word) : Except XFault Xl :=
  let c := getCore s k
  let a := va.toNat
  if mbOf c.front && acc != .fetch && bitsOf c.dfsp 43 12 == a / 4096 then
    .ok ⟨a % 2 ^ 44, 1, false, false⟩
  else if bitsOf va 63 48 != 0 then .error ⟨xAddrSize, 0, false, false, false, none, 0⟩
  else if pl = 2 && bitOf va 47 then
    match tlbHit (tlbsFor c acc) .kernel 0 a with
    | some e =>
      let pa := e.pa * 2 ^ e.size + a % 2 ^ e.size
      if !perm2 (w64 e.leaf2) acc || (acc = .fetch && fetchDev s pa (kind2 (w64 e.leaf2))) then
        .error ⟨xPermission, e.level2, false, false, true, none, 0⟩
      else .ok ⟨pa, kind2 (w64 e.leaf2), false, false⟩
    | none =>
      match kspaceWalk s k a with
      | .error f => .error f
      | .ok l =>
        if !perm2 l.entry acc || (acc = .fetch && fetchDev s l.out (kind2 l.entry)) then
          .error ⟨xPermission, l.level, false, false, true, none, 0⟩
        else .ok ⟨l.out, kind2 l.entry, false, false⟩
  else
    match tlbHit (tlbsFor c acc) (coreSpace s k) (bitsOf c.front.s1ttb 63 48) a with
    | some e => combine s k pl acc (w64 e.leaf1) e.level1 (w64 e.leaf2) e.level2 (e.pa * 2 ^ e.size + a % 2 ^ e.size)
    | none =>
      match coreStage1 s k a with
      | .error f => .error f
      | .ok l1 =>
        if !perm1 l1.entry pl acc then .error ⟨xPermission, l1.level, false, false, false, none, 0⟩
        else
          match coreStage2 s k l1.out acc false with
          | .error f => .error f
          | .ok l2 => combine s k pl acc l1.entry l1.level l2.entry l2.level l2.out

/-! ### Filling and use (R161) -/

/-- The slot a new entry takes among `cap` of 2^depth slots, and the tree after it. -/
def slotFor (depth cap bits : Nat) (used : Nat → Bool) : Nat × Nat :=
  let w := (plruVictim depth bits (fun w => decide (w < cap)) used).getD 0
  (w, plruTouch depth bits 1 w)

/-- The space and ASID under which a core looks up an address at a level. -/
def lookupKey (s : State) (k pl : Nat) (va : Word) : Space × Nat :=
  if pl = 2 && bitOf va 47 then (.kernel, 0) else (coreSpace s k, bitsOf (front s k).s1ttb 63 48)

/-- The set of the L2 TLB (R161). -/
def l2TlbSet (e : TlbEntry) : Nat :=
  let low := if e.size < 21 then 12 else if e.size < 30 then 21 else 30
  e.va * 2 ^ e.size / 2 ^ low % 256

/-- An entry goes into the ITLB (fetch) or the DTLB. -/
def l1TlbFill (acc : Access) (e : TlbEntry) (c : CoreState) : CoreState :=
  let fetch := acc == .fetch
  let key := if fetch then 0 else 1
  let depth := if fetch then 5 else 6
  let cap := if fetch then 32 else 48
  let l := if fetch then c.itlb else c.dtlb
  let f := slotFor depth cap (sparseGet (fun _ => 0) c.tlbLru key) (fun w => l.any (fun x => x.slot == w))
  let l' := { e with slot := f.1 } :: l.filter (fun x => x.slot != f.1)
  { c with
    itlb := if fetch then l' else c.itlb
    dtlb := if fetch then c.dtlb else l'
    tlbLru := sparsePut (fun _ => 0) key f.2 c.tlbLru }

/-- An entry goes into the L2 TLB. -/
def l2TlbFill (e : TlbEntry) (c : CoreState) : CoreState :=
  let set := l2TlbSet e
  let f := slotFor 3 8 (sparseGet (fun _ => 0) c.tlbLru (16 + set))
    (fun w => c.l2tlb.any (fun x => x.slot == w && l2TlbSet x == set))
  { c with
    l2tlb := { e with slot := f.1 } :: c.l2tlb.filter (fun x => !(x.slot == f.1 && l2TlbSet x == set))
    tlbLru := sparsePut (fun _ => 0) (16 + set) f.2 c.tlbLru }

/-- A table entry goes into a walk cache: the stage-1 cache (`two` = false) or the stage-2 cache. -/
def walkFill (two : Bool) (e : WalkEntry) (c : CoreState) : CoreState :=
  let key := if two then 3 else 2
  let depth := if two then 5 else 6
  let l := if two then c.walk2 else c.walk1
  let bits := sparseGet (fun _ => 0) c.tlbLru key
  match l.find? (fun x => x.space == e.space && x.asid == e.asid && x.level == e.level && x.pre == e.pre) with
  | some x => { c with tlbLru := sparsePut (fun _ => 0) key (plruTouch depth bits 1 x.slot) c.tlbLru }
  | none =>
    let f := slotFor depth (2 ^ depth) bits (fun w => l.any (fun x => x.slot == w))
    let l' := { e with slot := f.1 } :: l.filter (fun x => x.slot != f.1)
    { c with
      walk1 := if two then c.walk1 else l'
      walk2 := if two then l' else c.walk2
      tlbLru := sparsePut (fun _ => 0) key f.2 c.tlbLru }

/-- What an access that a TLB answers does to the TLBs: the way is touched; an L2 TLB hit fills the L1 TLB. -/
def tlbUse (k pl : Nat) (acc : Access) (va : Word) (s : State) : State :=
  let q := lookupKey s k pl va
  modCore k (fun c =>
    let l := if acc = .fetch then c.itlb else c.dtlb
    let key := if acc = .fetch then 0 else 1
    let depth := if acc = .fetch then 5 else 6
    match tlbHit l q.1 q.2 va.toNat with
    | some e =>
      { c with tlbLru := sparsePut (fun _ => 0) key
                (plruTouch depth (sparseGet (fun _ => 0) c.tlbLru key) 1 e.slot) c.tlbLru }
    | none =>
      match tlbHit c.l2tlb q.1 q.2 va.toNat with
      | some e =>
        let key2 := 16 + l2TlbSet e
        let bits := plruTouch 3 (sparseGet (fun _ => 0) c.tlbLru key2) 1 e.slot
        l1TlbFill acc e { c with tlbLru := sparsePut (fun _ => 0) key2 bits c.tlbLru }
      | none => c) s

/-- Translation of an access that is performed: as `translate`, with the TLBs it used. -/
def xlate (k pl : Nat) (acc : Access) (va : Word) (s : State) : Except XFault (Xl × State) :=
  match translate s k pl acc va with
  | .error f => .error f
  | .ok x => .ok (x, tlbUse k pl acc va s)

/-- Translation of an IPA of partition `p` by the fabric translation unit (R171), through its TLB: PA or fault. -/
def fabricXlate (s : State) (p : Nat) (acc : Access) (ipa : Nat) : Except XFault Nat :=
  if 2 ^ 44 ≤ ipa then .error ⟨xAddrSize, 0, true, false, false, none, ipa⟩
  else
    match tlbHit s.fabricTlb (.part p) 0 ipa with
    | some e =>
      if perm2 (w64 e.leaf2) acc then .ok (e.pa * 2 ^ e.size + ipa % 2 ^ e.size)
      else .error ⟨xPermission, e.level2, true, false, false, none, ipa⟩
    | none =>
      match stage2Walk s (.part p) [] (fget s fldGLB_PART_S2TTB_BASE p * 4096) ipa false with
      | .error f => .error f
      | .ok l => if perm2 l.entry acc then .ok l.out else .error ⟨xPermission, l.level, true, false, false, none, ipa⟩

/-! ### TLB invalidation (R164, R165) -/

/-- A leaf that a TLBI removes. -/
def tlbiLeaf (op : TlbiOp) (e : TlbEntry) : Bool :=
  match op with
  | .va sp asid va =>
    e.space == sp && e.va == va / 2 ^ e.size && (e.global || asid.isNone || asid == some e.asid)
  | .asid sp asid => e.space == sp && !e.global && e.asid == asid
  | .space sp => e.space == sp
  | .ipa p _ => e.space == .part p
  | .part p => e.space == .part p
  | .ks va => e.space == .kernel && e.va == va / 2 ^ e.size
  | .all => true

/-- A stage-1 walk-cache entry that a TLBI removes. -/
def tlbiWalk1 (op : TlbiOp) (e : WalkEntry) : Bool :=
  match op with
  | .va sp _ va => e.space == sp && e.pre == va / 2 ^ lvlShift e.level
  | .asid sp asid => e.space == sp && e.asid == asid
  | .space sp => e.space == sp
  | .ipa _ _ => false
  | .part p => e.space == .part p
  | .ks va => e.space == .kernel && e.pre == va / 2 ^ lvlShift e.level
  | .all => true

/-- A stage-2 walk-cache entry that a TLBI removes. -/
def tlbiWalk2 (op : TlbiOp) (e : WalkEntry) : Bool :=
  match op with
  | .va _ _ _ => false
  | .asid _ _ => false
  | .space sp => e.space == sp
  | .ipa p ipa => e.space == .part p && e.pre == ipa / 2 ^ lvlShift e.level
  | .part p => e.space == .part p
  | .ks _ => false
  | .all => true

/-- A TLBI takes effect on one core. -/
def tlbiCore (op : TlbiOp) (c : CoreState) : CoreState :=
  { c with
    itlb := c.itlb.filter (fun e => !tlbiLeaf op e)
    dtlb := c.dtlb.filter (fun e => !tlbiLeaf op e)
    l2tlb := c.l2tlb.filter (fun e => !tlbiLeaf op e)
    walk1 := c.walk1.filter (fun e => !tlbiWalk1 op e)
    walk2 := c.walk2.filter (fun e => !tlbiWalk2 op e) }

/-- A TLBI takes effect on every core and on the fabric translation unit (R165). -/
def tlbiApply (op : TlbiOp) (s : State) : State :=
  { s with
    cores := s.cores.map (fun p => (p.1, tlbiCore op p.2))
    fabricTlb := s.fabricTlb.filter (fun e => !tlbiLeaf op e) }

/-- The oldest TLBI of core `k` completes. -/
def tlbiOldest (k : Nat) (s : State) : State :=
  match (getCore s k).tlbis with
  | [] => s
  | op :: rest => tlbiApply op (modCore k (fun c => { c with tlbis := rest }) s)

/-- Every outstanding TLBI of core `k` completes, oldest first (R165). -/
def tlbiDrain (k : Nat) : Nat → State → State
  | 0, s => s
  | n + 1, s => tlbiDrain k n (tlbiOldest k s)

end Sys2Proof.Machine
end

