-- ==== Sys2Proof/Machine/Merge.lean ====
section
/-!
DEFINITION. Machine/Merge.lean: a core's merging buffer (R177): how a store enters it, how an entry drains to the
coherence point, what the core's own loads see (R99), and STORE_ERROR (R110).
-/

namespace Sys2Proof.Machine

/-- STORE_ERROR at a core: event 0x00, with the origin kind and the physical line address (R108, R110). DESIGN CHOICE (log):
of store errors that merge, the last one is shown. -/
def raiseStoreError (k origin pa : Nat) (s : State) : State :=
  raiseEvent k 0 (modCore k (fun c => { c with storeErr := (w64 (pa / 64 * 64 % 2 ^ 44), origin) }) s)

/-- The cell a drained merge cell leaves over the present cell: a whole cell replaces it; bytes follow R21. Where the
cell no longer takes bytes, the content the spec leaves open is a free cell. -/
def mergeOver (m : MergeCell) (old : Cell) (s : State) : Cell × State :=
  if m.whole then (m.cell, s)
  else if old.tag = tagRaw64 then (⟨tagRaw64, mixBytes m.mask old.data m.cell.data⟩, s)
  else if old.tag = tagVoid then (⟨tagRaw64, mixBytes m.mask 0 m.cell.data⟩, s)
  else drawCell s

/-- The line is made exclusive for a drain: to the core's L2, which takes it and becomes dirty, or to the coherence point
(R177). A store that misses the L1D does not allocate there (R174). -/
def drainLine (k : Nat) (e : MergeEntry) (s : State) : State :=
  if e.toL2 then
    let s1 := snoopWrite (fun c => c == l1dOf k || c == l2Of (k / 8)) e.line s
    let s2 := fillLower k e.line false e.nsc (touchLine (l1dOf k) e.line (cleanLine (l1dOf k) e.line s1))
    if cacheHolds s2 (l2Of (k / 8)) e.line then dirtyLine (l2Of (k / 8)) e.line s2
    else dirtyLine scCache e.line s2
  else
    let s1 := if e.nsc then s else allocLine scCache e.line s
    if lineCached s1 e.line then exposeLine (some (l2Of (k / 8))) e.line s1 else s1

/-- Writes the cells of one entry, position by position. -/
def drainCells (k line : Nat) : Sparse MergeCell → State → State
  | [], s => s
  | (i, m) :: rest, s =>
    let pa := line * 64 + 8 * i
    let r := mergeOver m (physRead s pa) s
    let s' := match physWrite pa r.1 r.2 with
      | .ok t => t
      | .error o => raiseStoreError k o pa r.2
    drainCells k line rest s'

/-- The oldest entry drains (R177). -/
def drainOldest (k : Nat) (s : State) : State :=
  match (getCore s k).merge with
  | [] => s
  | e :: rest => drainCells k e.line e.cells (drainLine k e (modCore k (fun c => { c with merge := rest }) s))

/-- The oldest `n` entries drain, oldest first. -/
def drainSome (k : Nat) : Nat → State → State
  | 0, s => s
  | n + 1, s => drainSome k n (drainOldest k s)

/-- The whole buffer drains (R100, R177). -/
def drainAll (k : Nat) (s : State) : State := drainSome k (getCore s k).merge.length s

/-- The entry of a core's buffer for a line, with the number of entries up to and including it. -/
def mergeEntry (s : State) (k line : Nat) : Option (Nat × MergeEntry) :=
  let m := (getCore s k).merge
  let i := m.findIdx (fun e => e.line == line)
  (m[i]?).map (fun e => (i + 1, e))

/-- What the buffer holds of a cell. -/
def mergeCellAt (s : State) (k pa : Nat) : Option (Nat × MergeCell) :=
  match mergeEntry s k (pa / 64) with
  | none => none
  | some (n, e) => (e.cells.find? (fun p => p.1 == pa % 64 / 8)).map (fun p => (n, p.2))

/-- What the core's buffer holds of a line drains, and the entries older than it (R99, R177). -/
def drainFor (k pa : Nat) (s : State) : State :=
  match mergeEntry s k (canonPa s pa / 64) with
  | some (n, _) => drainSome k n s
  | none => s

/-- A core's read of a cell, of any kind but DEV: from the entry that holds it whole; a partly held cell drains its
entry, and those older, first (R99, R177). -/
def coreRead (k pa0 : Nat) (s : State) : Cell × State :=
  let pa := canonPa s pa0
  match mergeCellAt s k pa with
  | none => (physRead s pa, s)
  | some (n, m) =>
    if m.whole then (m.cell, s)
    else
      let s' := drainSome k n s
      (physRead s' pa, s')

/-- What a load of core `k` does to the caches (R175, R178, R181): dirty copies elsewhere are written back; a hit touches its
way, which for kinds DEV and UNC is one of the SC. -/
def loadTouch (k : Nat) (x : Xl) (s : State) : State :=
  let line := x.pa / 64
  if lineCached s line then
    let s1 := snoopRead k line s
    if x.kind < 2 then touchLine scCache line s1
    else if cacheHolds s1 (l1dOf k) line then touchLine (l1dOf k) line s1
    else if cacheHolds s1 (l2Of (k / 8)) line then touchLine (l2Of (k / 8)) line s1
    else touchLine scCache line s1
  else s

/-- What core `k` reads at `pa`, leaving no trace. -/
def corePeek (s : State) (k pa : Nat) : Cell := (coreRead k pa s).1

/-- A core's load of a cell at a translated address. -/
def coreLoad (k : Nat) (x : Xl) (s : State) : Cell × State := coreRead k x.pa (loadTouch k x s)

/-- A merge cell after a further store to it. -/
def mergeUpd (old : Option MergeCell) (new : MergeCell) : MergeCell :=
  if new.whole then new
  else match old with
    | none => new
    | some o =>
      if o.whole then ⟨true, o.mask, ⟨tagRaw64, mixBytes new.mask (if o.cell.tag = tagVoid then 0 else o.cell.data) new.cell.data⟩⟩
      else ⟨false, o.mask ||| new.mask, ⟨tagRaw64, mixBytes new.mask o.cell.data new.cell.data⟩⟩

/-- A store of kind WTM or UNC, or to the larder, merges into its line's entry, or opens a new one; when all eight
entries are open the oldest drains first (R177). The kind of the last store decides how the entry drains. -/
def mergeStore (k : Nat) (x : Xl) (m : MergeCell) (s : State) : State :=
  let pa := canonPa s x.pa
  let line := pa / 64
  let i := pa % 64 / 8
  let wtm := x.kind == 2 && (regionOf s x.pa == .ddr)
  let toL2 := wtm && !x.nl2
  let nsc := !wtm || x.nsc
  match mergeEntry s k line with
  | some (n, e) =>
    let old := (e.cells.find? (fun p => p.1 == i)).map (fun p => p.2)
    let e' : MergeEntry := ⟨line, toL2, nsc, recPut i (mergeUpd old m) e.cells⟩
    modCore k (fun c => { c with merge := c.merge.set (n - 1) e' }) s
  | none =>
    let s1 := if 8 ≤ (getCore s k).merge.length then drainOldest k s else s
    modCore k (fun c => { c with merge := c.merge ++ [⟨line, toL2, nsc, [(i, m)]⟩] }) s1

/-- A store of kind WBC to DDR (R178): the core's L1D takes the line and makes it dirty; with NL2, or where the L2
cannot take it, the store is performed at the coherence point. Older stores to the line drain first. -/
def wbcStore (k : Nat) (x : Xl) (m : MergeCell) (s0 : State) : State :=
  let line := x.pa / 64
  let s := drainFor k x.pa s0
  let s1 := fillFor k (l1dOf k) line x.nl2 x.nsc
    (snoopWrite (fun c => c == l1dOf k || c == l2Of (k / 8)) line s)
  let s2 := if cacheHolds s1 (l1dOf k) line then dirtyLine (l1dOf k) line s1
    else exposeLine (some (l2Of (k / 8))) line s1
  let r := mergeOver m (physRead s2 x.pa) s2
  match physWrite x.pa r.1 r.2 with
  | .ok t => t
  | .error o => raiseStoreError k o x.pa r.2

/-- A core's store of any kind but DEV, at a translated address. -/
def coreStore (k : Nat) (x : Xl) (m : MergeCell) (s : State) : State :=
  if x.kind == 3 && (regionOf s x.pa == .ddr) then wbcStore k x m s else mergeStore k x m s

/-- A store that is performed at once, at the coherence point, after the core's earlier stores to the line (R99, R174). -/
def storeNow (k : Nat) (x : Xl) (m : MergeCell) (s : State) : State :=
  let s1 := drainFor k x.pa s
  let r := mergeOver m (physRead s1 x.pa) s1
  match cohWriteBy (some (l2Of (k / 8))) x.pa r.1 r.2 with
  | .ok t => t
  | .error o => raiseStoreError k o x.pa r.2

/-- A whole cell as a store. -/
def wholeCell (c : Cell) : MergeCell := ⟨true, 0xFF, c⟩

end Sys2Proof.Machine
end

