-- ==== Sys2Proof/Machine/Tasks.lean ====
section
/-!
DEFINITION. Machine/Tasks.lean: task control blocks (R127), waking (R132, R133), mailboxes and role epochs (R142 to
R146), and what a core reset leaves of the tasks in its contexts (R140).
The dispatcher's bookkeeping cells (STATE, DEADLINE, EVENTS) live in the TCB at all times.
-/

namespace Sys2Proof.Machine

/-! ### The TCB -/

/-- The physical address of cell `i` of the TCB of task `t` of partition `p` (R127). -/
def tcbAddr (s : State) (p t i : Nat) : Nat := bankAddr (fget s fldGLB_PART_CTL_TCBBANK p) (32 * t + i)

def tcbCell (s : State) (p t i : Nat) : Cell := physRead s (tcbAddr s p t i)

def tcbPut (p t i : Nat) (c : Cell) (s : State) : State := cohPut (tcbAddr s p t i) c s

/-- A RAW64 cell of the TCB as a word. -/
def tcbWord (s : State) (p t i : Nat) : Word := (tcbCell s p t i).data

/-- STATE.ST. DESIGN CHOICE (log): a POISON cell 0 counts as that of a FREE task. -/
def stOf (s : State) (p t : Nat) : Nat :=
  let c := tcbCell s p t 0
  if c.tag = tagPoison then 0 else bitsOf c.data 2 0

@[reducible] def stFree : Nat := 0
@[reducible] def stHeld : Nat := 1
@[reducible] def stReady : Nat := 2
@[reducible] def stRunning : Nat := 3
@[reducible] def stWaiting : Nat := 4
@[reducible] def stFaulted : Nat := 5

/-- The dispatcher's bookkeeping in cell `i` of a TCB. It leaves the tag as software left it, so that R128 finds a cell that is
not RAW64 when the TCB is loaded. DESIGN CHOICE (log): a POISON cell it writes becomes VOID. -/
def tcbKeep (p t i : Nat) (w : Word) (s : State) : State :=
  let g := (tcbCell s p t i).tag
  tcbPut p t i ⟨if g = tagPoison then tagVoid else g, w⟩ s

/-- A field of STATE takes a value. -/
def tcbStatePut (p t hi lo v : Nat) (s : State) : State := tcbKeep p t 0 (putBits (tcbWord s p t 0) hi lo v) s

def tcbBand (s : State) (p t : Nat) : Nat := bitsOf (tcbWord s p t 0) 4 3
/-- The band a task competes in: 3 while its activation has passed its grant (R375). -/
def effBand (s : State) (p t : Nat) : Nat := if s.overran.contains (1024 * p + t) then 3 else tcbBand s p t
def tcbCluster (s : State) (p t : Nat) : Nat := bitsOf (tcbWord s p t 0) 7 5
def tcbAffinity (s : State) (p t k : Nat) : Bool := bitOf (tcbWord s p t 0) (8 + k % 8)
def tcbGroup (s : State) (p t : Nat) : Nat := bitsOf (tcbWord s p t 0) 23 20
def tcbEpoch (s : State) (p t : Nat) : Nat := bitsOf (tcbWord s p t 0) 63 32
def tcbPend (s : State) (p t : Nat) : Nat := bitsOf (tcbWord s p t 3) 5 0
def tcbMask (s : State) (p t : Nat) : Nat := bitsOf (tcbWord s p t 3) 13 8

/-- The task a context holds (CTXID): partition and task number. -/
def ctxTask (c : Ctx) : Option (Nat × Nat) :=
  if bitOf c.ctxid 16 then none else some (bitsOf c.ctxid 12 10, bitsOf c.ctxid 9 0)

/-- The cores of partition `p` in a cluster, rising. -/
def coresIn (s : State) (p cl : Nat) : List Nat := (coresOf s p).filter (fun k => k / 8 == cl)

/-- A context of the partition that has run the task since it was loaded there: its core. -/
def ranOn (s : State) (p t : Nat) : Option Nat :=
  (coresOf s p).find? (fun k =>
    let c := getCore s k
    (c.front.ran && ctxTask c.front == some (p, t)) || (c.back.ran && ctxTask c.back == some (p, t)))

/-- The core on which a task last ran (EXIT.CORE): that of a context in which it has run, else what EXIT says. -/
def lastCore (s : State) (p t : Nat) : Nat := (ranOn s p t).getD (bitsOf (tcbWord s p t 15) 6 4)

/-- EXIT (cell 15) of a task. -/
def tcbExit (p t cause core detail : Nat) (s : State) : State :=
  tcbPut p t 15 (cellRaw (w64 (cause + core % 8 * 16 + detail % 2 ^ 32 * 2 ^ 32))) s

/-- Entry into FAULTED: EXIT recorded, TASK_FAULT at the lowest-numbered core of the partition in the task's home
cluster (R131). -/
def faultTask (p t cause core detail : Nat) (s : State) : State :=
  let s1 := tcbStatePut p t 2 0 stFaulted (tcbExit p t cause core detail s)
  match coresIn s1 p (tcbCluster s1 p t) with
  | [] => s1
  | k :: _ => raiseEvent k (0x40 + 24 * p) s1

/-- A task becomes READY: its deadline is set from DLREL and it takes its place in the order of ready times (R133,
R134). -/
def becomeReady (p t : Nat) (s : State) : State :=
  let rel := bitsOf (tcbWord s p t 3) 63 32
  let dl := if rel = 0 then cellUnbound else ⟨tagPhase15, dtNow s + w64 rel⟩
  let s1 := tcbStatePut p t 2 0 stReady (tcbPut p t 1 dl s)
  { s1 with readySeq := recPut (1024 * p + t) s1.seq s1.readySeq, seq := s1.seq + 1 }

/-! ### Mailboxes -/

/-- The messages of a task or core, of its bounce queue or its message queue, oldest first. -/
def queueOf (s : State) (p : Nat) (who : Bool × Nat) (bounced : Bool) : List Msg :=
  s.mail.filter (fun m => m.part == p && m.bounced == bounced && (if bounced then m.sender == who else m.target == who))

/-- A task's message or bounce queue is not empty: wake code 1 (R132). -/
def hasMail (s : State) (p : Nat) (who : Bool × Nat) : Bool :=
  !(queueOf s p who true).isEmpty || !(queueOf s p who false).isEmpty

/-- The wake bits pending for a task: the stored bits, with code 1 following the queues (R132). -/
def pendBits (s : State) (p t : Nat) : Nat :=
  nput (tcbPend s p t) 1 1 (hasMail s p (false, t)).toNat

/-- The lowest code pending among the mask and code 4 (R133). -/
def wakeCode (s : State) (p t mask : Nat) : Option Nat :=
  (List.range 6).find? (fun i => nbits (pendBits s p t) i i == 1 && (i == 4 || nbits mask i i == 1))

/-- A WAITING task with a code pending becomes READY (R131). -/
def wakeCheck (p t : Nat) (s : State) : State :=
  if stOf s p t = stWaiting && (wakeCode s p t (tcbMask s p t)).isSome then becomeReady p t s else s

/-- Wake code `i` becomes pending for a task that is neither FREE nor FAULTED (R132). -/
def setWake (p t i : Nat) (s : State) : State :=
  let st := stOf s p t
  if st = stFree || st = stFaulted then s
  else wakeCheck p t (tcbKeep p t 3 (putBits (tcbWord s p t 3) i i 1) s)

/-- Every task of a partition in a cluster whose group matches is woken by an ALARM (R132). -/
def wakeGroup (p cl g : Nat) (s : State) : State :=
  (List.range 1024).foldl (fun t i =>
    if tcbCluster t p i == cl && tcbGroup t p i == g && (tcbCell t p i 0).tag == tagRaw64 then setWake p i 0 t else t) s

/-- Slots of a partition's messages in a cluster (CLU_DISP_MBQ.USED). -/
def slotsUsed (s : State) (cl p : Nat) : Nat := (s.mail.filter (fun m => m.cluster == cl && m.part == p)).length

/-- A slot is free for a partition in a cluster (R144). -/
def slotFree (s : State) (cl p : Nat) : Bool :=
  decide (slotsUsed s cl p < fget s fldCLU_DISP_MBQ_QUOTA (8 * cl + p)) &&
  decide ((s.mail.filter (fun m => m.cluster == cl)).length < 256)

/-- The present epoch of a task or core. -/
def epochOf (s : State) (p : Nat) (who : Bool × Nat) : Nat :=
  if who.1 then fget s fldCLU_CORE_EPOCH_EPOCH who.2 else tcbEpoch s p who.2

/-- What a queue's change wakes: CORE_MSG at a core whose queue became non-empty, the task's wake check (R131, R132). -/
def mailArrived (p : Nat) (who : Bool × Nat) (wasEmpty : Bool) (s : State) : State :=
  if who.1 then (if wasEmpty then raiseEvent who.2 (0x41 + 24 * p) s else s) else wakeCheck p who.2 s

/-- A message goes to its sender's bounce queue, or is lost and counted when the sender has itself changed epoch
(R145). -/
def bounceMsg (m : Msg) (s : State) : State :=
  if epochOf s m.part m.sender = m.senderEpoch then
    let hdr := match m.cells with
      | c :: rest => ⟨c.tag, putBits c.data 16 15 1⟩ :: rest
      | [] => []
    let was := (queueOf s m.part m.sender true).isEmpty
    mailArrived m.part m.sender was { s with mail := s.mail ++ [{ m with bounced := true, cells := hdr }] }
  else countUp .CLU_DISP_BLOST m.cluster 1 s

/-- A queued message no longer fits its target's epoch, or its target task is FREE (R145). -/
def msgStale (s : State) (m : Msg) : Bool :=
  !m.bounced && (bitsOf ((m.cells.getD 0 cellVoid).data) 63 32 != epochOf s m.part m.target ||
    (!m.target.1 && stOf s m.part m.target.2 == stFree))

/-- Every queued message is compared again with its target's epoch (R145). -/
def rebounce (s : State) : State :=
  (s.mail.filter (msgStale s)).foldl (fun t m => bounceMsg m t)
    { s with mail := s.mail.filter (fun m => !msgStale s m) }

/-- A bounce record for a wake or a control command with a stale epoch (R146), to the lowest-numbered core of the
partition in the cluster. -/
def bounceRecord (cl p : Nat) (who : Bool × Nat) (epoch : Nat) (desc : List Cell) (s : State) : State :=
  match coresIn s p cl with
  | [] => countUp .CLU_DISP_BLOST cl 1 s
  | k :: _ =>
    if slotFree s cl p then
      let hdr := cellRaw (w64 (who.1.toNat + (if who.1 then who.2 / 8 * 4 + who.2 % 8 * 32 else who.2 * 32) +
        2 ^ 15 + epoch * 2 ^ 32))
      let was := (queueOf s p (true, k) true).isEmpty
      mailArrived p (true, k) was { s with
        mail := s.mail ++ [⟨cl, p, who, (true, k), epochOf s p (true, k), true,
          hdr :: [desc.getD 0 cellVoid, desc.getD 1 cellVoid, desc.getD 2 cellVoid]⟩] }
    else countUp .CLU_DISP_BLOST cl 1 s

/-- A wake addressed to a task with the epoch the sender named (R133, R146). -/
def wakeTask (p t epoch code : Nat) (desc : List Cell) (s : State) : State :=
  if tcbEpoch s p t = epoch then setWake p t code s
  else bounceRecord (tcbCluster s p t) p (false, t) epoch desc s

end Sys2Proof.Machine
end

