-- ==== Sys2Proof/Machine/Heap.lean ====
section
/-!
DEFINITION. Machine/Heap.lean: the heap of a partition as a core meets it (09_laundry.md): racks and their filter (R206),
side blocks (R209), resolution and copying (R222), shading (R223), the load and store barriers (R210, R220, R221, R224),
register units (R218), and the allocation and copy buffers (R213, R215).
A claim (R222) never outlives the command that makes it, so no command meets one.
-/

namespace Sys2Proof.Machine

/-! ### Racks -/

@[reducible] def rackFree : Nat := 0
@[reducible] def rackNursery : Nat := 1
@[reducible] def rackMature : Nat := 2
@[reducible] def rackLarge : Nat := 3
@[reducible] def rackTail : Nat := 4
@[reducible] def rackCondemned : Nat := 5
@[reducible] def rackOffline : Nat := 6

/-- A rack that has never been used. -/
def Rack.unused : Rack :=
  { state := rackOffline, part := 0, tospace := false, rescan := false, abandoned := false, damaged := false, live := 0,
    top := 0, span := 0, wiped := false }

/-- The rack-table cell of an entry (R206). -/
def rackWord (r : Rack) : Word :=
  w64 (r.state + r.part * 8 + r.tospace.toNat * 64 + r.rescan.toNat * 128 + r.abandoned.toNat * 256 +
    r.damaged.toNat * 512 + r.live % 2 ^ 19 * 2 ^ 10 + r.top % 2 ^ 19 * 2 ^ 29 + r.span % 2 ^ 16 * 2 ^ 48)

/-- The global number of rack `i` of a partition. -/
def rackGlobal (s : State) (p i : Nat) : Nat := (fget s fldLNDR_PART_HEAP_RBASE p + i) % 65536

/-- Rack `i` of partition `p`. -/
def getRack (s : State) (p i : Nat) : Rack := sparseGet (fun _ => Rack.unused) s.racks (rackGlobal s p i)

/-- An entry takes a value; the rack table in memory follows (R206). -/
def setRack (p i : Nat) (r : Rack) (s : State) : State :=
  cohPut (fget s fldLNDR_RTB_PADDR 0 * 2 ^ 19 + 8 * rackGlobal s p i) (cellRaw (rackWord r))
    { s with racks := recPut (rackGlobal s p i) r s.racks }

/-- The racks of a partition that have been used, as indices in its window, rising. -/
def racksOf (s : State) (p : Nat) : List Nat :=
  (s.racks.filterMap (fun q =>
    let i := (q.1 + 65536 - fget s fldLNDR_PART_HEAP_RBASE p) % 65536
    if i < fget s fldLNDR_PART_HEAP_RCOUNT p && q.2.part == p then some i else none)).foldr insertNat []

/-- The rack of a partition's heap window that holds an address. -/
def rackAt (s : State) (p a : Nat) : Option Nat :=
  let base := fget s fldLNDR_PART_HEAP_BASE p * 2 ^ 21
  if base ≤ a && a < base + fget s fldLNDR_PART_HEAP_RCOUNT p * 2 ^ 21 then some ((a - base) / 2 ^ 21) else none

def rackBase (s : State) (p i : Nat) : Nat := fget s fldLNDR_PART_HEAP_BASE p * 2 ^ 21 + i * 2 ^ 21

/-- The rack filter: 0 NONE, 1 YOUNG, 2 OLD, 3 CONDEMNED (R206). -/
def filterOf (s : State) (p a : Nat) : Nat :=
  match rackAt s p a with
  | none => 0
  | some i =>
    let st := (getRack s p i).state
    if st = rackNursery then 1
    else if st = rackMature || st = rackLarge || st = rackTail then 2
    else if st = rackCondemned then 3
    else 0

/-- An address in a root region of a partition. -/
def inRoot (s : State) (p a : Nat) : Bool :=
  (List.range 8).any (fun i =>
    let base := fget s fldLNDR_PART_ROOT_BASE (8 * p + i) * 512
    fbit s fldLNDR_PART_ROOT_V (8 * p + i) && base ≤ a &&
      a < base + fget s fldLNDR_PART_ROOT_CARDS (8 * p + i) * 512)

/-- The phase of a partition's cycle (R215). -/
def phaseOfPart (s : State) (p : Nat) : Nat := fget s fldLNDR_PART_STAT_PHASE p

def LaundryPart.idle : LaundryPart :=
  { want := none, mature := false, ended := false, freed := false, roots := [], queue := [], waiting := [],
    flipAt := none }

def getLaundry (s : State) (p : Nat) : LaundryPart := sparseGet (fun _ => LaundryPart.idle) s.laundry p
def modLaundry (p : Nat) (f : LaundryPart → LaundryPart) (s : State) : State :=
  { s with laundry := recPut p (f (getLaundry s p)) s.laundry }

/-- The largest object a mutator copies, header excluded. -/
def mcopyOf (s : State) : Nat :=
  let m := fget s fldLNDR_CTL_MCOPY 0
  if 2 ≤ m && m ≤ 16 then m else 16

/-! ### Heap accesses: by a core (`some k`) or by LAUNDRY, at an IPA, through stage 2 (R205, R209, R171) -/

def heapRead (who : Option Nat) (p a : Nat) (s : State) : Except XFault (Cell × State) :=
  match fabricXlate s p .load a with
  | .error f => .error f
  | .ok pa => .ok (match who with
    | some k => coreRead k pa s
    | none => (physRead s pa, agentRead (pa / 64) s))

/-- A whole-cell write; what the core's merging buffer holds of the line drains first. -/
def heapWrite (who : Option Nat) (p a : Nat) (c : Cell) (s : State) : Except XFault State :=
  match fabricXlate s p .store a with
  | .error f => .error f
  | .ok pa =>
    .ok (cohPut pa c (match who with
      | none => s
      | some k => drainFor k pa s))

def heapWrites (who : Option Nat) (p : Nat) : Nat → List Cell → State → Except XFault State
  | _, [], s => .ok s
  | a, c :: cs, s =>
    match heapWrite who p a c s with
    | .error f => .error f
    | .ok s' => heapWrites who p (a + 8) cs s'

def heapReads (who : Option Nat) (p : Nat) : Nat → Nat → State → Except XFault (List Cell × State)
  | 0, _, s => .ok ([], s)
  | n + 1, a, s =>
    match heapRead who p a s with
    | .error f => .error f
    | .ok (c, s1) =>
      match heapReads who p n (a + 8) s1 with
      | .error f => .error f
      | .ok (cs, s2) => .ok (c :: cs, s2)

/-! ### Side blocks (R209) -/

/-- The address of the side-block cell that holds bit `b` of a table at byte offset `o`. -/
def sideAddr (s : State) (p i o b : Nat) : Nat := fget s fldLNDR_PART_SIDE_BASE p * 2 ^ 16 + i * 2 ^ 16 + o + b / 64 * 8

/-- A bit of the side block of rack `i`. -/
def sideBit (s : State) (p i o b : Nat) : Bool :=
  match fabricXlate s p .load (sideAddr s p i o b) with
  | .error _ => false
  | .ok pa => bitOf (physRead s pa).data (b % 64)

/-- A bit of the side block takes a value. -/
def sideSet (p i o b : Nat) (v : Bool) (s : State) : State :=
  match fabricXlate s p .store (sideAddr s p i o b) with
  | .error _ => s
  | .ok pa =>
    let c := physRead s pa
    cohPut pa (cellRaw (putBit (if c.tag = tagRaw64 then c.data else 0) (b % 64) v)) s

/-- The cell index of an address in its rack. -/
def cellIn (s : State) (p a i : Nat) : Nat := (a - rackBase s p i) / 8

/-- The mark bit of an object start, and the card bit of a cell. -/
def markBit (s : State) (p a : Nat) : Bool :=
  match rackAt s p a with
  | some i => sideBit s p i 0 (cellIn s p a i)
  | none => false
def setMark (p a : Nat) (s : State) : State :=
  match rackAt s p a with
  | some i => sideSet p i 0 (cellIn s p a i) true s
  | none => s
def setCard (p a : Nat) (s : State) : State :=
  match rackAt s p a with
  | some i => sideSet p i 0x8000 (cellIn s p a i / 64) true s
  | none => s

/-! ### Shading (R223) -/

/-- LAUNDRY's work queue takes an object. -/
def enqueue (p a : Nat) (s : State) : State := modLaundry p (fun l => { l with queue := l.queue ++ [a] }) s

/-- A shade by cluster `cl`'s core or, with `none`, by LAUNDRY, whose work queue takes the object. A pointer to a nursery
object is no shade: LAUNDRY, which traces from the roots (R215), follows it itself, once. -/
def shade (cl : Option Nat) (p : Nat) (c : Cell) (s : State) : State :=
  let a := c.data.toNat
  if !isPtr c.tag || filterOf s p a == 0 || filterOf s p a == 3 || markBit s p a then s
  else if filterOf s p a == 1 then enqueue p a (setMark p a s)
  else
    let s1 := setMark p a s
    match cl with
    | none => enqueue p a s1
    | some q =>
      if (s1.markq.filter (fun e => e.1 == q)).length < 256 then { s1 with markq := s1.markq ++ [(q, p, a)] }
      else
        match rackAt s1 p a with
        | some i => setRack p i { getRack s1 p i with rescan := true } s1
        | none => s1

/-! ### Buffers (R208, R213, R215, R216) -/

/-- A FILLER cell over `n` cells (R209). -/
def cellFiller (n : Nat) : Cell := ⟨tagFiller, w64 n⟩

/-- The rest of a buffer becomes one FILLER. -/
def retireBuffer (k p cur fin : Nat) (s : State) : State :=
  if cur < fin then
    match heapWrite (some k) p cur (cellFiller ((fin - cur) / 8)) s with
    | .ok t => t
    | .error _ => s
  else s

/-- `n` cells from the first of some racks with room; its TOP moves. -/
def takeCells (p n : Nat) (pick : Rack → Bool) (s : State) : Option (Nat × State) :=
  match (racksOf s p).find? (fun i => pick (getRack s p i) && (getRack s p i).top + n ≤ 262144) with
  | none => none
  | some i =>
    let r := getRack s p i
    some (rackBase s p i + 8 * r.top, setRack p i { r with top := r.top + n } s)

/-- NURSERY racks of a partition, and the limit NMAX. -/
def nurseries (s : State) (p : Nat) : List Nat := (racksOf s p).filter (fun i => (getRack s p i).state == rackNursery)
def nmaxOf (s : State) (p : Nat) : Nat := max 1 (fget s fldLNDR_PART_CTL_NMAX p)

/-- FREE racks whose cells have been written VOID. -/
def freeRacks (s : State) (p : Nat) : List Nat :=
  (racksOf s p).filter (fun i => (getRack s p i).state == rackFree && (getRack s p i).wiped)

/-- A new allocation buffer of 4,096 cells: from a NURSERY rack with room, else from a FREE rack that becomes NURSERY
(R207, R213). -/
def takeNursery (p : Nat) (s : State) : Option (Nat × State) :=
  match takeCells p 4096 (fun r => r.state == rackNursery) s with
  | some r => some r
  | none =>
    if (nurseries s p).length < nmaxOf s p then
      match freeRacks s p with
      | [] => none
      | i :: _ =>
        takeCells p 4096 (fun r => r.state == rackNursery)
          (setRack p i { Rack.unused with state := rackNursery, part := p, wiped := true } s)
    else none

/-- Cells for a copy: a core's from its copy buffer, refilled by 2,048 cells of a TOSPACE rack; LAUNDRY's from the rack
itself. -/
def takeCopy (who : Option Nat) (p n : Nat) (s : State) : Option (Nat × State) :=
  match who with
  | none => takeCells p n (fun r => r.tospace) s
  | some k =>
    let c := getCore s k
    if c.copyCur + 8 * n ≤ c.copyEnd then
      some (c.copyCur, modCore k (fun c => { c with copyCur := c.copyCur + 8 * n }) s)
    else
      match takeCells p 2048 (fun r => r.tospace) (retireBuffer k p c.copyCur c.copyEnd s) with
      | none => none
      | some (a, s1) => some (a, modCore k (fun c => { c with copyCur := a + 8 * n, copyEnd := a + 8 * 2048 }) s1)

/-! ### Resolution (R222) -/

/-- LAUNDRY bits of a HEADER (R211). -/
def hdrAbandon (w : Word) : Bool := bitOf w 47
def hdrLen (w : Word) : Nat := bitsOf w 31 0

/-- The length of an object in cells, header excluded for what has one, by its pointer's tag and first cell. -/
def objLen (t : Tag) (c : Cell) : Option Nat :=
  if t = tagCons then some 2
  else if c.tag = tagHeader then some (hdrLen c.data)
  else none

/-- A rack whose object start reads POISON is DAMAGED (R229). -/
def damage (p a : Nat) (s : State) : State :=
  match rackAt s p a with
  | some i => setRack p i { getRack s p i with damaged := true } s
  | none => s

/-- The copy of an object: its cells to new cells, the first with LAUNDRY bits clear; the original becomes FWD. LAUNDRY
will scan a copy made in NCOPY. -/
def copyObject (who : Option Nat) (p : Nat) (c first : Cell) (cells : Nat) (s : State) : Except XFault (Cell × State) :=
  let a := c.data.toNat
  match takeCopy who p cells s with
  | none => .ok (c, s)
  | some (q, s1) =>
    match heapReads who p cells a s1 with
    | .error f => .error f
    | .ok (old, s2) =>
      let f := if first.tag = tagHeader then ⟨tagHeader, putBits first.data 55 32 0⟩ else first
      match heapWrites who p q (f :: old.drop 1) s2 with
      | .error e => .error e
      | .ok s3 =>
        match heapWrite who p a ⟨tagFwd, w64 q⟩ s3 with
        | .error e => .error e
        | .ok s4 =>
          .ok (⟨c.tag, w64 q⟩,
            if phaseOfPart s4 p = 1 then enqueue p q s4 else s4)

/-- An object stays in place for the rest of the cycle (R222). In NCOPY it is live, and LAUNDRY scans it where it stands. -/
def abandonAt (p a : Nat) (s : State) : State :=
  let s1 := match rackAt s p a with
    | some i => setRack p i { getRack s p i with abandoned := true } s
    | none => s
  if phaseOfPart s1 p = 1 then enqueue p a s1 else s1

/-- resolve(p) of R222, for a pointer into a CONDEMNED rack, by a core or by LAUNDRY. -/
def resolve (who : Option Nat) (p : Nat) (c : Cell) (s : State) : Except XFault (Cell × State) :=
  let a := c.data.toNat
  match heapRead who p a s with
  | .error f => .error f
  | .ok (first, s1) =>
    if first.tag = tagFwd then .ok (⟨c.tag, first.data⟩, s1)
    else if first.tag = tagPoison then .ok (c, damage p a s1)
    else if first.tag = tagHeader && hdrAbandon first.data then .ok (c, s1)
    else if phaseOfPart s1 p = 4 || (phaseOfPart s1 p = 3 && !markBit s1 p a) then .ok (c, s1)
    else
      match objLen c.tag first with
      | none => .ok (c, s1)
      | some n =>
        if who.isSome && mcopyOf s1 < n && c.tag != tagCons then
          match heapWrite who p a ⟨tagHeader, putBit first.data 47 true⟩ s1 with
          | .error f => .error f
          | .ok s2 => .ok (c, abandonAt p a s2)
        else copyObject who p c first (if c.tag = tagCons then 2 else n + 1) s1

/-- The register action of R224 on a cell, by a core or by LAUNDRY. -/
def unitAction (who : Option Nat) (p : Nat) (c : Cell) (s : State) : Except XFault (Cell × State) :=
  if !isPtr c.tag then .ok (c, s)
  else if phaseOfPart s p = 2 then .ok (c, shade (who.map (fun k => k / 8)) p c s)
  else if phaseOfPart s p != 0 && filterOf s p c.data.toNat = 3 then resolve who p c s
  else .ok (c, s)

/-! ### Barriers (R210, R220, R221, R224) -/

/-- A slot that held `c` when it was read takes the resolved cell, by CAS at the coherence point (R220). -/
def healSlot (k pa : Nat) (c c' : Cell) (s : State) : State :=
  if c' = c then s
  else
    let s1 := drainFor k pa s
    if physRead s1 pa = c then cohPut pa c' s1 else s1

/-- A delivered cell, read from a slot or without one: a pointer into a CONDEMNED rack is resolved, and the slot healed
(R220). -/
def resolveDelivered (k p : Nat) (slot : Option Nat) (c : Cell) (s : State) : Except Trap (Cell × State) :=
  if isPtr c.tag && filterOf s p c.data.toNat = 3 then
    match resolve (some k) p c s with
    | .error f => .error (xTrap f .load (w64 f.ipa))
    | .ok (c', s') => .ok (c', match slot with
      | some pa => healSlot k pa c c' s'
      | none => s')
  else .ok (c, s)

/-- The cell at a forwarding address, as the barrier delivers it (R220). -/
def followFwd (k p a : Nat) (s : State) : Except Trap (Cell × State) :=
  match fabricXlate s p .load a with
  | .error f => .error (xTrap f .load (w64 f.ipa))
  | .ok pa =>
    let r := coreRead k pa s
    if phaseOfPart r.2 p = 0 || phaseOfPart r.2 p = 2 then .ok r else resolveDelivered k p (some pa) r.1 r.2

/-- The load barrier on a cell read at `va` by core `k`, with the slot it came from: while a cycle runs, but for MARK
(R20, R220, R224). A bad forwarding address is BAD_PTR (R24). -/
def loadBarrier (k : Nat) (slot : Option Nat) (va : Word) (c : Cell) (s : State) : Except Trap (Cell × State) :=
  match partOf s k with
  | none => .ok (c, s)
  | some p =>
    if phaseOfPart s p = 0 || phaseOfPart s p = 2 then .ok (c, s)
    else if c.tag = tagFwd then
      if ptrOk c.data then followFwd k p c.data.toNat s else .error (trapAt vTagCheck 2 va c.tag)
    else resolveDelivered k p slot c s

/-- The store barrier of core `k` on a cell bound for a virtual address whose slot now holds `old`: the cell to store,
or none where R210 forbids it (TAG_CHECK SOFT_TYPE). -/
def storeBarrier (k : Nat) (va : Nat) (old c : Cell) (s : State) : Except XFault (Option Cell × State) :=
  match partOf s k with
  | none => .ok (some c, s)
  | some p =>
    let inside := (rackAt s p va).isSome || inRoot s p va
    if !inside then .ok (some c, s)
    else if tagClass c.tag = 4 then .ok (none, s)
    else if !isPtr c.tag then
      .ok (some c, if phaseOfPart s p = 2 then shade (some (k / 8)) p old s else s)
    else
      let r := if phaseOfPart s p != 2 && phaseOfPart s p != 0 && filterOf s p c.data.toNat = 3
        then resolve (some k) p c s else .ok (c, s)
      match r with
      | .error f => .error f
      | .ok (c', s1) =>
        let s2 := if phaseOfPart s1 p = 2 then shade (some (k / 8)) p old s1 else s1
        .ok (some c', if filterOf s2 p va = 2 && filterOf s2 p c'.data.toNat = 1 then setCard p va s2 else s2)

/-! ### Register units (R218) -/

/-- The number of a unit: G 0, K 1, I_w 2 + w, H_w 18 + w. -/
def unitOfCell (l : Nat) : Option Nat :=
  if l < 8 then some 0
  else if l < 296 then
    let w := (l - 8) / 18
    some (if (l - 8) % 18 < 6 then 2 + w else 18 + w)
  else if 300 ≤ l && l < 316 then some 1
  else none

/-- The locations of a unit's cells. -/
def unitCells (u : Nat) : List Nat :=
  if u = 0 then List.range 8
  else if u = 1 then (List.range 16).map (fun i => 300 + i)
  else if u < 18 then (List.range 6).map (fun i => 8 + 18 * (u - 2) + i)
  else (List.range 12).map (fun i => 8 + 18 * (u - 18) + 6 + i)

/-- A cell of a context by location, and its replacement without a dirty mark. -/
def ctxCell (x : Ctx) (l : Nat) : Cell :=
  if l < 300 then sparseGet (fun _ => cellVoid) x.cells l else sparseGet (fun _ => cellVoid) x.ck (l - 300)
def ctxPut (l : Nat) (c : Cell) (x : Ctx) : Ctx :=
  if l < 300 then { x with cells := sparsePut (fun _ => cellVoid) l c x.cells }
  else { x with ck := sparsePut (fun _ => cellVoid) (l - 300) c x.ck }

/-- The front (`true`) or back context of core `k`. -/
def sideCtx (s : State) (k : Nat) (fr : Bool) : Ctx := if fr then (getCore s k).front else (getCore s k).back
def modCtx (k : Nat) (fr : Bool) (f : Ctx → Ctx) (s : State) : State :=
  modCore k (fun c => if fr then { c with front := f c.front } else { c with back := f c.back }) s

/-- The cells of a list of locations of a context take the register action. A cell whose action changes it marks its
window dirty: the CELLAR image no longer matches (R57). -/
def scanCells (k : Nat) (fr : Bool) (p : Nat) : List Nat → State → Except XFault State
  | [], s => .ok s
  | l :: ls, s =>
    let c := ctxCell (sideCtx s k fr) l
    match unitAction (some k) p c s with
    | .error f => .error f
    | .ok (c', s1) =>
      scanCells k fr p ls (if c' = c then s1
        else if l < 300 then modCtx k fr (fun x => writePhys l c' x) s1 else modCtx k fr (ctxPut l c') s1)

/-- A unit is scanned, if it is unscanned. -/
def scanUnit (k : Nat) (fr : Bool) (u : Nat) (s : State) : Except XFault State :=
  let x := sideCtx s k fr
  if !x.unscanned.getLsbD u then .ok s
  else
    let mark (t : State) : State := modCtx k fr (fun x => { x with unscanned := x.unscanned &&& ~~~(1#34 <<< u) }) t
    match partOf s k with
    | none => .ok (mark s)
    | some p =>
      match scanCells k fr p (unitCells u) s with
      | .error f => .error f
      | .ok s1 => .ok (mark s1)

def scanUnits (k : Nat) (fr : Bool) : List Nat → State → Except XFault State
  | [], s => .ok s
  | u :: us, s =>
    match scanUnit k fr u s with
    | .error f => .error f
    | .ok s1 => scanUnits k fr us s1

/-- The units of the current frame: G, K, H and I of window CWP, and I of window CWP + 1. -/
def frameUnits (x : Ctx) : List Nat := [0, 1, 18 + cwpOf x, 2 + cwpOf x, 2 + (cwpOf x + 1) % 16]

/-- Before an instruction of the front context: the units of its frame are scanned (R218). -/
def preScan (k : Nat) (s : State) : Except XFault State :=
  if (front s k).unscanned = 0 then .ok s else scanUnits k true (frameUnits (front s k)) s

/-- Units that a load or FILLW writes while a cycle runs become unscanned (R218). -/
def markUnits (us : List Nat) (active : Bool) (x : Ctx) : Ctx :=
  if active then { x with unscanned := us.foldl (fun b u => b ||| (1#34 <<< u)) x.unscanned } else x

/-- A partition's cycle is under way on a core. -/
def cycleOn (s : State) (k : Nat) : Bool :=
  match partOf s k with
  | some p => phaseOfPart s p != 0
  | none => false

/-- The flip handshake of a core (R215): every unit of both contexts unscanned, the allocation buffer and the copy buffer
retired. -/
def handshake (p k : Nat) (s : State) : State :=
  let c := getCore s k
  let s1 := retireBuffer k p c.abcur.toNat c.abend.toNat s
  let s2 := retireBuffer k p c.copyCur c.copyEnd s1
  modCore k (fun c => { c with
    abcur := 0
    abend := 0
    copyCur := 0
    copyEnd := 0
    front := { c.front with unscanned := BitVec.allOnes 34 }
    back := { c.back with unscanned := BitVec.allOnes 34 } }) s2

/-- Buffers are retired before a core is reset or moved (R230). -/
def retireBuffers (k : Nat) (s : State) : State :=
  match partOf s k with
  | none => s
  | some p =>
    let c := getCore s k
    modCore k (fun c => { c with abcur := 0, abend := 0, copyCur := 0, copyEnd := 0 })
      (retireBuffer k p c.copyCur c.copyEnd (retireBuffer k p c.abcur.toNat c.abend.toNat s))

end Sys2Proof.Machine
end

