-- ==== Sys2Proof/Machine/CoreReset.lean ====
section
/-!
DEFINITION. Machine/CoreReset.lean: what a core reset does (R140, R75, R78, R145, R190, R230), the reset of a third fault
(R125), and the start of core 0 of cluster 0 at a keeper entry (R398).
-/

namespace Sys2Proof.Machine

/-! ### Core reset (R140, R75, R78, R145) -/

/-- A firmware command fetched by a task that is lost completes with ABORTED_BY_RESET, scope 4 (R348). -/
def loseFirmware (p t k : Nat) (s : State) : State :=
  { s with cmds := s.cmds.map (fun c =>
      if c.op == 0x40 && c.stage == 2 && (c.fn == p || c.fn == 8) && c.taker == some (t, k) then { c with
        stage := 3
        status := 7
        detail := 4 } else c) }
/-- What a core reset leaves of the task a context holds. -/
def orphanTask (k : Nat) (c : Ctx) (s : State) : State :=
  match ctxTask c with
  | none => s
  | some (p, t) =>
    if c.ran then loseFirmware p t k (faultTask p t 5 k 0 s)
    else if stOf s p t = stRunning then tcbStatePut p t 2 0 stReady s else s

/-- The core-reset scope of a core: stores that retired drain, TLBIs it has sent complete (R165), everything returns to
reset, stopped, with new prediction keys, its epoch increments, and its tasks follow R140. An event this raises at the core
itself comes after its reset. -/
def resetCore (k : Nat) (s : State) : State :=
  let s0 := cleanCaches (fun x => x == l1dOf k || x == l1iOf k) (drainAll k (retireBuffers k s))
  let c := getCore s0 k
  let s1 := tlbiDrain k c.tlbis.length s0
  let a := drawWord s1
  let b := drawWord a.2
  let f : Ctx := { Ctx.atReset with key := a.1 }
  let g : Ctx := { Ctx.atReset with key := b.1 }
  let s2 := orphanTask k c.back (orphanTask k c.front
    (setCore k { CoreState.atReset with mcver := c.mcver, front := f, back := g } b.2))
  rebounce (setReg .CLU_CORE_EPOCH k (w64 ((fget s2 fldCLU_CORE_EPOCH_EPOCH k + 1) % 2 ^ 32))
    (fset fldCLU_CORE_BOOT_RUN k 0 s2))

/-- A third fault is counted in class CORE and recorded (R445). -/
def countThird (k : Nat) (cause : Word) (s : State) : State :=
  logFault ⟨6, 0, k, 0, 0, bitsOf cause 5 0, 0, 0⟩ (countFault 0 k true 0 0 s)

/-! ### Keeper entries (R398, R399) -/

/-- The cells of core-reset shape with s0 and s1 of R398: the cause of the entry with the boot number, and DEST. -/
def entryCells (s : State) (cause : Nat) : Sparse Cell :=
  let dest := match s.boot.keeper with
    | some g => g.dest
    | none => 0
  sparsePut (fun _ => cellVoid) 0 (cellRaw (w64 (cause + fget s fldSEC_BOOT_CNT_BOOT 0 * 2 ^ 32)))
    (sparsePut (fun _ => cellVoid) 1 (cellRaw (w64 dest)) [])

/-- A core at level K, as at core reset but for s0 and s1, runs from an entry. -/
def runAtEntry (k cause : Nat) (entry : Word) (s : State) : State :=
  fset fldCLU_CORE_BOOT_RUN k 1 (modCore k (fun c => { c with
    run := true
    front := { Ctx.atReset with
      key := c.front.key
      cells := entryCells s cause
      pc := entry
      npc := entry + 4 }
    s2ttb := 0
    vbrK := 0
    edtb := 0
    dfsp := 0 }) s)

/-- The keeper's entry on core 0 of cluster 0 (R398): cause 0 COLD, 1 WARM, 2 CORE. -/
def keeperEnter (cause : Nat) (s : State) : State :=
  match s.boot.keeper with
  | none => s
  | some g =>
    runAtEntry 0 cause (if cause = 0 then g.cold else g.warm)
      (setReg .GLB_KTTB 0 (w64 ((g.dest + g.ktab) / 4096 * 4096 % 2 ^ 44 + 1)) s)

/-- The sequencer stops with a code (R383, R390). -/
def bootFail (code img : Nat) (s : State) : State :=
  fset fldSEC_BOOT_STAT_IMG 0 img (fset fldSEC_BOOT_STAT_ERR 0 code (fset fldSEC_BOOT_STAT_STATE 0 5 s))

/-- The entry with cause CORE after a third fault of the keeper's core: eight within one second stop it (R399). -/
def keeperReenter (s : State) : State :=
  let l := s.dtime :: s.boot.entries.filter (fun t => decide (s.dtime < t + 2 ^ 64))
  let s1 := { s with boot := { s.boot with entries := l } }
  if 8 ≤ l.length then bootFail 0x0E 0 s1 else keeperEnter 2 s1

end Sys2Proof.Machine
end

