-- ==== Sys2Proof/Machine/Trap.lean ====
section
/-!
DEFINITION. Machine/Trap.lean: taking a trap and an event (R106, R115, R118), the double fault (R123), the third fault
(R125), and the return RETX makes (R120). Each is ONE operation that every instruction and event command shares.
-/

namespace Sys2Proof.Machine

/-- Why a cell of a vector table, level block, header or frame cannot be read or written: the address. -/
abbrev Unread := Word

/-- A read of the cell at a virtual address through the translation of level `pl` (R118). DEV cells are not read by
the hardware. -/
def readVa (s : State) (k pl : Nat) (va : Word) : Option (Cell × State) :=
  match xlate k pl .load va s with
  | .error _ => none
  | .ok (x, s') => some (coreLoad k x s')

/-- A whole-cell write at a virtual address through the translation of level `pl`. -/
def writeVa (s : State) (k pl : Nat) (va : Word) (c : Cell) : Option State :=
  match xlate k pl .store va s with
  | .error _ => none
  | .ok (x, s') => some (coreStore k x (wholeCell c) s')

/-- A whole-cell write that is performed at once, at the coherence point (R118). -/
def writeVaNow (s : State) (k pl : Nat) (va : Word) (c : Cell) : Option State :=
  match xlate k pl .store va s with
  | .error _ => none
  | .ok (x, s') => some (storeNow k x (wholeCell c) s')

/-- Whole-cell writes of consecutive cells; the state so far, and the address that failed if one did. -/
def writeVas (k pl : Nat) : Word → List Cell → State → State × Option Word
  | _, [], s => (s, none)
  | va, c :: cs, s =>
    match writeVa s k pl va c with
    | none => (s, some va)
    | some s' => writeVas k pl (va + 8) cs s'

/-- Reads of consecutive cells. -/
def readVas (k pl : Nat) : Nat → Word → State → Except Word (List Cell × State)
  | 0, _, s => .ok ([], s)
  | n + 1, va, s =>
    match readVa s k pl va with
    | none => .error va
    | some (c, s') =>
      match readVas k pl n (va + 8) s' with
      | .error a => .error a
      | .ok (cs, s'') => .ok (c :: cs, s'')

/-- What an entry saves, and where it goes. -/
structure Entry where
  /-- The handler's level H, its handler cell's address, whether it is an event, its number (vector or event). -/
  level : Nat
  event : Bool
  number : Nat
  tcause : Word
  taddr : Cell
  tprog : Cell
  /-- CONTEXT for CK0, on the entry of a well-formed event. -/
  context : Option Cell
deriving DecidableEq, Repr

/-- The vector base of a level (R106). -/
def vbrOf (s : State) (k level : Nat) : Word :=
  if level = 2 then (getCore s k).vbrK else (front s k).vbrS

/-- TCAUSE of a synchronous trap (R108). -/
def causeOf (t : Trap) (dslot : Bool) : Word :=
  let op := match t.opnd with
    | some (r, _) => r * 2 ^ 16 + 2 ^ 21
    | none => 0
  let seen := match t.opnd, t.seen with
    | some (_, g), _ => g.toNat
    | none, some g => g.toNat
    | none, none => 0
  w64 (t.vec % 64 + dslot.toNat * 128 + op + t.detail % 1024 * 2 ^ 22 + t.unitA % 4096 * 2 ^ 32 +
    t.unitB % 4096 * 2 ^ 44 + seen * 2 ^ 56)

/-- Minimum handler level of a vector (R107). -/
def vecMin (vec : Nat) : Nat :=
  if vec = vFetchS2 || vec = vDataS2 || vec = vKcall || vec = vEventDesc then 2 else 1

/-- The pending MH:ML writes of the front context complete (R60, R64). -/
def flushMul (c : Ctx) : Ctx :=
  c.mulq.foldl (fun x p => { x with mh := p.1, ml := p.2 }) { c with mulq := [] }

/-- A budget after the counting that stopped at a trap point (R116): NIBRUN = 1 with what is left. -/
def pstatEnter (p : Word) (level nib : Nat) : Word :=
  let base := putBits (putBits p 19 0 0) 5 5 (bitsOf p 5 5)
  let p1 := putBits (putBits (putBits base 1 0 level) 3 3 1) 4 4 1
  if nib = 0 then putBit p1 2 true else putBits (putBit p1 7 true) 19 8 nib

/-- The fault record of a core (R445): four words. -/
def coreRecord (k : Nat) (w : List Word) (s : State) : State :=
  (List.range 4).foldl (fun t i => setReg .FLT_CORE_REC (4 * k + i) (w.getD i 0) t) s

/-- A reset of the core's cluster, or of the device, is under way (R433). -/
def resetting (s : State) (k : Nat) : Bool := fbit s fldCLU_RESET_BUSY (k / 8) || fbit s fldGLB_RESET_PENDING 0

/-- Third fault (R125, R445): the fault record is written, the event counted and recorded, the core is reset, CORE_RESET is
raised at core 0 of cluster 0, and core 0 itself restarts at the keeper's warm entry. During a wider reset no separate
reset is made: the core stops (R433). -/
def thirdFault (k : Nat) (cause : Word) (stepThree : Bool) (s : State) : State :=
  let c := getCore s k
  let why := w64 (bitsOf cause 5 0 + bitsOf cause 6 6 * 64 + stepThree.toNat * 128)
  let s1 := coreRecord k [c.mtcause, c.mtpc, c.mtaddr.data, why] s
  if resetting s k then modCore k (fun x => { x with run := false }) (countThird k cause s1)
  else
    let s2 := raiseEvent 0 1 (resetCore k (countThird k cause s1))
    if k = 0 then keeperReenter s2 else s2

/-- The double fault (R123): the MANTLE receives the failed entry, MK15 = DFSP, level K with MB = 1, and the handler at
VBR_K + 0 issues; while PSTAT.MB = 1 already, a third fault. -/
def doubleFault (k detail : Nat) (e : Entry) (mtaddr : Word) (pop : Bool) (s : State) : State :=
  let c := getCore s k
  let cause := if pop then w64 (detail * 2 ^ 22)
    else putBits (putBits (putBits e.tcause 5 0 0) 31 22 detail) 15 8 e.number
  if mbOf c.front then thirdFault k e.tcause false s
  else
    let c1 := { c with
      mtpc := addrField c.front.pc
      mtnpc := addrField c.front.npc
      mtstat := pstatRead c.front
      mtcause := cause
      mtaddr := cellRaw mtaddr
      mtprog := if pop then cellVoid else e.tprog
      mantle := sparsePut (fun _ => cellVoid) 15 (cellRaw c.dfsp) c.mantle
      front := { flushMul c.front with
        pstat := putBits (putBits (putBits c.front.pstat 19 6 0) 5 5 1) 2 0 2
        dslot := false
        shadow := none
        latch := cellVoid } }
    let s1 := setCore k c1 s
    match readVa s1 k 2 c1.vbrK with
    | some (h, s2) =>
      if h.tag = tagCodeptr && ptrOk h.data then
        modFront k (fun x => { x with pc := h.data, npc := h.data + 4 }) s2
      else thirdFault k (w64 0) true s2
    | none => thirdFault k (w64 0) true s1

/-- Cell 66 of a level block gives SYNC_NIB (R106, R118); none when it fails. -/
def syncNib (s : State) (k level : Nat) : Option Nat :=
  match readVa s k level (vbrOf s k level + 0x210) with
  | none => none
  | some (c, _) => if c.tag = tagRaw64 && bitsOf c.data 63 12 == 0 then some (bitsOf c.data 11 0) else none

/-- The handler address at a cell: tagged CODEPTR and obeying R24 (R118). -/
def handlerAt (s : State) (k level : Nat) (va : Word) : Option Word :=
  match readVa s k level va with
  | none => none
  | some (c, _) => if c.tag = tagCodeptr && ptrOk c.data then some c.data else none

/-- The push frame (R118). -/
def pushFrame (c : Ctx) (tcause : Word) : List Cell :=
  (List.range 16).map (fun i => sparseGet (fun _ => cellVoid) c.ck i) ++
  [cellRaw c.tpc, cellRaw c.tnpc, cellRaw c.tstat, cellRaw c.tcause, c.taddr, c.tprog, cellRaw tcause, cellRaw 0]

/-- A header cell's form: RAW64 with bits [5:0] and [63:48] zero (R118). -/
def headerOk (c : Cell) : Bool := c.tag == tagRaw64 && bitsOf c.data 5 0 == 0 && bitsOf c.data 63 48 == 0

/-- Step 3 of entry (R118): the push. The state with the frame stored and TOP moved, or the detail and address of the
failure with what was stored. -/
def pushStep (k level : Nat) (hdr : Word) (tcause : Word) (s : State) : Except (Nat × Word × State) State :=
  match readVas k level 2 hdr s with
  | .error a => .error (4, a, s)
  | .ok (cells, s1) =>
    let top := cells.getD 0 cellVoid
    let floor := cells.getD 1 cellVoid
    if !(headerOk top && headerOk floor) then .error (2, hdr, s)
    else if top.data.toNat < 192 + floor.data.toNat then .error (3, hdr, s)
    else
      match writeVas k level (top.data - 192) (pushFrame (front s1 k) tcause) s1 with
      | (s2, some a) => .error (4, a, s2)
      | (s2, none) =>
        match writeVaNow s2 k level hdr (cellRaw (top.data - 192)) with
        | none => .error (4, hdr, s2)
        | some s3 => .ok s3

/-- An event that is entered is no longer pending (R115); one whose entry fails stays pending (R123). -/
def takenEvent (k : Nat) (e : Entry) (s : State) : State :=
  if e.event then modCore k (fun c => { c with events := c.events.filter (fun x => x != e.number) }) s else s

/-- Steps 3 to 6 of entry (R118): push when CB = 1, write the CLOAK, set PSTAT, go to the handler. -/
def enterHandler (k : Nat) (e : Entry) (handler hdr : Word) (nib : Nat) (s : State) : State :=
  let c := front s k
  let pushed : Except (Nat × Word × State) State :=
    if cbOf c then pushStep k e.level hdr e.tcause s else .ok s
  match pushed with
  | .error (d, a, s') => doubleFault k d e a false s'
  | .ok s1 =>
    modFront k (fun x =>
      let y := flushMul x
      { y with
        tpc := addrField x.pc
        tnpc := addrField x.npc
        tcause := e.tcause
        taddr := e.taddr
        tprog := e.tprog
        tstat := if cbOf c then putBits (pstatRead x) 61 20 (bitsOf hdr 47 6) else pstatRead x
        ck := match e.context with
          | some cell => sparsePut (fun _ => cellVoid) 0 cell x.ck
          | none => x.ck
        pstat := pstatEnter x.pstat e.level nib
        pc := handler
        npc := handler + 4
        dslot := false
        shadow := none
        latch := cellVoid }) (takenEvent k e s1)

/-- The number of wrong-path cells a redirect leaves is open (R77): a free number is added. -/
def wrongPathCount (k n : Nat) (s : State) : State :=
  let d := drawNat s
  modCore k (fun c => { c with wrongPath := c.wrongPath + w64 (n + d.1) }) d.2

/-- Taking a synchronous trap whose progress record is `prog` (R95, R106, R118). -/
def takeTrapWith (k : Nat) (t : Trap) (prog : Cell) (s0 : State) : State :=
  let s := wrongPathCount k 0 s0
  let c := front s k
  let cause := causeOf t c.dslot
  let h := max (plOf c) (vecMin t.vec)
  let taddr := match t.addr with
    | some a => cellRaw a
    | none => cellVoid
  let e : Entry := ⟨h, false, t.vec, cause, taddr, prog, none⟩
  if mbOf c then thirdFault k cause false s
  else
    let va := vbrOf s k h + w64 (8 * t.vec)
    match handlerAt s k h va with
    | none => doubleFault k 1 e va false s
    | some handler =>
      match syncNib s k h with
      | none => doubleFault k 1 e (vbrOf s k h + 0x210) false s
      | some nib => enterHandler k e handler (vbrOf s k h + 0x200) nib s

/-- Taking a synchronous trap: TPROG receives the latch of the first instruction after a return, else VOID (R95). -/
def takeTrap (k : Nat) (t : Trap) (s : State) : State := takeTrapWith k t (progOf (front s k)) s

/-! ### Events -/

/-- An event descriptor (R112). -/
structure Descriptor where
  handler : Cell
  ctl : Cell
  push : Cell
  context : Cell
deriving DecidableEq, Repr

/-- The descriptor of event `e` at level K: none when it cannot be read, with the address that failed. -/
def readDescriptor (s : State) (k e : Nat) : Except Word Descriptor :=
  let va := (getCore s k).edtb + w64 (32 * e)
  match readVas k 2 4 va s with
  | .error a => .error a
  | .ok (cs, _) =>
    match (List.range 3).find? (fun i => (cs.getD i cellVoid).tag == tagPoison) with
    | some i => .error (va + w64 (8 * i))
    | none => .ok ⟨cs.getD 0 cellVoid, cs.getD 1 cellVoid, cs.getD 2 cellVoid, cs.getD 3 cellVoid⟩

/-- A well-formed descriptor (R112). -/
def Descriptor.ok (d : Descriptor) : Bool :=
  d.handler.tag == tagCodeptr && ptrOk d.handler.data && d.ctl.tag == tagRaw64 && d.push.tag == tagRaw64 &&
  bitOf d.ctl.data 0 && (bitsOf d.ctl.data 2 1 == 1 || bitsOf d.ctl.data 2 1 == 2) &&
  bitsOf d.ctl.data 3 3 == 0 && bitsOf d.ctl.data 63 16 == 0 && bitsOf d.push.data 5 0 == 0 &&
  bitsOf d.push.data 63 48 == 0

/-- The target level of a pending event (R115): a descriptor malformed or unreadable has K. -/
def eventLevel (s : State) (k e : Nat) : Nat :=
  match readDescriptor s k e with
  | .error _ => 2
  | .ok d => if d.ok then bitsOf d.ctl.data 2 1 else 2

/-- Whether an event of level L may be taken in the front context (R115, R63). -/
def eventPermitted (c : Ctx) (l : Nat) : Bool :=
  !mbOf c && c.shadow.isNone && (decide (plOf c < l) || (l == plOf c && eeOf c))

/-- The event that goes first among those that can be taken: level K before S, then the lowest number (R115). -/
def eventChoice (s : State) (k : Nat) : Option Nat :=
  let can := (getCore s k).events.filter (fun e => eventPermitted (front s k) (eventLevel s k e))
  match can.find? (fun e => eventLevel s k e == 2) with
  | some e => some e
  | none => can.head?

/-- Entry of a pending event (R112, R118), with `prog` the progress of an interrupted long instruction. DESIGN CHOICE (log):
DETAIL of event 0x00 keeps the origin kind also where the entry is one of EVENT_DESC. -/
def takeEvent (k e : Nat) (prog : Cell) (s0 : State) : State :=
  let s := wrongPathCount k 0 s0
  let c := getCore s k
  let detail := if e = 0 then c.storeErr.2 else 0
  let taddr := if e = 0 then cellRaw c.storeErr.1 else cellVoid
  let base := 64 + c.front.dslot.toNat * 128 + e % 256 * 256 + detail % 1024 * 2 ^ 22
  match readDescriptor s k e with
  | .error a => doubleFault k 6 ⟨2, true, e, w64 base, taddr, prog, none⟩ a false s
  | .ok d =>
    if d.ok then
      let l := bitsOf d.ctl.data 2 1
      let hdr := if d.push.data = 0 then vbrOf s k l + 0x200 else d.push.data
      enterHandler k ⟨l, true, e, w64 base, taddr, prog, some d.context⟩ d.handler.data hdr
        (bitsOf d.ctl.data 15 4) s
    else
      let ent : Entry := ⟨2, true, e, w64 (base + vEventDesc), cellRaw (c.edtb + w64 (32 * e)), prog, none⟩
      let va := vbrOf s k 2 + w64 (8 * vEventDesc)
      match handlerAt s k 2 va with
      | none => doubleFault k 1 ent va false s
      | some handler =>
        match syncNib s k 2 with
        | none => doubleFault k 1 ent (vbrOf s k 2 + 0x210) false s
        | some nib => enterHandler k ent handler (vbrOf s k 2 + 0x200) nib s

/-! ### RETX (R120) -/

/-- The saved set of the bank RETX returns from. -/
structure SavedSet where
  pc : Word
  npc : Word
  stat : Word
  prog : Cell
  dslot : Bool
deriving DecidableEq, Repr

def savedSet (c : CoreState) : SavedSet :=
  if mbOf c.front then ⟨c.mtpc, c.mtnpc, c.mtstat, c.mtprog, bitOf c.mtcause 7⟩
  else ⟨c.front.tpc, c.front.tnpc, c.front.tstat, c.front.tprog, bitOf c.front.tcause 7⟩

/-- The checks of step 1 of R120, in order. -/
def retxCheck (c : CoreState) : Option Trap :=
  let v := savedSet c
  if plOf c.front = 0 then some (privOp 0)
  else if bitsOf v.stat 1 0 = 3 || plOf c.front < bitsOf v.stat 1 0 then some (trapOf vPrivRestore 0)
  else if bitsOf v.pc 1 0 != 0 || bitsOf v.pc 63 48 != 0 || bitsOf v.npc 1 0 != 0 || bitsOf v.npc 63 48 != 0 ||
    bitOf v.stat 5 then some (illegalOp 3)
  else none

/-- PSTAT from a saved TSTAT: NIB_EXPIRED and PHDR cleared (R120). -/
def pstatRestore (t : Word) : Word := putBits (putBit t 6 false) 63 20 0

/-- RETX after its checks: pop when a handler is resumed, commit, and continue at the saved TPC (R120). Without a pop the
TPROG of the bank returned from becomes VOID (R95); reserved bits of a frame's cells are not kept (R9). -/
def doRetx (k : Nat) (s0 : State) : State :=
  let s := wrongPathCount k 0 s0
  let c := getCore s k
  let v := savedSet c
  let resume (x : Ctx) : Ctx :=
    { flushMul x with
      pstat := pstatRestore v.stat
      pc := v.pc
      npc := v.npc
      dslot := v.dslot
      latch := v.prog
      fresh := true
      shadow := none }
  if mbOf c.front then modCore k (fun d => { d with mtprog := cellVoid }) (modFront k resume s)
  else if !bitOf v.stat 3 then modFront k (fun x => { resume x with tprog := cellVoid }) s
  else
    let hdr := w64 (bitsOf v.stat 61 20 * 64)
    let fail (a : Word) : State :=
      doubleFault k 5 ⟨2, false, 0, 0, cellVoid, cellVoid, none⟩ a true s
    match readVas k (plOf c.front) 2 hdr s with
    | .error a => fail a
    | .ok (hs, s1) =>
      if !(headerOk (hs.getD 0 cellVoid) && headerOk (hs.getD 1 cellVoid)) then fail hdr
      else
        let top := (hs.getD 0 cellVoid).data
        match readVas k (plOf c.front) 24 top s1 with
        | .error a => fail a
        | .ok (fr, s2) =>
          match writeVaNow s2 k (plOf c.front) hdr (cellRaw (top + 192)) with
          | none => fail hdr
          | some s3 =>
            modFront k (fun x => { resume x with
              ck := (List.range 16).foldl
                (fun m i => sparsePut (fun _ => cellVoid) i (fr.getD i cellVoid) m) x.ck
              tpc := addrField (fr.getD 16 cellVoid).data
              tnpc := addrField (fr.getD 17 cellVoid).data
              tstat := putBits (fr.getD 18 cellVoid).data 63 62 0
              tcause := (fr.getD 19 cellVoid).data
              taddr := fr.getD 20 cellVoid
              tprog := fr.getD 21 cellVoid }) s3

end Sys2Proof.Machine
end

