-- ==== Sys2Proof/Machine/Run.lean ====
section
/-!
DEFINITION. Machine/Run.lean: how one instruction of a front context runs: whether it may run, what it does to PC and
NPC (R69, R70), the load shadow (R63), the progress latch (R95), and the training of the predictors (R73, R74).
-/

namespace Sys2Proof.Machine

/-- What an instruction does to the flow of control. -/
inductive Flow where
  /-- The next instruction in order. -/
  | seq
  /-- As seq; a load wrote the register at a location, which held a cell before (R63). -/
  | loaded (loc : Nat) (old : Cell)
  /-- A transfer with a delay slot: taken or not, whether the slot executes, the destination. -/
  | branch (taken slot : Bool) (target : Word)
  /-- The body has set PC and NPC. -/
  | placed
deriving DecidableEq, Repr

/-- A body: the checks and effect of an instruction on core k, or the trap it raises. -/
abbrev Body := State → Except Trap (State × Flow)

/-- A reset or a move stops core `k` where it stands (R149, R150, R431, R432): a partition or cluster reset, or a device warm
reset whose ramps have ended, at a point where R126 permits a switch or in the MANTLE; a move of the core only at the
former. A core whose class action is OFFLINE stops the same way (R443). -/
def halting (s : State) (k : Nat) : Bool :=
  let x := front s k
  (!cbOf x && !mbOf x && fbit s fldCLU_CORE_PART_MOVING k) ||
  ((mbOf x || !cbOf x) && (fbit s fldCLU_RESET_BUSY (k / 8) || s.faultActs.any (fun a => a.act == 6 && a.unit == k && k != 0) ||
    (match partOf s k with
      | some p => fget s fldGLB_PART_CTL_STATE p == 3
      | none => false) ||
    (fbit s fldGLB_RESET_PENDING 0 && (List.range 64).all (fun o => fget s fldDRV_OUT_STAT_STATE o != 2))))

/-- Core `k` runs, and nothing stops it where it stands. -/
def going (s : State) (k : Nat) : Bool := (getCore s k).run && !halting s k

/-- The front context executes: the core runs, and on a partition's core at level T its task is RUNNING (R131). -/
def canRun (s : State) (k : Nat) : Bool :=
  let c := getCore s k
  going s k && (plOf c.front != 0 || (match partOf s k with
    | none => true
    | some p => match ctxTask c.front with
      | none => false
      | some (_, t) => stOf s p t == stRunning))

/-- PC, NPC, delay-slot mark and load shadow after an instruction; the latch is no longer that of a first instruction. -/
def stepFlow (f : Flow) (x : Ctx) : Ctx :=
  let y := { x with fresh := false, ran := true, shadow := none }
  match f with
  | .seq => { y with pc := x.npc, npc := x.npc + 4, dslot := false }
  | .loaded l old =>
    { y with pc := x.npc, npc := x.npc + 4, dslot := false
             shadow := if bitOf x.cmode 0 then some (l, old) else none }
  | .branch true true t => { y with pc := x.npc, npc := t, dslot := true }
  | .branch true false t => { y with pc := t, npc := t + 4, dslot := false }
  | .branch false _ _ => { y with pc := x.npc, npc := x.npc + 4, dslot := true }
  | .placed => { x with ran := true }

/-- The end of an instruction that completed: an annulled delay slot counts as a wrong-path fetch (R70, R77). -/
def finish (k : Nat) (f : Flow) (s : State) : State :=
  let s1 := modFront k (stepFlow f) s
  match f with
  | .branch true false _ => wrongPathCount k 1 s1
  | _ => s1

/-- One instruction of core k: the register units of its frame are scanned when a cycle asks it (R218); then its effect,
or the trap it takes. -/
def runInstr (k : CoreId) (body : Body) (s : State) : Host.Outcome State Fault Refusal :=
  if canRun s k.val then
    match preScan k.val s with
    | .error f => .next (takeTrap k.val (xTrap f .load (w64 f.ipa)) s)
    | .ok s1 =>
      match body s1 with
      | .error t => .next (takeTrap k.val t s1)
      | .ok (s', f) => .next (finish k.val f s')
  else .next s

/-- A result for rd: the register is written and execution goes on. -/
def done (k : CoreId) (rd : Gpr) (v : Cell) (s : State) : Except Trap (State × Flow) :=
  .ok (writeReg k.val rd v s, .seq)

/-- A body that first checks its operands. -/
def withOps (ops : List Opnd) (next : Except Trap (State × Flow)) : Except Trap (State × Flow) :=
  match checkOps ops with
  | .error t => .error t
  | .ok _ => next

/-- A body that a condition turns into a trap. -/
def guardTrap (bad : Bool) (t : Trap) (next : Except Trap (State × Flow)) : Except Trap (State × Flow) :=
  if bad then .error t else next

/-- A control transfer, RETX or TRAP in a delay slot is illegal (R71). -/
def notInSlot (s : State) (k : CoreId) (next : Except Trap (State × Flow)) : Except Trap (State × Flow) :=
  guardTrap (front s k.val).dslot (illegalOp 1) next

/-- A level the instruction needs (R104). -/
def needLevel (s : State) (k : CoreId) (pl : Nat) (next : Except Trap (State × Flow)) :
    Except Trap (State × Flow) :=
  guardTrap (decide (plOf (front s k.val) < pl)) (privOp 0) next

/-! ### Prediction (R73, R74) -/

/-- The direction-table index of a branch. -/
def dirIndex (x : Ctx) : Nat := Nat.xor (bitsOf x.pc 14 2) (x.history.toNat % 2 ^ 13)

/-- The static rule (R74): a negative displacement is predicted taken; the hint reverses it. -/
def staticTaken (disp : Int) (hint : Bool) : Bool := decide (disp < 0) != hint

/-- Whether a conditional branch is predicted taken (R74); counters are stored plus 1, 0 is invalid. -/
def predictsTaken (c : CoreState) (disp : Int) (hint : Bool) : Bool :=
  let entry := sparseGet (fun _ => 0) c.dirs (dirIndex c.front)
  if c.front.predStatic || entry = 0 then staticTaken disp hint else decide (3 ≤ entry)

/-- A transfer that was predicted wrongly leaves wrong-path fetches behind (R77); one without a prediction stops fetch and
leaves none (R73). -/
def redirect (k : Nat) (wrong : Bool) (s : State) : State := if wrong then wrongPathCount k 0 s else s

/-- A retiring conditional branch trains its entry and the history (R74). -/
def trainDir (k : Nat) (taken : Bool) (s : State) : State :=
  modFront k (fun y => { y with history := BitVec.ofNat 16 (y.history.toNat * 2 + taken.toNat) }) (modCore k (fun c =>
    let i := dirIndex c.front
    let old := sparseGet (fun _ => 0) c.dirs i
    let new := if old = 0 then (if taken then 3 else 2)
      else if taken then min 4 (old + 1) else max 1 (old - 1)
    { c with dirs := sparsePut (fun _ => 0) i new c.dirs }) s)

/-- The return stack: pushed by CALL and linking JMPL, popped by RET; 8 entries. -/
def pushReturn (k : Nat) (a : Word) (s : State) : State :=
  modFront k (fun x => { x with rstack := (a :: x.rstack).take 8 }) s

def popReturn (k : Nat) (s : State) : State := modFront k (fun x => { x with rstack := x.rstack.drop 1 }) s

/-- The set of the indirect-target table for the present PC (R73). -/
def targetSet (x : Ctx) : Nat :=
  Nat.xor (Nat.xor (bitsOf x.pc 9 2) (nbits x.history.toNat 15 8)) (nbits x.history.toNat 7 0)

/-- The tag of an indirect transfer in a context, scrambled (R75). DESIGN CHOICE (log): R73 does not say which bits of PC the
16 tag bits are; here [25:10], the ones above the set's. -/
def targetTag (x : Ctx) : BitVec 16 := BitVec.ofNat 16 (Nat.xor (bitsOf x.pc 25 10) (nbits x.key.toNat 61 46))

/-- The target the indirect-target table predicts, decoded with the key of the context that looks up (R73, R75). -/
def predictsTarget (c : CoreState) : Option Word :=
  if c.front.predStatic then none
  else
    (c.targets.find? (fun e => e.set == targetSet c.front && e.tag == targetTag c.front)).map
      (fun e => w64 (Nat.xor e.target.toNat (nbits c.front.key.toNat 45 0) * 4))

/-- The target RET is predicted to have: from the return stack, or from the table when that is empty (R73). -/
def predictsReturn (c : CoreState) : Option Word :=
  match c.front.rstack with
  | a :: _ => some a
  | [] => predictsTarget c

/-- Another target than the actual one was predicted. -/
def wrongTarget (p : Option Word) (target : Word) : Bool :=
  match p with
  | none => false
  | some a => a != target

/-- An indirect transfer trains the indirect-target table under the context's key (R73, R75). -/
def trainTarget (k : Nat) (target : Word) (s : State) : State :=
  if (front s k).predStatic then s
  else
    modCore k (fun c =>
      let x := c.front
      let set := targetSet x
      let tag := targetTag x
      let tgt := BitVec.ofNat 46 (Nat.xor (bitsOf target 47 2) (nbits x.key.toNat 45 0))
      let bits := sparseGet (fun _ => 0) c.targetLru set
      let way := match c.targets.find? (fun e => e.set == set && e.tag == tag) with
        | some e => e.way
        | none => (plruVictim 2 bits (fun _ => true)
            (fun w => c.targets.any (fun e => e.set == set && e.way == w))).getD 0
      { c with
        targets := ⟨set, way, tag, tgt⟩ :: c.targets.filter (fun e => !(e.set == set && e.way == way))
        targetLru := sparsePut (fun _ => 0) set (plruTouch 2 bits 1 way) c.targetLru }) s

end Sys2Proof.Machine
end

