-- ==== Sys2Proof/Machine/Generic.lean ====
section
/-!
DEFINITION. Machine/Generic.lean: generic arithmetic and comparison (R30, R43 to R46, R49 of 02_cells_tags_units.md;
R86 of 04; phases by R234 of 10_phase_engine.md).
-/

namespace Sys2Proof.Machine

inductive GenOp where
  | add | sub | mul | div
deriving DecidableEq, Repr

inductive CmpOp where
  | eq | lt | le
deriving DecidableEq, Repr

/-- The tags generic operations accept in some combination (R29). -/
def tagGeneric (t : Tag) : Bool :=
  t == tagFix || t == tagFlo || t == tagF32x2 || t == tagI32x2 || t == tagQ32 || isMeas t || isPhase t

/-- A combination of tags that no row of R30 names: the leftmost operand is reported (R29). -/
def badCombo (ra : Gpr) (a : Cell) : Trap := trapOn vTagCheck 1 ra.val a.tag

/-- FIX with FIX (R30). -/
def fixOp (op : GenOp) (a b : Word) : Except Trap Cell :=
  let x := a.toInt
  let y := b.toInt
  match op with
  | .add => if fitsI64 (x + y) then .ok (cellFixI (x + y)) else .error (trapOf vFixOverflow 0)
  | .sub => if fitsI64 (x - y) then .ok (cellFixI (x - y)) else .error (trapOf vFixOverflow 0)
  | .mul => if fitsI64 (x * y) then .ok (cellFixI (x * y)) else .error (trapOf vFixOverflow 0)
  | .div =>
    if y = 0 then .error (trapOf vFixOverflow 1)
    else if fitsI64 (x.tdiv y) then .ok (cellFixI (x.tdiv y)) else .error (trapOf vFixOverflow 0)

/-- The payload of FIX or Q32 in units of 2^-32. -/
def q32Of (c : Cell) : Int := if c.tag = tagFix then c.data.toInt * 2 ^ 32 else c.data.toInt

/-- FIX or Q32 with Q32 (R30): Q32, rounded to nearest even at 2^-32. -/
def q32Op (op : GenOp) (a b : Cell) : Except Trap Cell :=
  let x := q32Of a
  let y := q32Of b
  let fit (i : Int) : Except Trap Cell :=
    if fitsI64 i then .ok ⟨tagQ32, wordOfInt i⟩ else .error (trapOf vFixOverflow 0)
  match op with
  | .add => fit (x + y)
  | .sub => fit (x - y)
  | .mul => fit (roundInt (decide (x * y < 0)) (x * y).natAbs (2 ^ 32))
  | .div =>
    if y = 0 then .error (trapOf vFixOverflow 1)
    else fit (roundInt (decide (x < 0) != decide (y < 0)) (x.natAbs * 2 ^ 32) y.natAbs)

/-- The exact operation on values. -/
def fvOp (op : GenOp) (a b : FV) : FV :=
  match op with
  | .add => fvAdd a b
  | .sub => fvSub a b
  | .mul => fvMul a b
  | .div => fvDiv a b

/-- FLO with a number (R30): the other operand is converted to binary64 first. -/
def floOp (op : GenOp) (a b : Cell) : Cell :=
  ⟨tagFlo, floOf (fvOp op (fvRound fmt64 (numVal a)) (fvRound fmt64 (numVal b)))⟩

/-- Lane-wise binary32. -/
def f32Op (op : GenOp) (a b : Word) : Cell :=
  let lane (i : Nat) : Nat :=
    fvTo fmt32 (fvOp op (fvOf fmt32 (bitsOf a (32 * i + 31) (32 * i))) (fvOf fmt32 (bitsOf b (32 * i + 31) (32 * i))))
  ⟨tagF32x2, w64 (lane 0 + lane 1 * 2 ^ 32)⟩

/-- Lane-wise 32-bit integers, wrapping; a zero divisor raises FIX_OVERFLOW. -/
def i32Op (op : GenOp) (a b : Word) : Except Trap Cell :=
  let x (w : Word) (i : Nat) : Int := signedOf 32 (bitsOf w (32 * i + 31) (32 * i))
  let lane (i : Nat) : Nat :=
    let r := match op with
      | .add => x a i + x b i
      | .sub => x a i - x b i
      | .mul => x a i * x b i
      | .div => (x a i).tdiv (x b i)
    (r % 2 ^ 32).toNat
  if op = .div && (x b 0 = 0 || x b 1 = 0) then .error (trapOf vFixOverflow 1)
  else .ok ⟨tagI32x2, w64 (lane 0 + lane 1 * 2 ^ 32)⟩

/-! ### Measurands -/

/-- UNIT_MISS UNDEFINED of the leftmost operand whose unit is undefined (R48). -/
def missUndefined (s : State) (ra rb : Gpr) (ca cb : Cell) (a b : MOp) : Option Trap :=
  if a.meas && !unitDefined s a.unit then some (unitMiss 1 a.unit b.unit (some (ra.val, ca.tag)))
  else if b.meas && !unitDefined s b.unit then some (unitMiss 1 a.unit b.unit (some (rb.val, cb.tag)))
  else none

/-- ADD and SUB of two measurand operands of defined units (R43, R46). -/
def measAddSub (s : State) (sub : Bool) (a b : MOp) : Except Trap Cell :=
  let bothAff := unitAffine s a.unit && unitAffine s b.unit
  let fl := Nat.lor a.flags b.flags
  let f := if sub then fvSub else fvAdd
  let fin := isFin a.val && isFin b.val
  if unitDim s a.unit = unitDim s b.unit && bothAff && sub && (namedUnit s (unitDim s a.unit)).isNone then
    .error (unitMiss 3 a.unit b.unit none)
  else if unitLog s a.unit || unitLog s b.unit then .error (unitMismatch 3 a.unit b.unit)
  else if unitDim s a.unit != unitDim s b.unit then .error (unitMismatch 1 a.unit b.unit)
  else if bothAff then
    if sub then
      .ok (measCell (fvSub (toNamed s a.val a.unit) (toNamed s b.val b.unit))
        ((namedUnit s (unitDim s a.unit)).getD 0) fl fin)
    else .error (unitMismatch 2 a.unit b.unit)
  else if unitAffine s a.unit then .ok (measCell (f a.val (convScale s b.val b.unit a.unit)) a.unit fl fin)
  else if unitAffine s b.unit then
    if sub then .error (unitMismatch 2 a.unit b.unit)
    else .ok (measCell (fvAdd (convScale s a.val a.unit b.unit) b.val) b.unit fl fin)
  else .ok (measCell (f a.val (convVal s b.val b.unit a.unit)) a.unit fl fin)

/-- The value and the scale with which an operand enters a product: AFFINE operands first become absolute (R44). -/
def absOperand (s : State) (m : MOp) : FV × FV :=
  if unitAffine s m.unit then (toNamed s m.val m.unit, .fin false 1 1) else (m.val, unitScale s m.unit)

/-- MUL and DIV of two measurand operands of defined units (R44, R46): the cell, and k as the product cache keeps it. -/
def measMulDiv (s : State) (div : Bool) (a b : MOp) : Except Trap (Cell × Nat × Word) :=
  match dimComb (if div then (fun x y => x - y) else (fun x y => x + y)) (unitDim s a.unit) (unitDim s b.unit) with
  | none => .error (unitMiss 2 a.unit b.unit none)
  | some dim =>
    match namedUnit s dim with
    | none => .error (unitMiss 3 a.unit b.unit none)
    | some w =>
      if unitLog s a.unit || unitLog s b.unit then .error (unitMismatch 3 a.unit b.unit)
      else
        let xa := absOperand s a
        let xb := absOperand s b
        let k := fvRound fmt64 (if div then fvDiv xa.2 xb.2 else fvMul xa.2 xb.2)
        let r := fvMul (if div then fvDiv xa.1 xb.1 else fvMul xa.1 xb.1) k
        .ok (measCell r w (Nat.lor a.flags b.flags) (isFin a.val && isFin b.val), w, floOf k)

/-- A measurand times or divided by a number keeps its unit (R30). -/
def measByNumber (s : State) (op : GenOp) (a b : MOp) (unit : Nat) : Except Trap Cell :=
  if unitLog s unit then .error (unitMismatch 3 a.unit b.unit)
  else .ok (measCell (fvOp op a.val b.val) unit (Nat.lor a.flags b.flags) (isFin a.val && isFin b.val))

/-- Comparison of two measurand operands of defined units (R45, R46). -/
def measCmp (s : State) (a b : MOp) : Except Trap (Option Ordering) :=
  if unitLog s a.unit || unitLog s b.unit then
    if a.unit = b.unit then .ok (fvCmp a.val b.val) else .error (unitMismatch 3 a.unit b.unit)
  else if unitDim s a.unit != unitDim s b.unit then .error (unitMismatch 1 a.unit b.unit)
  else if unitAffine s a.unit && unitAffine s b.unit then
    .ok (fvCmp (toNamed s a.val a.unit) (toNamed s b.val b.unit))
  else .ok (fvCmp a.val (convVal s b.val b.unit a.unit))

/-- A measurand with a measurand or a number, in either order. -/
def measPair (a b : Tag) : Bool :=
  (isMeas a && isMeas b) || (isMeas a && isNumber b) || (isNumber a && isMeas b)

/-! ### The operations -/

/-- FIX or Q32. -/
def tagFixQ (t : Tag) : Bool := t == tagFix || t == tagQ32

/-- The arithmetic of R30 on two cells of accepted tags: the result and the state with the product cache consulted. -/
def genArith (k : CoreId) (op : GenOp) (ra rb : Gpr) (a b : Cell) (s : State) : Except Trap (Cell × State) :=
  let ret (r : Except Trap Cell) : Except Trap (Cell × State) :=
    match r with
    | .error t => .error t
    | .ok c => .ok (c, s)
  if a.tag = tagFix && b.tag = tagFix then ret (fixOp op a.data b.data)
  else if tagFixQ a.tag && tagFixQ b.tag then ret (q32Op op a b)
  else if (a.tag = tagFlo && isNumber b.tag) || (isNumber a.tag && b.tag = tagFlo) then ret (.ok (floOp op a b))
  else if a.tag = tagF32x2 && b.tag = tagF32x2 then ret (.ok (f32Op op a.data b.data))
  else if a.tag = tagI32x2 && b.tag = tagI32x2 then ret (i32Op op a.data b.data)
  else if measPair a.tag b.tag then
    let x := mopOf a
    let y := mopOf b
    match missUndefined s ra rb a b x y with
    | some t => .error t
    | none =>
      match op with
      | .add => ret (measAddSub s false x y)
      | .sub => ret (measAddSub s true x y)
      | _ =>
        if x.meas && !y.meas then ret (measByNumber s op x y x.unit)
        else if !x.meas && op = .mul then ret (measByNumber s op x y y.unit)
        else
          let o := if op = .div then 2 else 1
          match measMulDiv s (op = .div) x y with
          | .error t => .error t
          | .ok (c, w, kk) => .ok (c, modCore k.val (productTouch o x.unit y.unit w kk) s)
  else if isPhase a.tag && (op = .add || op = .sub) then
    if tagFixQ b.tag then
      let d : Word := if b.tag = tagFix then b.data <<< 32 else b.data
      ret (.ok ⟨a.tag, if op = .add then a.data + d else a.data - d⟩)
    else if isPhase b.tag then
      if a.tag = b.tag then
        (if op = .sub then ret (.ok ⟨tagQ32, a.data - b.data⟩) else .error (badCombo ra a))
      else .error { vec := vPhaseSource, opnd := some (ra.val, a.tag) }
    else .error (badCombo ra a)
  else .error (badCombo ra a)

/-- The order of two cells of accepted tags (R30, R45, R234): none when unordered. -/
def genCompare (s : State) (ra rb : Gpr) (a b : Cell) : Except Trap (Option Ordering) :=
  if isNumber a.tag && isNumber b.tag then .ok (fvCmp (numVal a) (numVal b))
  else if measPair a.tag b.tag then
    let x := mopOf a
    let y := mopOf b
    match missUndefined s ra rb a b x y with
    | some t => .error t
    | none => measCmp s x y
  else if isPhase a.tag && isPhase b.tag then
    if a.tag = b.tag then
      .ok (some (if a.data = b.data then .eq else if (a.data - b.data).toInt < 0 then .lt else .gt))
    else .error { vec := vPhaseSource, opnd := some (ra.val, a.tag) }
  else .error (badCombo ra a)

/-- A generic arithmetic instruction. -/
def genBody (k : CoreId) (op : GenOp) (rd ra rb : Gpr) : Body := fun s =>
  withOps [opTags s k.val ra tagGeneric, opTags s k.val rb tagGeneric]
    (match genArith k op ra rb (readReg s k.val ra) (readReg s k.val rb) s with
      | .error t => .error t
      | .ok (c, s') => done k rd c s')

/-- Whether an ordering satisfies a comparison; unordered never does. -/
def cmpHolds (op : CmpOp) : Option Ordering → Bool
  | none => false
  | some o => match op with
    | .eq => o == .eq
    | .lt => o == .lt
    | .le => o != .gt

/-- A generic comparison: TRUE or NIL. -/
def cmpBody (k : CoreId) (op : CmpOp) (rd ra rb : Gpr) : Body := fun s =>
  withOps [opTags s k.val ra tagGeneric, opTags s k.val rb tagGeneric]
    (match genCompare s ra rb (readReg s k.val ra) (readReg s k.val rb) with
      | .error t => .error t
      | .ok o => done k rd (cellBool (cmpHolds op o)) s)

def execAdd (k : CoreId) (rd ra rb : Gpr) (s : State) : Host.Outcome State Fault Refusal :=
  runInstr k (genBody k .add rd ra rb) s
def execSub (k : CoreId) (rd ra rb : Gpr) (s : State) : Host.Outcome State Fault Refusal :=
  runInstr k (genBody k .sub rd ra rb) s
def execMul (k : CoreId) (rd ra rb : Gpr) (s : State) : Host.Outcome State Fault Refusal :=
  runInstr k (genBody k .mul rd ra rb) s
def execDiv (k : CoreId) (rd ra rb : Gpr) (s : State) : Host.Outcome State Fault Refusal :=
  runInstr k (genBody k .div rd ra rb) s
def execEq (k : CoreId) (rd ra rb : Gpr) (s : State) : Host.Outcome State Fault Refusal :=
  runInstr k (cmpBody k .eq rd ra rb) s
def execLt (k : CoreId) (rd ra rb : Gpr) (s : State) : Host.Outcome State Fault Refusal :=
  runInstr k (cmpBody k .lt rd ra rb) s
def execLe (k : CoreId) (rd ra rb : Gpr) (s : State) : Host.Outcome State Fault Refusal :=
  runInstr k (cmpBody k .le rd ra rb) s

end Sys2Proof.Machine
end

