-- ==== Sys2Proof/Machine/Level.lean ====
section
/-!
DEFINITION. Machine/Level.lean: conversion between a LOG unit and the NAMED unit of its dimension (R46): the exact value
where binary52 has it, else one of the two values of binary52 that bracket it, which one the control-store image fixes.
The exact value is a power or a logarithm; it is enclosed between two fractions, fine enough that in all but rounding
coincidences the bracket follows from either.
-/

namespace Sys2Proof.Machine

/-- The magnitude bits of the largest finite value of a format not above a nonnegative fraction. -/
def floorMag (f : Fmt) (n d : Nat) : Nat :=
  if n = 0 then 0 else
    let e := log2Frac n d
    let emin : Int := 1 - (f.bias : Int)
    let q : Int := (if e < emin then emin else e) - f.frac
    let m := if 0 ≤ q then n / (d * 2 ^ q.toNat) else n * 2 ^ (-q).toNat / d
    let b := if e < emin then m else (e - emin).toNat * 2 ^ f.frac + m
    min b ((2 * f.bias + 1) * 2 ^ f.frac - 1)

/-- The bits of the fraction between `lo` and `hi`: those of an exact fraction (`lo` = `hi`) that the format has;
otherwise one of the bracketing values, by `pick`. -/
def bracket (f : Fmt) (neg : Bool) (lo hi : Nat × Nat) (pick : Nat) : FV :=
  let b := floorMag f lo.1 lo.2
  let exact := lo == hi && fvCmp (fvOf f b) (.fin false lo.1 lo.2) == some .eq
  let m := if exact then b else b + pick % (floorMag f hi.1 hi.2 + 2 - b)
  fvOf f (signBit f neg + m)

/-- One, in the fixed point of the enclosures. -/
@[reducible] def fxOne : Nat := 2 ^ 320

/-- The error that every fixed-point value below stays within. -/
@[reducible] def fxErr : Nat := 2 ^ 40

/-- 2 artanh(n / d) = ln((d + n) / (d - n)), for 3 n ≤ d. -/
def fxArtanh2 (n d : Nat) : Nat :=
  let z := n * fxOne / d
  let z2 := z * z / fxOne
  ((List.range 110).foldl (fun (p : Nat × Nat) i => (p.1 + 2 * p.2 / (2 * i + 1), p.2 * z2 / fxOne)) (0, z)).1

def fxLn2 : Nat := fxArtanh2 1 3

/-- ln 10 = 3 ln 2 + ln(10 / 8). -/
def fxLn10 : Nat := 3 * fxLn2 + fxArtanh2 1 9

/-- ln(n / d) for n ≥ d > 0: with n / d between 2^e and 2^(e + 1). -/
def fxLn (n d : Nat) : Nat :=
  let e := (log2Frac n d).toNat
  e * fxLn2 + fxArtanh2 (n - d * 2 ^ e) (n + d * 2 ^ e)

/-- exp of a fixed-point value below ln 10. -/
def fxExp (x : Nat) : Nat :=
  ((List.range 160).foldl (fun (p : Nat × Nat) i => (p.1 + p.2, p.2 * x / fxOne / (i + 1))) (0, fxOne)).1

/-- The level k * log10(q) of a positive fraction q = n / d, with k = kn / kd (R46). A logarithm to base 10 of a fraction
is a fraction only where it is an integer. -/
def levelOf (n d kn kd : Nat) (pick : Nat) : FV :=
  let neg := decide (n < d)
  let (n, d) := if neg then (d, n) else (n, d)
  let a := fxLn n d
  let p := (2 * a + fxLn10) / (2 * fxLn10)
  if n = d * 10 ^ p then bracket fmt52 (neg && p != 0) (kn * p, kd) (kn * p, kd) pick
  else bracket fmt52 neg (kn * (a - fxErr), kd * (fxLn10 + fxErr)) (kn * (a + fxErr), kd * (fxLn10 - fxErr)) pick

/-- ref * 10^(L / k) for L / k = (-1)^neg * n / d and ref = rn / rd (R46). Ten to a fraction is a fraction only where the
exponent is an integer; exponents beyond 800 leave the range of binary52 for every reference. -/
def ofLevel (neg : Bool) (n d rn rd : Nat) (pick : Nat) : FV :=
  let t : Int := if neg then -(n : Int) else n
  let p := t.fdiv (d : Int)
  let r := (t.fmod (d : Int)).toNat
  let times (x : Nat × Nat) : Nat × Nat :=
    if 0 ≤ p then (x.1 * rn * 10 ^ p.toNat, x.2 * rd) else (x.1 * rn, x.2 * rd * 10 ^ (-p).toNat)
  if 800 < p then bracket fmt52 false (2 ^ 1100, 1) (2 ^ 1101, 1) pick
  else if p < -800 then bracket fmt52 false (1, 2 ^ 1200) (1, 2 ^ 1199) pick
  else if r = 0 then bracket fmt52 false (times (1, 1)) (times (1, 1)) pick
  else
    let y := fxExp (r * fxOne / d * fxLn10 / fxOne)
    bracket fmt52 false (times (y - fxErr, fxOne)) (times (y + fxErr, fxOne)) pick

end Sys2Proof.Machine
end

