-- ==== Sys2Proof/Machine/Meas.lean ====
section
/-!
DEFINITION. Machine/Meas.lean: measurand operations (R87, R88) and the tag instructions of R89, R90. UTSET writes the
unit table (R39).
-/

namespace Sys2Proof.Machine

/-- Measurand operands are tagged MEAS (R87). -/
def opMeas (s : State) (k : CoreId) (r : Gpr) : Opnd := opTags s k.val r isMeas

def execMkmeas (k : CoreId) (rd ra rb : Gpr) (s : State) : Host.Outcome State Fault Refusal :=
  runInstr k (fun s =>
    let a := readReg s k.val ra
    let v := numVal a
    withOps [opTags s k.val ra (fun t => t == tagFix || t == tagFlo), opTags s k.val rb tagIsFix]
      (done k rd (measCell v (measUnit (readReg s k.val rb).data) 0 (isFin v)) s)) s

def execMval (k : CoreId) (rd ra : Gpr) (s : State) : Host.Outcome State Fault Refusal :=
  runInstr k (fun s => withOps [opMeas s k ra]
    (done k rd ⟨tagFlo, floOf (fvOfMeas (readReg s k.val ra).data)⟩ s)) s

def execMunit (k : CoreId) (rd ra : Gpr) (s : State) : Host.Outcome State Fault Refusal :=
  runInstr k (fun s => withOps [opMeas s k ra]
    (done k rd (cellFix (w64 (measUnit (readReg s k.val ra).data))) s)) s

def execMflag (k : CoreId) (rd ra : Gpr) (s : State) : Host.Outcome State Fault Refusal :=
  runInstr k (fun s => withOps [opMeas s k ra]
    (done k rd (cellFix (w64 (measFlags (readReg s k.val ra).tag))) s)) s

/-- QOR and QCLR: the flags change under a mask FIX or RAW64 (R87). -/
def flagBody (k : CoreId) (rd ra rb : Gpr) (f : Nat → Nat → Nat) : Body := fun s =>
  let a := readReg s k.val ra
  withOps [opMeas s k ra, opTags s k.val rb tagRaw]
    (done k rd ⟨tagMeasOf (f (measFlags a.tag) (bitsOf (readReg s k.val rb).data 4 0)), a.data⟩ s)

def execQor (k : CoreId) (rd ra rb : Gpr) (s : State) : Host.Outcome State Fault Refusal :=
  runInstr k (flagBody k rd ra rb Nat.lor) s
def execQclr (k : CoreId) (rd ra rb : Gpr) (s : State) : Host.Outcome State Fault Refusal :=
  runInstr k (flagBody k rd ra rb (fun a m => a - Nat.land a m)) s

/-- The result of a LOG conversion (R46): into the LOG unit from zero minus infinity, from a negative value the
canonical NaN. -/
def logConv (s : State) (k : Nat) (into : Bool) (lu : Nat) (payload : Word) : FV :=
  let img := unitOf s lu
  let pick := Config.logPick (sparseGet (fun _ => []) s.boot.loaded (k / 8)) into (img.getD 2 0) (img.getD 1 0)
    (payload.toNat / 2 ^ 12)
  match fvOfMeas payload, fvOfFlo (img.getD 1 0), fvOfFlo (img.getD 2 0) with
  | .nan g f, _, _ => .nan g f
  | .inf neg, _, _ => if into then (if neg then fvNaN else .inf false) else (if neg then .fin false 0 1 else .inf false)
  | .fin neg n d, .fin _ rn rd, .fin _ kn kd =>
    if !into then ofLevel neg (n * kd) (d * kn) rn rd pick
    else if n = 0 then .inf true
    else if neg then fvNaN
    else levelOf (n * rd) (d * rn) kn kd pick
  | _, _, _ => fvNaN

/-- CONV (R42, R46, R87): the target index is rb[11:0]. DESIGN CHOICE (log): its product-cache entry holds k = 0, since R46
gives a k for products and quotients alone. -/
def convBody (k : CoreId) (rd ra rb : Gpr) : Body := fun s =>
  let a := readReg s k.val ra
  let u := measUnit a.data
  let w := measUnit (readReg s k.val rb).data
  let fl := measFlags a.tag
  let v := fvOfMeas a.data
  withOps [opMeas s k ra, opTags s k.val rb tagIsFix]
    (if !unitDefined s u then .error (unitMiss 1 u w (some (ra.val, a.tag)))
     else if !unitDefined s w then .error (unitMiss 1 u w (some (rb.val, (readReg s k.val rb).tag)))
     else if u = w then done k rd a s
     else
       let s' := modCore k.val (productTouch 0 u w w 0) s
       if unitLog s u || unitLog s w then
         if unitLog s w && !unitLog s u && namedUnit s (unitDim s w) == some u then
           done k rd (measCell (logConv s k.val true w a.data) w fl (isFin v)) s'
         else if unitLog s u && !unitLog s w && namedUnit s (unitDim s u) == some w then
           done k rd (measCell (logConv s k.val false u a.data) w fl (isFin v)) s'
         else .error (unitMismatch 3 u w)
       else if unitDim s u != unitDim s w then .error (unitMismatch 1 u w)
       else done k rd (measCell (convVal s v u w) w fl (isFin v)) s')

def execConv (k : CoreId) (rd ra rb : Gpr) (s : State) : Host.Outcome State Fault Refusal :=
  runInstr k (convBody k rd ra rb) s

/-- The halved dimension; none when an exponent is odd (R88). -/
def dimHalf (dim : Nat) : Option Nat :=
  if (List.range 8).all (fun i => dimExp dim i % 2 == 0) then
    some ((List.range 8).foldl (fun d i => d + (dimExp dim i / 2 % 16).toNat * 2 ^ (4 * i)) 0)
  else none

/-- MSQRT (R88). -/
def msqrtBody (k : CoreId) (rd ra : Gpr) : Body := fun s =>
  let a := readReg s k.val ra
  let u := measUnit a.data
  withOps [opTags s k.val ra (fun t => isMeas t || t == tagFlo)]
    (if a.tag = tagFlo then done k rd ⟨tagFlo, w64 (fvSqrtTo fmt64 (fvOfFlo a.data))⟩ s
     else if !unitDefined s u then .error (unitMiss 1 u 0 (some (ra.val, a.tag)))
     else
       match dimHalf (unitDim s u) with
       | none => .error (unitMismatch 1 u 0)
       | some dim =>
         match namedUnit s dim with
         | none => .error (unitMiss 3 u 0 none)
         | some w =>
           if unitLog s u then .error (unitMismatch 3 u 0)
           else
             let v := fvMul (fvOfMeas a.data) (unitScale s u)
             let x := if unitAffine s u then fvAdd v (unitOffset s u) else v
             done k rd (measCell (fvOf fmt52 (fvSqrtTo fmt52 x)) w (measFlags a.tag) (isFin (fvOfMeas a.data))) s)

def execMsqrt (k : CoreId) (rd ra : Gpr) (s : State) : Host.Outcome State Fault Refusal :=
  runInstr k (msqrtBody k rd ra) s

/-! ### UTSET (R39) -/

/-- The index lies in the caller's right: any but 0 at level K, its partition's grant at level S (R39, R467). -/
def unitGranted (s : State) (k u : Nat) : Bool :=
  if plOf (front s k) = 2 then u != 0
  else match partOf s k with
    | none => false
    | some p => (List.range 8).any (fun g => g == p && fget s fldGLB_UNIT_GRANT_BASE g ≤ u &&
        u < fget s fldGLB_UNIT_GRANT_BASE g + fget s fldGLB_UNIT_GRANT_COUNT g) && u != 0

/-- Writing an image that has passed its checks: every replica holds it and no product cache names the index (R39). -/
def unitWrite (u : Nat) (img : List Word) (s : State) : State :=
  productForget u { s with units := sparsePut unitDefault u img s.units }

/-- The status of UTSET for index `u` and the image cells, and the state after (R37, R38, R39). -/
def unitSet (k u : Nat) (cells : List Cell) (s : State) : Nat × State :=
  if 4096 ≤ u || !unitGranted s k u then (1, s)
  else if cells.all (fun c => c.tag == tagVoid) then (0, unitWrite u [] s)
  else if cells.all (fun c => c.tag == tagRaw64) then
    let img := cells.map (fun c => c.data)
    if !imageOk img then (2, s)
    else if imageNamed img && (namedUnits s).any (fun p => p.1 != u && p.2 == imageDim img) then (3, s)
    else if imageNamed img &&
        4 ≤ ((namedUnits s).filter (fun p => p.1 != u && dimSet p.2 == dimSet (imageDim img))).length then (4, s)
    else (0, unitWrite u img s)
  else (2, s)

/-! ### Tag instructions (R89, R90) -/

def execTagr (k : CoreId) (rd ra : Gpr) (s : State) : Host.Outcome State Fault Refusal :=
  runInstr k (fun s => done k rd (cellFix (w64 (readReg s k.val ra).tag.toNat)) s) s
def execTcls (k : CoreId) (rd ra : Gpr) (s : State) : Host.Outcome State Fault Refusal :=
  runInstr k (fun s => done k rd (cellFix (w64 (tagClass (readReg s k.val ra).tag))) s) s

/-- The lowest level that may give a tag (R90). -/
def tagLevel (t : Tag) : Nat :=
  if t = tagPoison then 2
  else if tagClass t = 2 || tagClass t = 4 || tagClass t = 5 then 1 else 0

/-- TSET (R89): a POISON ra or rb raises POISON_USE, then the tag of rb, then the level, then a reserved tag. -/
def tsetBody (k : CoreId) (rd ra rb : Gpr) : Body := fun s =>
  let a := readReg s k.val ra
  let b := opTags s k.val rb tagRaw
  let t : Tag := BitVec.ofNat 8 (bitsOf b.cell.data 7 0)
  withOps (if a.tag = tagPoison then [⟨ra.val, a, none⟩, b] else [b])
    (guardTrap (decide (plOf (front s k.val) < tagLevel t)) (privOp 0)
      (guardTrap (isReservedTag t) (trapOn vTagCheck 3 rb.val b.cell.tag)
        (done k rd ⟨t, a.data⟩ s)))

def execTset (k : CoreId) (rd ra rb : Gpr) (s : State) : Host.Outcome State Fault Refusal :=
  runInstr k (tsetBody k rd ra rb) s

end Sys2Proof.Machine
end

