-- ==== Sys2Proof/Machine/Dsp.lean ====
section
/-!
DEFINITION. Machine/Dsp.lean: exact signal arithmetic for the engines: binary32 values as multiples of 2^-149, sines and
cosines of fractions of a revolution in the fixed point of Machine/Level.lean, the windows and transforms of R274 to R276,
and the solution of the equations of R278 (11_resampling_spectra.md).
A result that a rule gives and bounds without fixing its last bits is the exact value, rounded, or a free value within the bound.
-/

namespace Sys2Proof.Machine

/-! ### Binary32 -/

/-- The magnitude of a finite binary32, in 2^-149; its value; whether it is finite. -/
def f32Mag (b : Nat) : Nat :=
  let e := nbits b 30 23
  if e = 0 then nbits b 22 0 else (2 ^ 23 + nbits b 22 0) * 2 ^ (e - 1)
def f32Signed (b : Nat) : Int := if nbits b 31 31 = 1 then -(f32Mag b : Int) else f32Mag b
def f32Finite (b : Nat) : Bool := nbits b 30 23 != 255

/-- The binary32 nearest to a multiple of 2^-149. -/
def f32Of (v : Int) : Nat := fvTo fmt32 (fvInt v (2 ^ 149))

/-- A subnormal becomes zero. -/
def f32Flush (b : Nat) : Nat := if nbits b 30 23 = 0 then b / 2 ^ 31 * 2 ^ 31 else b

/-- A quiet NaN. -/
@[reducible] def f32NaN : Nat := 0x7FC00000

/-- The fraction v / d (d > 0) in binary32, rounded to nearest even, subnormals flushed. -/
def f32Frac (v : Int) (d : Nat) : Nat := f32Flush (fvTo fmt32 (fvInt v d))

/-- A binary32 within `w` units in the last place of a rounded result: that of a computation whose roundings on the way no rule
counts. Zero, infinities and NaN stay. -/
def f32Near (w b pick : Nat) : Nat :=
  let m := b % 2 ^ 31
  if m = 0 || 0x7F800000 ≤ m then b
  else b / 2 ^ 31 * 2 ^ 31 + min 0x7F7FFFFF (max 0x00800000 (m + pick % (2 * w + 1) - w))

/-- The width a spectral result may lie within. -/
@[reducible] def engineUlps : Nat := 4

/-- The product of two binary32, rounded once, subnormals flushed; 0 for operands that are not finite. -/
def f32Mul (a b : Nat) : Nat := f32Frac (f32Signed a * f32Signed b) (2 ^ 298)

/-- A signed 32-bit lane in binary32 (R268). -/
def f32OfLane (v : Nat) : Nat := fvTo fmt32 (fvInt (signedOf 32 v) 1)

/-- The root of a fraction n / d with a sign, in binary32. -/
def f32Root (neg : Bool) (n d : Nat) : Nat :=
  f32Flush (signBit fmt32 (neg && n != 0) + fvSqrtTo fmt32 (.fin false n d) % 2 ^ 31)

/-- Two lanes as a word, and its lanes. -/
def laneWord (lo hi : Nat) : Word := w64 (lo % 2 ^ 32 + hi % 2 ^ 32 * 2 ^ 32)
def laneLo (w : Word) : Nat := bitsOf w 31 0
def laneHi (w : Word) : Nat := bitsOf w 63 32

/-! ### Sine and cosine -/

/-- arctan(1 / q). -/
def fxAtanInv (q : Nat) : Int :=
  ((List.range 160).foldl (fun (a : Int × Int) i =>
    (a.1 + (if i % 2 = 0 then a.2 else -a.2) / ((2 * i + 1 : Nat) : Int), a.2 / ((q * q : Nat) : Int)))
    (0, (fxOne : Int) / (q : Int))).1

/-- π (Machin). -/
def fxPi : Int := 16 * fxAtanInv 5 - 4 * fxAtanInv 239

/-- Cosine and sine of an angle between 0 and π/2, by their series. -/
def fxCosSin (x : Int) : Int × Int :=
  let r := (List.range 100).foldl (fun (a : Int × Int × Int) i =>
    let t := a.2.2
    (if i % 4 = 0 then a.1 + t else if i % 4 = 2 then a.1 - t else a.1,
      if i % 4 = 1 then a.2.1 + t else if i % 4 = 3 then a.2.1 - t else a.2.1,
      t * x / (fxOne : Int) / ((i + 1 : Nat) : Int))) (0, 0, (fxOne : Int))
  (r.1, r.2.1)

/-- Cosine and sine of n / d of a revolution; exact at quarters. -/
def turn (n d : Nat) : Int × Int :=
  let r := 4 * (n % d)
  let rest := r % d
  let v := if rest = 0 then ((fxOne : Int), (0 : Int)) else fxCosSin (fxPi * (rest : Int) / ((2 * d : Nat) : Int))
  match r / d with
  | 0 => v
  | 1 => (-v.2, v.1)
  | 2 => (-v.1, -v.2)
  | _ => (v.2, -v.1)

/-! ### Windows (R274) -/

/-- a0 to a4 of a window, in 10^-9. -/
def windowCoeffs (win : Nat) : List Int :=
  match win with
  | 0 => [1000000000, 0, 0, 0, 0]
  | 1 => [500000000, 500000000, 0, 0, 0]
  | 2 => [540000000, 460000000, 0, 0, 0]
  | 3 => [215578950, 416631580, 277263158, 83578947, 6947368]
  | _ => [358750000, 488290000, 141280000, 11680000, 0]

/-- w[n] of a window of `len` points, in the fixed point; 5 is SINE. -/
def windowAt (win len n : Nat) : Int :=
  if win = 5 then (turn n (2 * len)).2
  else
    ((windowCoeffs win).zipIdx.foldl (fun (a : Int) p =>
      a + (if p.2 % 2 = 0 then 1 else -1) * p.1 * (turn (p.2 * n) len).1) 0) / 1000000000

/-- S1 (one fixed point) and S2 (two). -/
def windowS1 (win len : Nat) : Int := (List.range len).foldl (fun a n => a + windowAt win len n) 0
def windowS2 (win len : Nat) : Int := (List.range len).foldl (fun a n => a + windowAt win len n ^ 2) 0

/-- ENBW in bins, as a fraction: N × S2 / S1². -/
def windowEnbw (win len : Nat) : Int × Int := ((len : Int) * windowS2 win len, windowS1 win len ^ 2)

/-- An input times the window in binary32, as a multiple of 2^-149; what is not finite is zero, subnormals are flushed (R276). -/
def windowed (win len n x : Nat) : Int :=
  if f32Finite x then f32Signed (f32Mul (f32Frac (windowAt win len n) fxOne) (f32Flush x)) else 0

/-! ### Transforms (R275, R276) -/

/-- X_k of inputs in 2^-149, exact to the fixed point. -/
def dftAt (xs : List Int) (k : Nat) : Int × Int :=
  let len := xs.length
  xs.zipIdx.foldl (fun a p =>
    let w := turn (k * p.2) len
    (a.1 + p.1 * w.1, a.2 - p.1 * w.2)) (0, 0)

/-- A candidate for a list of exact values (2^-149 and the fixed point) lies within the bound of R276 in the Euclidean norm: the
bound in 2^-23 / 10 of the norm. `wt` weighs a place. -/
def nearNorm (tol : Nat) (wt : Nat → Nat) (exact : List Int) (cand : List Nat) : Bool :=
  let err := (exact.zip cand).zipIdx.foldl (fun (a : Int) p =>
    a + (wt p.2 : Int) * (f32Signed p.1.2 * (fxOne : Int) - p.1.1) ^ 2) 0
  let norm := exact.zipIdx.foldl (fun (a : Int) p => a + (wt p.2 : Int) * p.1 ^ 2) 0
  cand.all f32Finite && exact.length == cand.length &&
    decide (err * ((10 * 2 ^ 23) ^ 2 : Nat) ≤ norm * (tol ^ 2 : Nat))

/-- The bound of R276 for 2^logN points: 12 log2 N + 10, and 10 more on the two-pass path. -/
def dftTol (logN : Nat) : Nat := 12 * logN + 10 + (if 13 < logN then 10 else 0)

/-- The values an engine computes for exact ones: free ones within the bound, else the exact ones rounded. -/
def engineValues (tol : Nat) (wt : Nat → Nat) (exact : List Int) (free : Nat → Nat) : List Nat :=
  let cand := (List.range exact.length).map (fun i => f32Flush (free i % 2 ^ 32))
  if nearNorm tol wt exact cand then cand else exact.map (fun v => f32Frac v (2 ^ 149 * fxOne))

/-- The spectrum of 2^logN windowed inputs: bins 0 to N/2 as words, real part in lane 0. -/
def spectrum (logN : Nat) (xs : List Int) (free : Nat → Nat) : List Word :=
  let half := 2 ^ logN / 2
  let exact := (List.range (half + 1)).flatMap (fun k => [(dftAt xs k).1, (dftAt xs k).2])
  let wt (i : Nat) : Nat := if i / 2 = 0 || i / 2 = half then 1 else 2
  let v := engineValues (dftTol logN) wt exact free
  (List.range (half + 1)).map (fun k => laneWord (v.getD (2 * k) 0) (v.getD (2 * k + 1) 0))

/-- The inverse transform of bins 0 to N/2 (multiples of 2^-149), with y[N - k] = conj(y[k]): a sum, without 1/N (R279). -/
def synthesis (logN : Nat) (ys : List (Int × Int)) (free : Nat → Nat) : List Nat :=
  let len := 2 ^ logN
  let exact := (List.range len).map (fun n => ys.zipIdx.foldl (fun (a : Int) p =>
    let w := turn (p.2 * n) len
    a + (if p.2 = 0 || p.2 = len / 2 then 1 else 2) * (p.1.1 * w.1 - p.1.2 * w.2)) 0)
  engineValues (dftTol logN) (fun _ => 1) exact free

/-! ### Complex fractions and linear equations (R278) -/

/-- A complex number (re + i im) / den, den > 0. -/
abbrev Cx := Int × Int × Nat

def cxOf (w : Word) : Cx := (f32Signed (laneLo w), f32Signed (laneHi w), 2 ^ 149)
def cxAdd (a b : Cx) : Cx := (a.1 * b.2.2 + b.1 * a.2.2, a.2.1 * b.2.2 + b.2.1 * a.2.2, a.2.2 * b.2.2)
def cxNeg (a : Cx) : Cx := (-a.1, -a.2.1, a.2.2)
def cxConj (a : Cx) : Cx := (a.1, -a.2.1, a.2.2)
def cxMul (a b : Cx) : Cx := (a.1 * b.1 - a.2.1 * b.2.1, a.1 * b.2.1 + a.2.1 * b.1, a.2.2 * b.2.2)
/-- |a|² times the square of its denominator. -/
def cxNorm (a : Cx) : Nat := (a.1 ^ 2 + a.2.1 ^ 2).toNat
/-- a / b for b ≠ 0. -/
def cxDiv (a b : Cx) : Cx :=
  let c := cxMul a (cxConj b)
  (c.1 * (b.2.2 : Int) ^ 2, c.2.1 * (b.2.2 : Int) ^ 2, c.2.2 * max 1 (cxNorm b))
def cxZero : Cx := (0, 0, 1)
def cxSum (l : List Cx) : Cx := l.foldl cxAdd cxZero
def cxReal (v : Int) (d : Nat) : Cx := (v, 0, d)

/-- A complex fraction in binary32 lanes, each within the engine's rounding. -/
def cxWord (a : Cx) (pick : Nat) : Word :=
  laneWord (f32Near engineUlps (f32Frac a.1 a.2.2) pick) (f32Near engineUlps (f32Frac a.2.1 a.2.2) (pick / 9))

/-- conj(a) × b. -/
def crossOf (a b : Cx) : Cx := cxMul (cxConj a) b

/-- A pivot is at most 2^-20 times the largest diagonal. -/
def pivotSmall (p big : Cx) : Bool := decide (p.1 * 2 ^ 20 * (big.2.2 : Int) ≤ big.1 * (p.2.2 : Int))

/-- The larger of two real fractions. -/
def cxMax (a b : Cx) : Cx := if a.1 * (b.2.2 : Int) < b.1 * (a.2.2 : Int) then b else a

/-- A row less a multiple of another. -/
def rowLess (m : Cx) (pivot row : List Cx) : List Cx := (row.zip pivot).map (fun p => cxAdd p.1 (cxNeg (cxMul m p.2)))

/-- Elimination on the rows of a Hermitian system with its right sides: the pivots are those of the Cholesky factorisation. The
upper triangle of as many rows as are left, or none where a pivot is too small. -/
def eliminate (big : Cx) : Nat → Nat → List (List Cx) → Option (List (List Cx))
  | 0, _, _ => some []
  | _ + 1, _, [] => some []
  | n + 1, j, row :: rest =>
    let p := row.getD j cxZero
    if pivotSmall p big then none
    else (eliminate big n (j + 1) (rest.map (fun r => rowLess (cxDiv (r.getD j cxZero) p) row r))).map (fun t => row :: t)

/-- Back substitution on one right side (column `c`): the solution from place `j` on. -/
def backSolve (c : Nat) : Nat → List (List Cx) → List Cx
  | _, [] => []
  | j, row :: rest =>
    let xs := backSolve c (j + 1) rest
    let known := cxSum (xs.zipIdx.map (fun p => cxMul (row.getD (j + 1 + p.2) cxZero) p.1))
    cxDiv (cxAdd (row.getD c cxZero) (cxNeg known)) (row.getD j cxZero) :: xs

/-- The solution of A X = B, column by column; none where the system is singular. -/
def solveBy (a b : List (List Cx)) : Option (List (List Cx)) :=
  let n := a.length
  let big := (a.zipIdx.map (fun p => p.1.getD p.2 cxZero)).foldl cxMax cxZero
  (eliminate big n 0 ((a.zip b).map (fun p => p.1 ++ p.2))).map (fun t =>
    (List.range ((b.headD []).length)).map (fun c => backSolve (n + c) 0 t))

end Sys2Proof.Machine
end

