-- ==== Sys2Proof/Machine/PhaseBase.lean ====
section
/-!
DEFINITION. Machine/PhaseBase.lean: the phase of a source now and in the past (R233 to R245 of 10_phase_engine.md), the
accumulator of a drive output (R320), and who may use a source (R238).
Phases are held in 2^-96 rev, rates in 2^-32 rev/s, device time in 2^-64 s, so that rate times time is exact.
-/

namespace Sys2Proof.Machine

/-! ### Working state -/

/-- A source that is not enabled. -/
def PhaseSrc.idle : PhaseSrc :=
  { count := 0, zeroed := false, zmark := none, theta := 0, omega := 0, alpha := 0, t0 := 0, acq := 0, seen := 0,
    rejRun := 0, lastRej := 0, lastEdge := 0, afterLost := false, held := none, hist := [] }

def getSrc (s : State) (i : Nat) : PhaseSrc := sparseGet (fun _ => PhaseSrc.idle) s.sources i
def modSrc (i : Nat) (f : PhaseSrc → PhaseSrc) (s : State) : State :=
  { s with sources := recPut i (f (getSrc s i)) s.sources }

/-- A drive output after reset. -/
def DriveOut.idle : DriveOut :=
  { amp := 0, phi := 0, freq := 0, slope := 0, sweep := 0, rate := 0, fend := 0, t0 := 0, ring := 0, ringLen := 0,
    ringPos := 0, frames := [], rampStart := none, sent := [], applied := 0, limitAt := none, tail := [],
    tailPos := 0, zeros := 0, nextG := 0, underruns := 0, sidx := 0, silent := false, urgent := false }

def getDrive (s : State) (o : Nat) : DriveOut := sparseGet (fun _ => DriveOut.idle) s.drives o
def modDrive (o : Nat) (f : DriveOut → DriveOut) (s : State) : State :=
  { s with drives := recPut o (f (getDrive s o)) s.drives }

@[reducible] def srcAcquiring : Nat := 0
@[reducible] def srcLocked : Nat := 1
@[reducible] def srcCoasting : Nat := 2
@[reducible] def srcLost : Nat := 3

@[reducible] def typEnc : Nat := 0
@[reducible] def typMains : Nat := 1
@[reducible] def typSync : Nat := 2
@[reducible] def typDrive : Nat := 3
@[reducible] def typDerived : Nat := 4
@[reducible] def typNco : Nat := 5

def srcOn (s : State) (i : Nat) : Bool := fbit s fldPHASE_SRC_CFG_EN i
def srcType (s : State) (i : Nat) : Nat := fget s fldPHASE_SRC_CFG_TYPE i
def srcInput (s : State) (i : Nat) : Nat := fget s fldPHASE_SRC_CFG_INPUT i

/-- Lock state of a source; PS15 always reads LOCKED (R246). -/
def srcState (s : State) (i : Nat) : Nat := if i = 15 then srcLocked else fget s fldPHASE_SRC_STAT_STATE i
def srcGen (s : State) (i : Nat) : Nat := if i = 15 then 0 else fget s fldPHASE_SRC_STAT_GEN i

/-- EPR, with 0 acting as 1. -/
def eprOf (s : State) (i : Nat) : Nat := max 1 (fget s fldPHASE_SRC_CPR_EPR i)

/-! ### Who may use a source (R238) -/

def srcOwner (s : State) (i : Nat) : Option Nat :=
  if i < 15 && fbit s fldPHASE_SRC_OWN_ASSIGNED i then some (fget s fldPHASE_SRC_OWN_PART i) else none

/-- A partition reads PS15, the sources it owns and those whose READ names it. -/
def srcReads (s : State) (p i : Nat) : Bool :=
  i == 15 || srcOwner s i == some p || nbits (fget s fldPHASE_SRC_OWN_READ i) p p == 1

/-- Whether an agent may read a source: the keeper reads every one. -/
def agentReads (s : State) (a : Agent) (i : Nat) : Bool :=
  isKeeper s a || (match agentPart s a with
    | some p => srcReads s p i
    | none => false)

/-! ### The accumulator of a drive output (R320) -/

/-- A FLO as a count of 2^-32, after rounding to binary32; a value that is not finite counts as 0. -/
def floFixed (w : Word) : Int :=
  match fvRound fmt32 (fvOfFlo w) with
  | .fin neg n d => if neg then -((n * 2 ^ 32 / d : Nat) : Int) else ((n * 2 ^ 32 / d : Nat) : Int)
  | _ => 0

@[reducible] def drvDisarmed : Nat := 0
@[reducible] def drvArmed : Nat := 1
@[reducible] def drvRamping : Nat := 2

def drvState (s : State) (o : Nat) : Nat := fget s fldDRV_OUT_STAT_STATE o

/-- The synthesiser of an output runs in SINE: φ advances. -/
def sineRuns (s : State) (o : Nat) : Bool := fget s fldDRV_OUT_CFG_MODE o == 1 && drvState s o != drvDisarmed

/-- The sign of a number. -/
def signOf (v : Int) : Int := if v < 0 then -1 else if v = 0 then 0 else 1
/-- 2^(e / 2^96) in the fixed point, for |e| < 2^104; beyond that the frequency of a sweep stays where it is. -/
def fxPow2 (e : Int) : Nat :=
  let x : Int := min (2 ^ 104) (max (-(2 ^ 104)) e)
  let n := x / 2 ^ 96
  let g := fxExp (fxLn2 * (x % 2 ^ 96).toNat / 2 ^ 96)
  if 0 ≤ n then g * 2 ^ n.toNat else g / 2 ^ (-n).toNat
/-- The exponent of 2, in 2^-96, that takes frequency f to `fin`; none where no factor does. -/
def logStop (f fin : Int) : Option Int :=
  if f = 0 || signOf f != signOf fin then none
  else if f.natAbs ≤ fin.natAbs then some ((fxLn fin.natAbs f.natAbs * 2 ^ 96 / fxLn2 : Nat) : Int)
  else some (-((fxLn f.natAbs fin.natAbs * 2 ^ 96 / fxLn2 : Nat) : Int))
/-- The advance of φ, the frequency and its slope after time dt of a LOG sweep at `rate` (2^-32 octaves/s), without an end. -/
def logRun (f rate dt : Int) : Int × Int × Int :=
  let g : Int := fxPow2 (rate * dt)
  let v := f * g / (fxOne : Int)
  (f * (g - (fxOne : Int)) * 2 ^ 96 / (rate * (fxLn2 : Int)), v, v * rate * (fxLn2 : Int) / (2 ^ 32 * (fxOne : Int)))
/-- φ, frequency and slope at a device time, from the parameters set at `t0`. A sweep whose RATE leads away from FEND does not
stop. -/
def drivePhase (s : State) (o t : Nat) : Int × Int × Int :=
  let x := getDrive s o
  let dt : Int := (t - x.t0 : Nat)
  if !sineRuns s o then (x.phi, 0, 0)
  else if x.sweep = 2 then
    let fin := floFixed x.fend
    let rate := floFixed x.rate
    if rate = 0 then (x.phi + x.freq * dt, x.freq, 0)
    else
      match logStop x.freq fin with
      | some e =>
        if signOf e * signOf rate < 0 || (rate * dt).natAbs < e.natAbs then
          (x.phi + (logRun x.freq rate dt).1, (logRun x.freq rate dt).2)
        else
          let stop := e / rate
          (x.phi + (logRun x.freq rate stop).1 + fin * (dt - stop), fin, 0)
      | none => (x.phi + (logRun x.freq rate dt).1, (logRun x.freq rate dt).2)
  else if x.sweep = 1 && x.slope != 0 then
    let fin := floFixed x.fend
    let stop : Int := (fin - x.freq) * 2 ^ 64 / x.slope
    if stop < 0 || dt ≤ stop then
      (x.phi + x.freq * dt + x.slope * dt * dt / 2 ^ 65, x.freq + x.slope * dt / 2 ^ 64, x.slope)
    else (x.phi + x.freq * stop + x.slope * stop * stop / 2 ^ 65 + fin * (dt - stop), fin, 0)
  else (x.phi + x.freq * dt, x.freq, 0)

/-! ### The present phase -/

/-- A tracker's phase and rate at a device time: between edges the estimate follows the loop's polynomial (R240). -/
def trackAt (x : PhaseSrc) (t : Nat) : Int × Int × Int :=
  let dt : Int := (t : Int) - x.t0
  (x.theta + x.omega * dt + x.alpha * dt * dt / 2 ^ 65, x.omega + x.alpha * dt / 2 ^ 64, x.alpha)

/-- Internal phase, rate and acceleration of a source that is not DERIVED, counted from its zero, without OFFS. -/
def ownPhase (s : State) (i t : Nat) : Int × Int × Int :=
  if srcType s i = typDrive then drivePhase s (srcInput s i) t else trackAt (getSrc s i) t

/-- A source has an estimate: LOCKED or COASTING. -/
def hasEst (s : State) (i : Nat) : Bool := srcState s i == srcLocked || srcState s i == srcCoasting

/-- NUM and DEN of a DERIVED source. -/
def ratioNum (s : State) (i : Nat) : Nat := bitsOf (getReg s .PHASE_SRC_RATIO i) 31 0
def ratioDen (s : State) (i : Nat) : Nat := max 1 (bitsOf (getReg s .PHASE_SRC_RATIO i) 63 32)

/-- The present estimate of a source taken to a device time, with OFFS, unwrapped, its rate and acceleration; none while there
is no estimate (R235, R241, R246). A DERIVED source adds the whole revolutions that R242 chose for it. -/
def estimateAt (s : State) (i t : Nat) : Option (Int × Int × Int) :=
  if i = 15 then some ((t : Int) * 2 ^ 32, 2 ^ 32, 0)
  else if !hasEst s i then none
  else
    let offs : Int := ((getReg s .PHASE_SRC_OFFS i).toNat : Int) * 2 ^ 64
    if srcType s i = typDerived then
      let v := ownPhase s (srcInput s i) t
      let n : Int := ratioNum s i
      let d : Int := ratioDen s i
      some (v.1 * n / d + offs + (getSrc s i).theta, v.2.1 * n / d, v.2.2 * n / d)
    else
      let v := ownPhase s i t
      some (v.1 + offs, v.2.1, v.2.2)

/-- The estimate of a source now. -/
def estimate (s : State) (i : Nat) : Option (Int × Int × Int) := estimateAt s i s.dtime

/-- A phase as delivered (R233): the low 32 bits of the revolutions and the fraction. -/
def phaseWord (v : Int) : Word := wordOfInt (v / 2 ^ 64)

/-- The phase cell of a source now, or UNBOUND. -/
def phaseCell (s : State) (i : Nat) : Cell :=
  match estimate s i with
  | some v => ⟨tagPhase i, phaseWord v.1⟩
  | none => cellUnbound

/-- The loop bandwidth in Hz: 1 to 10,000 (PHASE_SRC_LOOP). -/
def bwOf (s : State) (i : Nat) : Nat :=
  let b := fget s fldPHASE_SRC_LOOP_BW i
  if b = 0 then 1 else min b 10000

/-- No edge has been rejected for 5/BW s, counted from EN; a source without a loop has no edges. -/
def edgesSettled (s : State) (i : Nat) : Bool :=
  decide (typDrive ≤ srcType s i) || decide (5 * 2 ^ 64 ≤ (s.dtime - (getSrc s i).lastRej) * bwOf s i)

/-- SETTLED: LOCKED with no rejected edge for 5/BW s (PHASE_SRC_STAT). The edges of a DERIVED source are its parent's. -/
def srcSettled (s : State) (i : Nat) : Bool :=
  i == 15 || (srcState s i == srcLocked && edgesSettled s (if srcType s i = typDerived then srcInput s i else i))

/-! ### The past (R244, R245) -/

/-- Cubic Hermite interpolation between two phases with their rates: at `a` of `d` device-time units. -/
def hermite (y0 m0 y1 m1 : Int) (a d : Nat) : Int :=
  if d = 0 then y1
  else
    let a : Int := a
    let d : Int := d
    let h00 := 2 * a ^ 3 - 3 * a ^ 2 * d + d ^ 3
    let h10 := a ^ 3 - 2 * a ^ 2 * d + a * d ^ 2
    let h01 := 3 * a ^ 2 * d - 2 * a ^ 3
    let h11 := a ^ 3 - a ^ 2 * d
    (y0 * h00 + m0 * d * h10 + y1 * h01 + m1 * d * h11) / d ^ 3

/-- The present instant as a history entry. -/
def presentEntry (s : State) (i : Nat) : HistEntry :=
  let e := (estimate s i).getD (0, 0, 0)
  ⟨s.dtime, e.1, e.2.1, srcState s i, srcGen s i⟩

/-- The entries around a device time: the newest at or before it, and the one that follows, or the present. -/
def histAround (t : Nat) : HistEntry → List HistEntry → Option (HistEntry × HistEntry)
  | _, [] => none
  | newer, e :: rest => if e.time ≤ t then some (e, newer) else histAround t e rest

/-- The phase of a source at a device time, unwrapped; none where R245 gives UNBOUND. -/
def phaseAt (s : State) (i t : Nat) : Option Int :=
  if s.dtime < t then none
  else
    match histAround t (presentEntry s i) (getSrc s i).hist with
    | none => none
    | some (a, b) =>
      let bad (e : HistEntry) : Bool := e.state == srcAcquiring || e.state == srcLost
      if bad a || bad b || a.gen != b.gen then none
      else if i = 15 then some ((t : Int) * 2 ^ 32)
      else some (hermite a.est a.rate b.est b.rate (t - a.time) (b.time - a.time))

/-- The device time a 32.32 stamp names, at or before the present within half the range of a phase; else none. -/
def stampTime (s : State) (w : Word) : Option Nat :=
  let back := (dtNow s - w).toInt
  if 0 ≤ back && back.toNat ≤ s.dtime / 2 ^ 32 then some ((s.dtime / 2 ^ 32 - back.toNat) * 2 ^ 32) else none

/-- The phase of a source at a stamped time, as a cell (PHAT). -/
def phaseAtCell (s : State) (i : Nat) (w : Word) : Cell :=
  match stampTime s w with
  | none => cellUnbound
  | some t =>
    match phaseAt s i t with
    | some v => ⟨tagPhase i, if i = 15 then w else phaseWord v⟩
    | none => cellUnbound

/-- The device time since which the present estimate of a source has followed one course. -/
def courseFrom (s : State) (i : Nat) : Nat :=
  let p := if srcType s i = typDerived then srcInput s i else i
  if i = 15 then 0 else if srcType s p = typDrive then (getDrive s (srcInput s p)).t0 else (getSrc s p).t0

/-- The estimate of a source at a device time not after the present, as a phase cell; UNBOUND where there was none: the present
course where it held then already, the history before that (R257). -/
def phaseCellAt (s : State) (i t : Nat) : Cell :=
  if s.dtime ≤ t then phaseCell s i
  else
    match (if courseFrom s i ≤ t then (estimateAt s i t).map (fun v => v.1) else phaseAt s i t) with
    | some v => ⟨tagPhase i, phaseWord v⟩
    | none => cellUnbound

/-- A PHASE cycle at the nominal rate, 2 ns, in 2^-64 s. -/
@[reducible] def phaseCycle : Nat := 36893488147

/-- 250 ps in 2^-64 s: the resolution of input stamps (R237) and of SYNC_OUT. -/
@[reducible] def vernier : Nat := 4611686018

/-- The history period of a source in 2^-64 s: 2^(HPER + 6) PHASE cycles; HPER is 10 at most, and 10 for PS15 (R244, R246). -/
def historyPeriod (s : State) (i : Nat) : Nat :=
  2 ^ ((if i = 15 then 10 else min 10 (fget s fldPHASE_SRC_CFG_HPER i)) + 6) * phaseCycle

/-- A new period has begun since the newest entry, or there is none. -/
def historyDue (s : State) (i : Nat) : Bool :=
  match (getSrc s i).hist with
  | [] => true
  | e :: _ => decide (e.time / historyPeriod s i < s.dtime / historyPeriod s i)

/-- A history entry is recorded (R244): the 65,536 most recent are kept. -/
def recordHistory (i : Nat) (s : State) : State :=
  modSrc i (fun x => { x with hist := (presentEntry s i :: x.hist).take 65536 }) s

/-- DUE minus the estimate, read as signed (R250); none without an estimate. -/
def dueDiff (s : State) (i : Nat) (due : Word) : Option Int :=
  (estimate s i).map (fun v => (due - phaseWord v.1).toInt)

/-! ### Fences among phase-stamped posts (R100, R349) -/

/-- A FENCE.P, or a host FENCE of kind P: what the poster posts from now on follows, on different sources, what it has posted and is still to come. Fences
that nothing lies before are forgotten. -/
def placeFence (who : Nat) (s : State) : State :=
  let waits (f : Nat × Nat) : Bool :=
    s.alarms.any (fun a => a.poster == f.1 && decide (a.seq < f.2)) ||
    s.drives.any (fun q => q.2.frames.any (fun g => g.poster == f.1 && decide (g.seq < f.2)))
  { s with fences := ((who, s.seq) :: s.fences.filter (fun f => f != (who, s.seq))).filter waits }

end Sys2Proof.Machine
end

