-- ==== Sys2Proof/Machine/Admission.lean ====
section
/-!
DEFINITION. Machine/Admission.lean: grants and the checks at the door (R368 to R371 of 15_delivery_promise.md), what
admitted work runs (R369, R381), the clock domains it pins (R414), and the counters of GLB_ADM_PSTAT.
A check answers none when the request is admitted, else its refusal code (R371).
-/

namespace Sys2Proof.Machine

/-! ### Refusal codes (R371) -/

@[reducible] def admNoGrant : Nat := 1
@[reducible] def admClass : Nat := 2
@[reducible] def admCost : Nat := 3
@[reducible] def admLead : Nat := 4
@[reducible] def admSource : Nat := 5
@[reducible] def admQuota : Nat := 6
@[reducible] def admDegraded : Nat := 7

/-- A failure flag of CLK_STAT is set. -/
def clockDegraded (s : State) : Bool := bitsOf (getReg s .CLK_STAT 0) 9 0 != 0

/-! ### Grants (R368) -/

@[reducible] def grTask : Nat := 1
@[reducible] def grRsmp : Nat := 2
@[reducible] def grSpec : Nat := 3
@[reducible] def grDrive : Nat := 4
@[reducible] def grAlarm : Nat := 5
@[reducible] def grHost : Nat := 6
@[reducible] def grExport : Nat := 7

def grKind (s : State) (i : Nat) : Nat :=
  let k := fget s fldGLB_ADM_GRANT_KIND i
  if k ≤ 7 then k else 0
def grClass (s : State) (i : Nat) : Nat := fget s fldGLB_ADM_GRANT_CLASS i
def grLimit (s : State) (i : Nat) : Nat := fget s fldGLB_ADM_GRANT_LIMIT i

/-- The grants of a kind, partition and index. -/
def grantsFor (s : State) (kind part index : Nat) : List Nat :=
  (List.range 256).filter (fun i => grKind s i == kind && fget s fldGLB_ADM_GRANT_PART i == part &&
    fget s fldGLB_ADM_GRANT_INDEX i == index)

/-- The grant a request uses, of its class or a higher one (PHASE above STREAM), or the refusal. -/
def grantOf (s : State) (kind part index cls : Nat) : Except Nat Nat :=
  match grantsFor s kind part index with
  | [] => .error admNoGrant
  | g :: gs =>
    match (g :: gs).find? (fun i => if cls = 3 then grClass s i == 3 else decide (cls ≤ grClass s i) && grClass s i != 3) with
    | some i => .ok i
    | none => .error admClass

/-- The TASK grant of a task (R375). -/
def taskGrant (s : State) (p t : Nat) : Option Nat :=
  (List.range 256).find? (fun g => grKind s g == grTask && fget s fldGLB_ADM_GRANT_PART g == p &&
    fget s fldGLB_ADM_GRANT_INDEX g % 1024 == t)

/-! ### Sources (R370) -/

/-- WMAX of a source as an exact value; PS15 declares 1.0. -/
def wmaxOf (s : State) (i : Nat) : FV :=
  if i = 15 then .fin false 1 1 else fvOf fmt32 (fget s fldGLB_ADM_SRC_WMAX i)

/-- `x` (2^-32 rev) takes at least `num / den` seconds at WMAX. -/
def leadOk (s : State) (i : Nat) (x : Int) (num den : Nat) : Bool :=
  match wmaxOf s i with
  | .fin false n d => if n = 0 then false else decide ((num * n * 2 ^ 32 : Nat) ≤ x * ((den * d : Nat) : Int))
  | _ => false

/-- The source checks of a PHASE request. -/
def sourceReady (s : State) (i : Nat) : Bool :=
  let declared := match wmaxOf s i with
    | .fin false n _ => n != 0
    | .inf false => true
    | _ => false
  let fast := match estimate s i with
    | none => false
    | some v => typDrive ≤ srcType s i || i == 15 || decide (16 * bwOf s i * 2 ^ 32 ≤ v.2.1.natAbs * eprOf s i)
  declared && srcState s i == srcLocked && srcSettled s i && fast

/-- The distance to DUE in the direction of travel. -/
def dueAhead (dir : Nat) (diff : Int) : Int := if dir = 0 then diff else if dir = 1 then -diff else diff.natAbs

/-! ### The checks (R370) -/

/-- An alarm with PCLASS = 1. -/
def admitAlarm (s : State) (part src dir : Nat) (due : Word) : Option Nat :=
  if clockDegraded s then some admDegraded
  else
    match grantOf s grAlarm part src 2 with
    | .error c => some c
    | .ok g =>
      let armed := (s.alarms.filter (fun a => a.pclass && a.part == part && a.src == src)).length
      if bitsOf (w64 (grLimit s g)) 12 0 ≤ armed || 64 ≤ (s.alarms.filter (fun a => a.pclass)).length then some admQuota
      else if !sourceReady s src then some admSource
      else
        match dueDiff s src due with
        | none => some admSource
        | some d => if leadOk s src (dueAhead dir d) 120 1000000000 then none else some admLead

/-- A drive frame with PCLASS = 1; without DUE there is no source to check. -/
def admitFrame (s : State) (part out : Nat) (due : Option (Nat × Word)) : Option Nat :=
  if clockDegraded s then some admDegraded
  else
    match grantOf s grDrive part out 2 with
    | .error c => some c
    | .ok _ =>
      match due with
      | none => some admLead
      | some (src, w) =>
        if !sourceReady s src then some admSource
        else
          match dueDiff s src w with
          | none => some admSource
          | some d => if leadOk s src d (max 2 (fget s fldDRV_GCTL_LEAD 0) + 2) 204800 then none else some admLead

/-- M × K × 8 × WMAX ≤ LIMIT × 1,000. -/
def admitRsmp (s : State) (part unit slot cls m k src : Nat) : Option Nat :=
  if cls = 0 then none
  else if clockDegraded s then some admDegraded
  else
    match grantOf s grRsmp part (4 * unit + slot) cls with
    | .error c => some c
    | .ok g =>
      match wmaxOf s src with
      | .fin false n d =>
        if n = 0 then some admSource
        else if m * k * 8 * n ≤ grLimit s g * 1000 * d then none else some admCost
      | _ => some admSource

/-- C ≤ CMAX × 64. -/
def admitSpec (s : State) (part eng slot cls cost : Nat) : Option Nat :=
  if cls = 0 then none
  else if clockDegraded s then some admDegraded
  else
    match grantOf s grSpec part (16 * eng + slot) cls with
    | .error c => some c
    | .ok g => if cost ≤ grLimit s g % 2 ^ 20 * 64 then none else some admCost

/-- A host descriptor of class CONTROL: at most LIMIT accepted in the last 100 µs. -/
def admitHost (s : State) (part ring recent : Nat) : Option Nat :=
  if clockDegraded s then some admDegraded
  else
    match grantOf s grHost part ring 3 with
    | .error c => some c
    | .ok g => if recent < grLimit s g % 65536 then none else some admQuota

/-- The divider of a channel entry. -/
def chanRdiv (s : State) (i : Nat) : Nat := fget s fldSFL_CHT_A_RDIVM1 i + 1

/-- A rate in bytes per second as a fraction, and the export of `count` entries with divider `rdiv` added to it (data and flags). -/
def addRate (a : Nat × Nat) (count rdiv : Nat) : Nat × Nat := (a.1 * rdiv + count * 5 * 204800 * a.2, a.2 * rdiv)

/-- An EXPORT of class CONTROL into record ring 16 to 19. -/
def admitExport (s : State) (fn ring first count ns : Nat) : Option Nat :=
  if clockDegraded s then some admDegraded
  else
    match grantOf s grExport fn ring 1 with
    | .error c => some c
    | .ok g =>
      let running := (s.exports.filter (fun e => e.fn == fn && e.ring == ring)).foldl
        (fun a e => addRate a e.count (chanRdiv s e.first)) (0, 1)
      let all := addRate running count (chanRdiv s first)
      if grLimit s g % 65536 < ns || grLimit s g / 65536 * 1000000 * all.2 < all.1 then some admCost else none

/-! ### Admitted work (R369, R381) -/

/-- CLASS of a job's descriptor. -/
def jobClass (j : Job) : Nat :=
  let w := (j.desc.getD 0 cellVoid).data
  if j.eng < 8 then bitsOf w 18 17 else bitsOf w 28 27
def jobAdmitted (j : Job) : Bool := jobClass j != 0

/-- A source is named by a grant of KIND ALARM, or by admitted work. -/
def srcAdmitted (s : State) (i : Nat) : Bool :=
  (List.range 256).any (fun g => grKind s g == grAlarm && fget s fldGLB_ADM_GRANT_INDEX g == i) ||
  s.alarms.any (fun a => a.pclass && a.src == i) ||
  s.drives.any (fun q => q.2.frames.any (fun f =>
    bitOf (f.cells.getD 0 cellVoid).data 11 && isPhase (f.cells.getD 1 cellVoid).tag &&
    phaseOf (f.cells.getD 1 cellVoid).tag == i)) ||
  s.jobs.any (fun j => decide (j.eng < 8) && jobAdmitted j && bitsOf (j.desc.getD 0 cellVoid).data 9 6 == i)

/-- An output has admitted PHASE work. -/
def outAdmitted (s : State) (o : Nat) : Bool :=
  (getDrive s o).frames.any (fun f => bitOf (f.cells.getD 0 cellVoid).data 11)

/-- A partition has admitted PHASE work. -/
def partAdmitted (s : State) (p : Nat) : Bool :=
  s.alarms.any (fun a => a.pclass && a.part == p) || s.jobs.any (fun j => j.part == p && jobClass j == 2) ||
  s.drives.any (fun q => q.2.frames.any (fun f => f.part == p && bitOf (f.cells.getD 0 cellVoid).data 11)) ||
  (List.range 256).any (fun g => grKind s g == grTask && grClass s g == 2 && fget s fldGLB_ADM_GRANT_PART g == p)

/-- A larder bank carries admitted work: the state area of an admitted spectral job lies in it. -/
def bankAdmitted (s : State) (b : Nat) : Bool :=
  s.jobs.any (fun j =>
    let w := (j.desc.getD 5 cellVoid).data
    decide (8 ≤ j.eng) && jobAdmitted j && bitOf w 0 &&
    (List.range (bitsOf w 3 1 + 1)).any (fun i =>
      match fabricXlate s j.part .store (bitsOf w 43 18 * 2 ^ 18 + i * 0x40000) with
      | .ok pa => (pa - 0xE0000000000) / 0x40000 == b && decide (0xE0000000000 ≤ pa)
      | .error _ => false))

/-- The clock domains a grant pins (R414), by the numbers of R411. -/
def pinsOf (kind index : Nat) : List Nat :=
  if kind = grTask then [index / 8192 % 8, 8, 9, 10, 19, 20]
  else if kind = grRsmp then [12, 13, 8, 19, 20]
  else if kind = grSpec then [11, 8, 9, 19, 20]
  else if kind = grDrive then [14, 13, 15, 8]
  else if kind = grAlarm then [13, 8]
  else if kind = grExport then [17, 16, 8, 19, 20]
  else []

/-- A domain is pinned (R414). -/
def domPinned (s : State) (d : Nat) : Bool :=
  (List.range 256).any (fun g => (grClass s g == 1 || grClass s g == 2) &&
    (pinsOf (grKind s g) (fget s fldGLB_ADM_GRANT_INDEX g)).contains d) ||
  s.jobs.any (fun j => jobAdmitted j && (pinsOf (if j.eng < 8 then grRsmp else grSpec) 0).contains d) ||
  (s.alarms.any (fun a => a.pclass) && (pinsOf grAlarm 0).contains d) ||
  (s.drives.any (fun q => q.2.frames.any (fun f => bitOf (f.cells.getD 0 cellVoid).data 11)) &&
    (pinsOf grDrive 0).contains d) ||
  (s.exports.any (fun e => e.control) && (pinsOf grExport 0).contains d)

/-! ### Counters (GLB_ADM_PSTAT) -/

/-- Whether a millisecond of device time has passed since the time kept under a key. -/
def msSince (m : Sparse Nat) (key now : Nat) : Bool :=
  match m.find? (fun p => p.1 == key) with
  | none => true
  | some (_, t) => decide (t + 2 ^ 64 / 1000 ≤ now)
/-- A count of OVERRUN, LATE or STALL for partition or PF `f`: ADMISSION is raised, at most once per millisecond (R369). -/
def countAdm (fld : Fld) (f : Nat) (s : State) : State :=
  let s1 := countSat fld f 1 s
  let key := 64 * f + fld.lo
  if !msSince s1.admAt key s1.dtime then s1
  else
    let s2 := raiseKeeper 0x24 { s1 with admAt := recPut key s1.dtime s1.admAt }
    if f < 8 then raisePart f 12 s2 else s2
/-- A source whose live rate exceeds WMAX counts DYN for its owner, at most once per millisecond (R369). -/
def countDyn (i : Nat) (s : State) : State :=
  let fast := match estimate s i with
    | none => false
    | some v => fvCmp (wmaxOf s i) (.fin false v.2.1.natAbs (2 ^ 32)) == some .lt
  if !fast || i == 15 || !msSince s.dynAt i s.dtime then s
  else countSat fldGLB_ADM_PSTAT_DYN ((srcOwner s i).getD 8) 1 { s with dynAt := recPut i s.dtime s.dynAt }

end Sys2Proof.Machine
end

