-- ==== Sys2Proof/Machine/HostBase.lean ====
section
/-!
DEFINITION. Machine/HostBase.lean: the rings of a function (R338 to R341), interrupts, the journal and the ATTIC (R359,
R360), record rings and the shadow (R356 to R358), and the end of an accepted command (R351), shared by every engine that
writes to the host (14_host_rings.md). Function f is VF f for f < 8 and the PF for f = 8 (R332).
-/

namespace Sys2Proof.Machine

/-! ### Functions -/

def HostFn.idle : HostFn :=
  { db := [], bind := [], lostMarks := 0, lostSince := 0, unsignalled := [], shadowPos := 0,
    dataPos := [], control := [] }

def getFn (s : State) (f : Nat) : HostFn := sparseGet (fun _ => HostFn.idle) s.hostFns f
def modFn (f : Nat) (g : HostFn → HostFn) (s : State) : State := { s with hostFns := recPut f (g (getFn s f)) s.hostFns }

@[reducible] def fnDetached : Nat := 0
@[reducible] def fnRunning : Nat := 1
@[reducible] def fnRecover : Nat := 2

def fnState (s : State) (f : Nat) : Nat := fget s fldHIF_FN_STAT_FSTATE f
def fnVer (s : State) (f : Nat) : Nat := fget s fldHIF_FN_NEG_AGREED f

/-- The function that speaks for a partition, or for the keeper. -/
def fnOfPart : Option Nat → Nat
  | some p => p
  | none => 8

/-- Something leaves the device. -/
def emit (o : Outbound) (s : State) : State := { s with outbound := s.outbound ++ [o] }

/-- A change of FSTATE (R337): vector SVEC and the HIF_STATE events. -/
def setFnState (f st : Nat) (s : State) : State :=
  if fnState s f = st then s
  else
    let s1 := emit (.msix f (fget s fldHIF_FN_CTL_SVEC f)) (fset fldHIF_FN_STAT_FSTATE f st s)
    let s2 := raiseKeeper 0x21 s1
    if f < 8 then raisePart f 11 s2 else s2

/-! ### Rings (R338, R339) -/

/-- The index of ring `r` of function `f` among the ring registers. -/
def ringIx (f r : Nat) : Nat := 21 * f + r

def ringOn (s : State) (f r : Nat) : Bool := fbit s fldHIF_RING_CFG_EN (ringIx f r)

/-- Entries of a ring, with the value other settings act as. -/
def atticLog (s : State) (f : Nat) : Nat :=
  let n := fget s fldHIF_ATTIC_LOG2N f
  if 9 ≤ n && n ≤ 13 then n else 9
def ringSize (s : State) (f r : Nat) : Nat :=
  let n := fget s fldHIF_RING_CFG_LOG2N (ringIx f r)
  if r = 20 then 2 ^ atticLog s f
  else if r < 16 then 2 ^ (if 4 ≤ n && n ≤ 12 then n else 4)
  else 2 ^ (if 4 ≤ n && n ≤ 16 then n else 4)

/-- The next sequence number of a ring (HIF_RING_SEQ). -/
def ringSeq (s : State) (f r : Nat) : Nat := fget s fldHIF_RING_SEQ_SEQ (ringIx f r)
def ringAdvance (f r : Nat) (s : State) : State := fset fldHIF_RING_SEQ_SEQ (ringIx f r) ((ringSeq s f r + 1) % 2 ^ 48) s

/-- The last accepted doorbell value of a ring. -/
def doorbell (s : State) (f r : Nat) : Nat := sparseGet (fun _ => 0) (getFn s f).db r
def setDoorbell (f r v : Nat) (s : State) : State := modFn f (fun x => { x with db := recPut r v x.db }) s

/-- The difference of two sequence numbers modulo 2^48, read as signed (R339). -/
def seqDiff (a b : Nat) : Int := signedOf 48 ((a + 2 ^ 48 - b % 2 ^ 48) % 2 ^ 48)

/-- The host address of the entry of a sequence number. -/
def ringAddr (s : State) (f r seq bytes : Nat) : Nat :=
  fget s fldHIF_RING_BASE_BASE (ringIx f r) * 4096 + bytes * (seq % ringSize s f r)

/-- A ring's vector after an entry: at once, or at most MOD µs later (INTERRUPT_MODERATION). -/
def signalRing (f r : Nat) (s : State) : State :=
  if !fbit s fldHIF_RING_CFG_IEN (ringIx f r) then s
  else if fget s fldHIF_RING_CFG_MOD (ringIx f r) = 0 then emit (.msix f (fget s fldHIF_RING_CFG_VEC (ringIx f r))) s
  else modFn f (fun x =>
    { x with unsignalled := if (x.unsignalled.any (fun e => e.1 == r)) then x.unsignalled
                            else recPut r s.dtime x.unsignalled }) s

/-! ### The journal and the ATTIC (R359, R360) -/

def jKind (w : List Word) : Nat := bitsOf (w.getD 0 0) 3 0
def jRing (w : List Word) : Nat := bitsOf (w.getD 0 0) 8 4
def jSeq (w : List Word) : Nat := bitsOf (w.getD 0 0) 63 16

/-- The records of a function that have not retired, oldest first. A record retires when the completion of its command
lies below HC, a RESET record when the record after it does. -/
def keepUnretired (s : State) (f : Nat) : List JournalRec → List JournalRec
  | [] => []
  | r :: rest =>
    let gone (w : List Word) : Bool := decide (0 < seqDiff (doorbell s f (8 + jRing w)) (jSeq w))
    let retired := if jKind r.words = 3 then (match rest with
        | n :: _ => jKind n.words != 3 && gone n.words
        | [] => false)
      else gone r.words
    if retired then keepUnretired s f rest else r :: rest

def pruneJournal (f : Nat) (s : State) : State :=
  { s with journal := s.journal.filter (fun r => r.fn != f) ++
             keepUnretired s f (s.journal.filter (fun r => r.fn == f)) }

/-- Journal entries in use or reserved: unretired records, and one DONE for each command that has only its ACCEPT. -/
def journalUsed (s : State) (f : Nat) : Nat :=
  (match s.journal.find? (fun r => r.fn == f) with
    | none => 0
    | some r => (ringSeq s f 20 + 2 ^ 48 - r.seq) % 2 ^ 48) +
  (s.cmds.filter (fun c => c.fn == f && decide (c.stage < 4))).length

/-- The cell address of journal record `j` in the ATTIC region. -/
def atticAddr (s : State) (f j : Nat) : Nat :=
  bankAddr (fget s fldHIF_ATTIC_BANK f) (fget s fldHIF_ATTIC_OFFS f * 512 + 4 * (j % 2 ^ atticLog s f))

/-- A journal record is written to the ATTIC and, while the function runs, to the host. -/
def writeJournal (f : Nat) (words : List Word) (s : State) : State :=
  if fnVer s f != 3 then s
  else
    let j := ringSeq s f 20
    let w1 := w64 (j + fget s fldHIF_FN_RSTGEN_WARM f % 65536 * 2 ^ 48)
    let rec4 := [words.getD 0 0, w1, words.getD 2 0, words.getD 3 0]
    let s1 := cohPuts (atticAddr s f j) (rec4.map cellRaw) s
    let s2 := if fnState s f = fnRunning then emit (.hostWrite f (ringAddr s f 20 j 32) rec4) s1 else s1
    ringAdvance f 20 { s2 with journal := s2.journal ++ [⟨f, j, rec4⟩] }

/-- A RESET journal record (KIND 3). -/
def journalReset (f scope : Nat) (s : State) : State :=
  writeJournal f [3, 0, w64 scope, getReg s .HIF_FN_RSTGEN f] s

/-- The DONE record of a command (KIND 2). -/
def journalDone (c : HostCmd) (s : State) : State :=
  writeJournal c.fn [w64 (2 + c.ring * 16 + c.seq * 2 ^ 16), 0,
    w64 (c.status + c.detail * 2 ^ 16 + c.res0 * 2 ^ 32), c.res1] s

/-! ### The end of a command (R351) -/

/-- A change of one accepted command. -/
def modCmd (fn ring seq : Nat) (g : HostCmd → HostCmd) (s : State) : State :=
  { s with cmds := s.cmds.map (fun c => if c.fn == fn && c.ring == ring && c.seq == seq then g c else c) }

/-- A command's effect ends with a status. -/
def endCmd (fn ring seq status detail res0 : Nat) (res1 : Word) (s : State) : State :=
  modCmd fn ring seq (fun c =>
    if c.stage < 3 then { c with
      stage := 3
      status := status
      detail := detail
      res0 := res0
      res1 := res1 } else c) s

/-- The host command behind a drive frame ends (R345). -/
def endFrameCmd (fr : Frame) (status detail : Nat) (s : State) : State :=
  match fr.host with
  | none => s
  | some (f, r, q) => endCmd f r q status detail 0 0 s

/-! ### Records (R356 to R358) -/

/-- Entries of a function's record shadow. -/
def shadowSize (s : State) (f : Nat) : Nat :=
  let n := fget s fldHIF_SHADOW_LOG2N f
  2 ^ (if 10 ≤ n && n ≤ 20 then n else 10)

/-- The data area of a record ring, in bytes. -/
def dataSize (s : State) (f r : Nat) : Nat :=
  let n := fget s fldHIF_RING_AUX_LOG2D (ringIx f r)
  2 ^ (if 16 ≤ n && n ≤ 40 then n else 16)

/-- Records of a ring that have not been consumed. -/
def heldRecords (s : State) (f r : Nat) : List RecEntry := s.records.filter (fun e => e.fn == f && e.ring == r)

/-- The shadow of a function is full. -/
def shadowFull (s : State) (f : Nat) : Bool :=
  fnVer s f == 3 && decide (shadowSize s f ≤ (s.records.filter (fun e => e.fn == f)).length)

/-- A record ring has room for an entry with `bytes` of data. -/
def recordRoom (s : State) (f r bytes : Nat) : Bool :=
  let used := (heldRecords s f r).foldl (fun a e => a + 8 * e.data.length) 0
  (fnState s f == fnRunning || (fnState s f == fnRecover && fnVer s f == 3)) && ringOn s f r &&
  decide ((heldRecords s f r).length < ringSize s f r) && !shadowFull s f && decide (used + bytes ≤ dataSize s f r)

/-- A record is written (V = 1): data, then the entry, to the shadow and, while the function runs, to the host. `pos` is
the data's offset since the area began. -/
def pushRecord (f r kind pos : Nat) (words data : List Word) (s : State) : State :=
  let seq := ringSeq s f r
  let w0 := w64 (seq + 2 ^ 48 + kind * 2 ^ 50)
  let e : RecEntry := ⟨f, r, seq, w0 :: words, data, fnState s f == fnRunning⟩
  let s1 := { s with records := s.records ++ [e] }
  let s2 := if fnVer s f = 3 then
      modFn f (fun x => { x with shadowPos := x.shadowPos + 1 })
        (cohPuts (fget s fldHIF_SHADOW_BASE f * 4096 + 64 * ((getFn s f).shadowPos % shadowSize s f))
          (e.words.map cellRaw) s1)
    else s1
  let s3 := if e.sent then
      let area := fget s fldHIF_RING_AUX_DBASE (ringIx f r) * 4096
      let t := if data.isEmpty then s2 else emit (.hostWrite f (area + pos % dataSize s f r) data) s2
      signalRing f r (emit (.hostWrite f (ringAddr s f r seq 64) e.words) t)
    else s2
  ringAdvance f r (fset fldHIF_FN_STAT_SFULL f (shadowFull s3 f).toNat s3)

/-- Pads the words of a record to W1 to W7. -/
def recWords (ws : List Word) : List Word := (List.range 7).map (fun i => ws.getD i 0)

/-- W2 of a GAP record: FIRST, COUNT - 1, GEN, REASON. -/
def gapWord (first count gen reason : Nat) : Word := w64 (first + (count - 1) * 2 ^ 14 + gen % 256 * 2 ^ 20 + reason * 2 ^ 28)
/-- A GAP record (kind 4): the time of the first lost sample, W2, the first lost index, samples lost. -/
def pushGap (f r : Nat) (time w2 : Word) (idx lost : Nat) (s : State) : State :=
  pushRecord f r 4 0 (recWords [time, w2, w64 idx, w64 lost]) [] s

/-- The record ring that takes a function's markers: its lowest enabled one. -/
def markerRing (s : State) (f : Nat) : Nat := ((List.range 4).map (fun i => 16 + i)).find? (fun r => ringOn s f r) |>.getD 16

/-- One GAP with REASON 5 for the markers that found no room, from the time of the first. -/
def markGap (f r : Nat) (s : State) : State :=
  modFn f (fun x => { x with lostMarks := 0 }) (pushGap f r (getFn s f).lostSince (gapWord 0 1 0 5) 0 (getFn s f).lostMarks s)

/-- A MARKER record (kind 2): counted where no room is; a GAP with REASON 5 goes first when room returns (R357). -/
def pushMarker (f src ident : Nat) (time w3 w4 : Word) (s : State) : State :=
  let r := markerRing s f
  let lost := (getFn s f).lostMarks
  let need := if lost = 0 then 1 else 2
  if recordRoom s f r 0 && decide ((heldRecords s f r).length + need ≤ ringSize s f r) then
    let s1 := if lost = 0 then s
      else markGap f r s
    pushRecord f r 2 0 (recWords [time, w64 (src + ident * 2 ^ 32), w3, w4]) [] s1
  else modFn f (fun x => { x with
    lostSince := if x.lostMarks = 0 then time else x.lostSince
    lostMarks := x.lostMarks + 1 }) s

/-- A RESET record (kind 5) on every enabled record ring. -/
def pushResets (f scope : Nat) (s : State) : State :=
  ((List.range 4).map (fun i => 16 + i)).foldl (fun t r =>
    if ringOn t f r then pushRecord f r 5 0 (recWords [dtNow t, w64 scope, getReg t .HIF_FN_RSTGEN f]) [] t else t) s

/-! ### Wakes of engines (R142, R262) -/

/-- The target word of a wake names a task (KIND 0, reserved bits 0). -/
def targetOk (c : Cell) : Bool :=
  (c.tag == tagFix || c.tag == tagRaw64) && bitsOf c.data 1 0 == 0 && bitsOf c.data 31 15 == 0
def wakeOk (c : Cell) : Bool := c.tag == tagNil || targetOk c

/-- Wake code `code` for the task a target word names; NIL wakes none. A target of the keeper's has no partition. A wake that
bounces returns the first three cells of `desc` (R146). -/
def wakeTarget (part : Option Nat) (c : Cell) (code : Nat) (desc : List Cell) (s : State) : State :=
  match part with
  | some p => if c.tag = tagNil then s else wakeTask p (bitsOf c.data 14 5) (bitsOf c.data 63 32) code desc s
  | none => s

end Sys2Proof.Machine
end

