-- ==== Sys2Proof/Machine/Engines.lean ====
section
/-!
DEFINITION. Machine/Engines.lean: what resampler units and spectral engines share (11_resampling_spectra.md): slots, memory
accesses, status records, ownership (R261, R262, R282), and the channels they read (R299, R300). Units 0 to 7 are the
resampler's, 8 + e the spectral engines. Machine/Resampler.lean and Machine/Spectral.lean hold the two.
-/

namespace Sys2Proof.Machine

/-! ### Slots -/

def engOwner (s : State) (u : Nat) : Option Nat :=
  if u < 8 then (if fbit s fldRSMP_UNIT_OWN_ASSIGNED u then some (fget s fldRSMP_UNIT_OWN_PART u) else none)
  else if fbit s fldSPEC_ENG_OWN_ASSIGNED (u - 8) then some (fget s fldSPEC_ENG_OWN_PART (u - 8)) else none

/-- The power domain of a unit or engine is ON (R261, R425). -/
def pwrOn (s : State) (d : Nat) : Bool := fget s fldPWR_DOM_CTL_PST d == 1
def engPowered (s : State) (u : Nat) : Bool := if u < 8 then pwrOn s 22 else pwrOn s (18 + (u - 8) / 4)

def findJob (s : State) (u slot : Nat) : Option Job := s.jobs.find? (fun j => j.eng == u && j.slot == slot)
def putJob (j : Job) (s : State) : State :=
  { s with jobs := s.jobs.map (fun x => if x.eng == j.eng && x.slot == j.slot then j else x) }
def dropJob (u slot : Nat) (s : State) : State :=
  { s with jobs := s.jobs.filter (fun j => !(j.eng == u && j.slot == slot)) }

def jw (j : Job) (i : Nat) : Word := (j.desc.getD i cellVoid).data

/-- Answers of a post: a status without effect; a refusal by admission with its code (R371). -/
def answerNo (n : Nat) (s : State) : Nat × State := (n, s)
def notAdmitted (code : Nat) (s : State) : Nat × State := (4, { s with postCode := code })

/-! ### Engine accesses to partition memory (R171) -/

/-- An access that nothing answers (R173, R193): an address that is absent or in the register region, a bank that is not ON. The
syndrome is that of an address of the wrong size. -/
def engFault (s : State) (ipa pa : Nat) : Option XFault :=
  let bad : XFault := ⟨xAddrSize, 0, true, false, false, none, ipa⟩
  match regionOf s pa with
  | .ddr => none
  | .larder b _ => if bankOn s b then none else some bad
  | _ => some bad

/-- Where an access of an engine for a partition goes, or its fault. -/
def engPa (s : State) (p : Nat) (acc : Access) (a : Nat) : Except XFault Nat :=
  match fabricXlate s p acc a with
  | .error f => .error f
  | .ok pa =>
    match engFault s a pa with
    | some f => .error f
    | none => .ok pa

/-- Where an access for an owner goes: a partition's addresses are IPAs, the keeper's are PAs. -/
def spacePa (s : State) (o : Option Nat) (acc : Access) (a : Nat) : Except XFault Nat :=
  match o with
  | some p => engPa s p acc a
  | none =>
    match engFault s a a with
    | some f => .error f
    | none => .ok a

def spaceRead (s : State) (o : Option Nat) (a : Nat) : Except XFault Cell :=
  match spacePa s o .load a with
  | .error f => .error f
  | .ok pa => .ok (physRead s pa)

def engRead (s : State) (p a : Nat) : Except XFault Cell := spaceRead s (some p) a

/-- What reading `n` cells from an address of an owner does to the caches (R178, R181). -/
def seenCells (o : Option Nat) (a n : Nat) (s : State) : State :=
  (List.range ((a % 64 / 8 + n + 7) / 8)).foldl (fun t i =>
    match spacePa s o .load (a / 64 * 64 + 64 * i) with
    | .ok pa => agentRead (pa / 64) t
    | .error _ => t) s

def engReads (s : State) (p : Nat) : Nat → Nat → Except XFault (List Cell)
  | 0, _ => .ok []
  | n + 1, a =>
    match engRead s p a, engReads s p n (a + 8) with
    | .ok c, .ok cs => .ok (c :: cs)
    | .error f, _ => .error f
    | _, .error f => .error f

def spaceWrites (o : Option Nat) : Nat → List Cell → State → Except XFault State
  | _, [], s => .ok s
  | a, c :: cs, s =>
    match spacePa s o .store a with
    | .error f => .error f
    | .ok pa => spaceWrites o (a + 8) cs (cohPut pa c s)

def engWrites (p a : Nat) (cs : List Cell) (s : State) : Except XFault State := spaceWrites (some p) a cs s

/-- The syndrome of R169 of a fabric access, with STAGE = 1. -/
def fabSyndrome (f : XFault) (acc : Access) : Nat := syndrome f acc

/-! ### Status records (R262) -/

@[reducible] def jDone : Nat := 0
@[reducible] def jStopped : Nat := 1
@[reducible] def jLate : Nat := 2
@[reducible] def jOverrun : Nat := 3
@[reducible] def jSourceLost : Nat := 4
@[reducible] def jStale : Nat := 5
@[reducible] def jFault : Nat := 6
@[reducible] def jBadInput : Nat := 7

/-- The status record of a job. -/
def jobRecord (j : Job) (code syn : Nat) : Word :=
  let count := if j.eng < 8 then j.count else if bitsOf (jw j 0) 23 22 = 0 then 0 else j.count
  w64 (code + j.slot % 16 * 2 ^ 8 + j.seq % 65536 * 2 ^ 16 + syn % 1024 * 2 ^ 32 + j.flags % 32 * 2 ^ 42 +
    count % 2 ^ 17 * 2 ^ 47)

/-- One status record, then wake code 3; FAULT and BAD_INPUT raise ENGINE_FAULT. A fault on the record itself ends the job with
FAULT (R270): no record becomes visible, so no wake follows, and ENGINE_FAULT tells of it. -/
def reportJob (j : Job) (code syn : Nat) (s : State) : State :=
  let st := if j.eng < 8 then bitsOf (jw j 7) 43 3 * 8 else bitsOf (jw j 6) 43 3 * 8
  match (if st = 0 then .ok s else engWrites j.part st [cellRaw (jobRecord j code syn)] s) with
  | .error _ => raisePart j.part 6 (dropJob j.eng j.slot s)
  | .ok s1 =>
    let s2 := wakeTarget (some j.part) (j.desc.getD 1 cellNil) 3 j.desc s1
    if code = jFault || code = jBadInput then raisePart j.part 6 s2 else s2

/-- A job ends with a record. -/
def endJob (j : Job) (code syn : Nat) (s : State) : State := dropJob j.eng j.slot (reportJob j code syn s)

/-- The jobs of a unit, or of a partition, stop without a record (R282). -/
def stopJobs (pick : Job → Bool) (s : State) : State := { s with jobs := s.jobs.filter (fun j => !pick j) }

/-! ### Channels -/

def Channel.idle : Channel := { anchor := none, period := 0, widx := 0, gen := 0, shift := 0, restartAt := 0, arrivals := [] }
def getChan (s : State) (i : Nat) : Channel := sparseGet (fun _ => Channel.idle) s.channels i

/-- A channel entry belongs to a partition. -/
def chanOwned (s : State) (p i : Nat) : Bool :=
  fbit s fldSFL_CHT_A_ASSIGNED i && fget s fldSFL_CHT_A_PART i == p

/-- Entries named by a first index and a count. -/
def chanRange (first n : Nat) : List Nat := (List.range n).map (fun i => first + i)

/-- log2 of a channel's ring, in cells. -/
def chanLog (s : State) (i : Nat) : Nat :=
  let n := fget s fldSFL_CHT_B_LOG2N i
  if 6 ≤ n && n ≤ 24 then n else 6

/-- IPAs in a stream ring (R299): the cell of sample k, and its flag cell. -/
def sampleAddr (s : State) (i k : Nat) : Nat :=
  fget s fldSFL_CHT_B_BASE i * 64 + 64 + 8 * (k / 2 % 2 ^ chanLog s i)
def flagAddr (s : State) (i k : Nat) : Nat :=
  fget s fldSFL_CHT_B_BASE i * 64 + 64 + 8 * 2 ^ chanLog s i + 8 * (k / 16 % 2 ^ (chanLog s i - 3))

/-- The flags of a channel's entry: SUB (bit 3), UNC (bit 4). -/
def entryFlags (s : State) (i : Nat) : Nat :=
  (if fbit s fldSFL_CHT_A_UNC i then 16 else 0) + (if fbit s fldSFL_CHT_A_SUB i then 8 else 0)

/-- Flags of sample k as engines deliver them (R300): OVR, MISS (bit 1), UNC, SUB; or the fault that reading them takes. -/
def sampleFlags (s : State) (o : Option Nat) (i k : Nat) : Except XFault Nat :=
  match spaceRead s o (flagAddr s i k) with
  | .error f => .error f
  | .ok c =>
    let w := bitsOf c.data (4 * (k % 16) + 2) (4 * (k % 16))
    .ok (Nat.lor (w % 4 + (if w / 4 % 2 = 1 then 16 else 0)) (entryFlags s i))

/-- What reading samples `lo` to `hi` of a channel with their flags does to the caches. -/
def seenSamples (o : Option Nat) (i lo hi : Nat) (s : State) : State :=
  (List.range (hi / 16 + 1 - lo / 16)).foldl (fun t g =>
    let k := 16 * (lo / 16 + g)
    seenCells o (sampleAddr s i k) 1 (seenCells o (flagAddr s i k) 1 t)) s

/-- Sample k is still readable (R299). -/
def sampleHeld (s : State) (i k : Nat) : Bool := (getChan s i).widx ≤ k + 2 ^ (chanLog s i + 1)

/-- A descriptor with an operation in cell 0. -/
def specOp (op : Nat) : List Cell → List Cell
  | [] => []
  | c :: cs => ⟨c.tag, putBits c.data 3 0 op⟩ :: cs

/-! ### Ownership (R14, R282) -/

/-- A write of the OWN register of a unit or engine: only the keeper's counts; a domain that is OFF takes no assignment
(R425); a change of PART or ASSIGNED stops the unit's jobs. -/
def engOwnWrite (who : Agent) (u : Nat) (v : Word) (s : State) : State :=
  let r := if u < 8 then Reg.RSMP_UNIT_OWN else Reg.SPEC_ENG_OWN
  let i := if u < 8 then u else u - 8
  let new := putBits (getReg s r i) 3 0 (bitsOf v 3 0)
  if !isKeeper s who || (!engPowered s u && bitOf v 3) then s
  else if new = getReg s r i then s
  else setReg r i new (stopJobs (fun j => j.eng == u) s)

/-- ENGINE_OWN_WRITE (R282): units 0-7 are the resampler's, 8-23 the spectral engines. -/
def execEngineOwnWrite (who : Agent) (u : Fin 24) (value : BitVec 32) (s : State) : Host.Outcome State Fault Refusal :=
  .next (engOwnWrite who u.val (value.zeroExtend 64) s)

end Sys2Proof.Machine
end

