-- ==== Sys2Proof/Machine/Resampler.lean ====
section
/-!
DEFINITION. Machine/Resampler.lean: the resampler (R263 to R270): posts, the mapping of a revolution to device time, the filters,
the blocks and their order.
-/

namespace Sys2Proof.Machine

/-! ### Descriptors and posts (R264, R265) -/

def rK (j : Job) : Nat := 2 ^ bitsOf (jw j 0) 13 10
def rM (j : Job) : Nat := bitsOf (jw j 0) 24 19 + 1
def rSrc (j : Job) : Nat := bitsOf (jw j 0) 9 6
def rFirst (j : Job) : Nat := bitsOf (jw j 2) 15 0
def rClass (j : Job) : Nat := bitsOf (jw j 0) 18 17

/-- Cells of a block, padded to whole lines (R267). -/
def blockCells (j : Job) : Nat :=
  let n := 2 + rM j * (if bitOf (jw j 0) 15 then rK j else rK j / 2)
  (n + 7) / 8 * 8

/-- The channel-table entries a descriptor names. -/
def rsmpChans (desc : List Cell) : List Nat :=
  chanRange (bitsOf (desc.getD 2 cellVoid).data 15 0) (bitsOf (desc.getD 0 cellVoid).data 24 19 + 1)

/-- A malformed descriptor (R264, R265), of a START or a STOP. -/
def rsmpBad (s : State) (desc : List Cell) : Bool :=
  let c (i : Nat) : Cell := desc.getD i cellVoid
  let w := (c 0).data
  let raw (i : Nat) : Bool := (c i).tag == tagRaw64
  let op := bitsOf w 3 0
  let first := bitsOf (c 2).data 15 0
  !raw 0 || !(op == 1 || op == 2) || bitsOf w 63 30 != 0 ||
  !(raw 2 && raw 5 && raw 6 && raw 7) || !wakeOk (c 1) || decide (bitsOf w 13 10 < 4) || decide (12 < bitsOf w 13 10) ||
  bitsOf w 18 17 == 3 || decide (12 < bitsOf w 28 25) || bitsOf (c 2).data 63 16 != 0 ||
  !((c 3).tag == tagNil || ((c 3).tag == tagPhase (bitsOf w 9 6) && bitsOf (c 3).data 31 0 == 0)) ||
  (c 4).tag != tagFix || bitOf (c 4).data 63 || bitsOf (c 5).data 5 0 != 0 || bitsOf (c 5).data 63 44 != 0 ||
  bitsOf (c 6).data 63 49 != 0 || bitsOf (c 7).data 2 0 != 0 || bitsOf (c 7).data 63 44 != 0 ||
  (rsmpChans desc).any (fun i => chanRdiv s i != chanRdiv s first || fbit s fldSFL_CHT_A_FMT i != bitOf w 14)

/-- The first whole revolution of a source that begins after the present, in the direction of its rate. -/
def nextRev (s : State) (src : Nat) : Option Nat :=
  (estimate s src).map (fun v =>
    let r := v.1 / 2 ^ 96
    ((if v.2.1 < 0 then r - 1 else r + 1) % 2 ^ 32).toNat)

/-- A revolution by its low 32 bits, unwrapped to the one nearest to a phase. -/
def revNear (near : Int) (rev : Nat) : Int :=
  let r := near / 2 ^ 96
  r + signedOf 32 ((((rev : Int) - r) % 2 ^ 32).toNat)

/-- The first revolution of a job while its source has an estimate: START, or the next whole one; with the estimate now, or none
where START lies behind. -/
def firstRev (s : State) (j : Job) : Option (Nat × Option Int) :=
  match estimate s (rSrc j) with
  | none => none
  | some (y, rate, _) =>
    let c := j.desc.getD 3 cellNil
    if c.tag = tagNil || j.seq != 0 then (nextRev s (rSrc j)).map (fun r => (r, some y))
    else
      let r := bitsOf c.data 63 32
      let p := revNear y r * 2 ^ 96
      some (r, if (rate < 0 && y < p) || (0 ≤ rate && p < y) then none else some y)

/-- A job takes its first revolution, where the source has one. -/
def beginRevs (s : State) (j : Job) : Job :=
  match firstRev s j with
  | none => j
  | some (r, since) => { j with
      next := some r
      since := since }

/-- POST to a resampler queue (R261, R264, R265). -/
def postRsmp (who : Agent) (u : Nat) (desc : List Cell) (s : State) : Nat × State :=
  let w := (desc.getD 0 cellVoid).data
  let slot := bitsOf w 5 4
  match agentPart s who with
  | none => answerNo 2 s
  | some p =>
    if engOwner s u != some p || !srcReads s p (bitsOf w 9 6) ||
        !(rsmpChans desc).all (fun i => i < 16384 && chanOwned s p i) then answerNo 2 s
    else if rsmpBad s desc then answerNo 5 s
    else if !engPowered s u then answerNo 3 s
    else if bitsOf w 3 0 = 2 then
      match findJob s u slot with
      | none => answerNo 3 s
      | some j => (0, endJob j jStopped 0 s)
    else if (findJob s u slot).isSome then answerNo 3 s
    else
      match admitRsmp s p u slot (bitsOf w 18 17) (bitsOf w 24 19 + 1) (2 ^ bitsOf w 13 10) (bitsOf w 9 6) with
      | some code => notAdmitted code s
      | none =>
        (0, { s with jobs := s.jobs ++ [beginRevs s {
              eng := u, slot := slot, part := p, desc := desc, seq := 0, count := 0, flags := 0, ovrs := 0, next := none
              since := none, pend := none, cur := none, bulk := false, resetAfter := false, stopAfter := false
              fired := none, seed := 0 }] })

/-! ### From phase to device time (R245, R263) -/

/-- The entries with an estimate. -/
def goodEntries (h : List HistEntry) : List HistEntry := h.filter (fun e => e.state == srcLocked || e.state == srcCoasting)

/-- The newest adjacent entries with an estimate that a phase (2^-96 rev) lies between: the older and the newer. -/
def histCross (ph : Int) : List HistEntry → Option (HistEntry × HistEntry)
  | b :: a :: rest =>
    if (a.est ≤ ph && ph ≤ b.est) || (b.est ≤ ph && ph ≤ a.est) then some (a, b) else histCross ph (a :: rest)
  | _ => none

/-- The least number up to `hi` from which a condition holds, by bisection. -/
def crossSearch (reached : Nat → Bool) : Nat → Nat → Nat → Nat
  | 0, lo, _ => lo
  | n + 1, lo, hi =>
    if hi ≤ lo then lo
    else
      let mid := (lo + hi) / 2
      if reached mid then crossSearch reached n lo mid else crossSearch reached n (mid + 1) hi

/-- The device time at which the interpolated history reaches a phase, and a free value within 250 ps of it (R263). -/
def crossTime (ph : Int) (a b : HistEntry) (free : Nat) : Nat :=
  let d := b.time - a.time
  let at_ (x : Nat) : Int := hermite a.est a.rate b.est b.rate x d
  let x := crossSearch (fun x => if a.est ≤ b.est then decide (ph ≤ at_ x) else decide (at_ x ≤ ph)) 256 0 d
  min b.time (max a.time (a.time + x + free % (2 * vernier + 1) - vernier))

/-- The rate between two entries. -/
def crossRate (a b : HistEntry) (t : Nat) : Int :=
  a.rate + (b.rate - a.rate) * (t - a.time : Nat) / (max 1 (b.time - a.time) : Nat)

/-- What the history says of phases of a block: not recorded yet, gone, without a mapping, or mapped: device time, rate, and
whether the entries read COASTING. -/
inductive RevMap where
  | waits
  | stale
  | lost
  | mapped (points : List (Nat × Int × Bool))
deriving DecidableEq, Repr

/-- A phase has been passed between two estimates. -/
def passedSince (since : Option Int) (now ph : Int) : Bool :=
  match since with
  | none => true
  | some x => decide ((x ≤ ph && ph < now) || (now < ph && ph ≤ x))

/-- One phase of a source. -/
def pointMap (s : State) (src : Nat) (since : Option Int) (ph : Int) (free : Nat) : RevMap :=
  let h := (getSrc s src).hist
  match histCross ph (goodEntries h) with
  | some (a, b) =>
    if a.gen != b.gen then .lost
    else
      let t := crossTime ph a b free
      .mapped [(t, crossRate a b t, a.state == srcCoasting || b.state == srcCoasting)]
  | none =>
    match h with
    | [] => if (estimate s src).isSome then .waits else .lost
    | e :: _ =>
      if e.state != srcLocked && e.state != srcCoasting then .lost
      else if passedSince since e.est ph then .stale else .waits

/-- Two parts of a block together. -/
def RevMap.join : RevMap → RevMap → RevMap
  | .waits, _ => .waits
  | _, .waits => .waits
  | .stale, _ => .stale
  | _, .stale => .stale
  | .lost, _ => .lost
  | _, .lost => .lost
  | .mapped a, .mapped b => .mapped (a ++ b)

/-- The phase near which a job's revolution is read: the newest entry with an estimate, or the present. -/
def revAnchor (s : State) (src : Nat) : Int :=
  match goodEntries (getSrc s src).hist with
  | e :: _ => e.est
  | [] => ((estimate s src).map (fun v => v.1)).getD 0

/-- The K samples of a revolution: phases rev + i/K. -/
def revMap (s : State) (j : Job) (rev : Nat) : RevMap :=
  let src := rSrc j
  let k := rK j
  let words := j.desc.map (fun c => c.data)
  let base := revNear (revAnchor s src) rev * 2 ^ 96
  (List.range k).foldl (fun m (i : Nat) =>
    m.join (pointMap s src j.since (base + (i : Int) * 2 ^ 96 / (k : Int)) (Config.resampled words s.draw 64 i))) (.mapped [])

/-! ### Filters (R266) -/

/-- The decimation level and the taps of R266, from K|ω| in 2^-32 per second and the channel's divider. -/
def filterLevel (rho rdiv : Nat) : Nat × Nat :=
  let ratio (d : Nat) : Bool := 204800 * 2 ^ 32 ≤ 2 * rho * 2 ^ d * rdiv
  match (List.range 7).find? ratio with
  | none => (6, 64)
  | some d =>
    let full := 204800 * 2 ^ 32 ≤ rho * 2 ^ d * rdiv
    (d, if full then 32 else min 64 ((32 * 204800 * 2 ^ 32 + rho * 2 ^ d * rdiv - 1) / max 1 (rho * 2 ^ d * rdiv)))

/-- r_d as it stretches the prototype, as a fraction: 1 at most, 1/2 at least; and whether even level 6 lies below 1/2 (ALIAS). -/
def stretch (rho rdiv d : Nat) : Nat × Nat :=
  let n := rho * 2 ^ d * rdiv
  let full := 204800 * 2 ^ 32
  if full ≤ n then (1, 1) else if 2 * n < full then (1, 2) else (n, full)
def aliases (rho rdiv : Nat) : Bool := decide (2 * rho * 2 ^ 6 * rdiv < 204800 * 2 ^ 32)

/-- A tap of the half-band decimator of stage A, in 2^-64: 127 taps, linear phase, 1/2 at the centre, 0 at even distances. -/
def halfTap (k : Nat) : Int :=
  let m := (k - 63) + (63 - k)
  if m = 0 then 2 ^ 63 else if m % 2 = 0 then 0 else Config.halfBand (m / 2)

/-- One level of stage A on the samples from an index on: the sample at 2m is the centre of output m, so the group delay is removed.
The first index of the result, and the result. -/
def decimate (free : Nat → Nat) (base : Nat) (l : List Int) : Nat × List Int :=
  let m0 := (base + 63 + 1) / 2
  let n := (base + l.length - 63 + 1) / 2 - m0
  (m0, (List.range n).map (fun i =>
    let at_ := 2 * (m0 + i) - 63 - base
    let sum := (List.range 127).foldl (fun a k => a + halfTap k * l.getD (at_ + k) 0) (0 : Int)
    f32Signed (f32Near 1 (f32Frac sum (2 ^ 213)) (free i))))

/-- `d` levels. -/
def decimates (free : Nat → Nat) : Nat → Nat → List Int → Nat × List Int
  | 0, base, l => (base, l)
  | d + 1, base, l =>
    let r := decimate (fun i => free (d * 2 ^ 20 + i)) base l
    decimates free d r.1 r.2

/-- Stage B at position num / den of the samples from an index on: the prototype, 32 taps of 1,024 phases, interpolated linearly and
stretched by r = rn / rd. -/
def interpolate (wide : Bool) (base : Nat) (l : List Int) (num den rn rd : Nat) : Nat :=
  let dd : Int := (den * rd : Nat)
  let tap (q : Nat) : Int := f32Signed (Config.sincTap wide q % 2 ^ 32)
  let sum := l.zipIdx.foldl (fun (a : Int) p =>
    let y : Int := ((num : Int) - ((base + p.2 : Nat) : Int) * (den : Int)) * (rn : Int) * 1024 + 16384 * dd
    if y < 0 || 32768 * dd ≤ y then a
    else
      let q := (y / dd).toNat
      let f := y % dd
      a + (tap q * (dd - f) + tap (q + 1) * f) * p.1) 0
  f32Frac (sum * (rn : Int)) (2 ^ 298 * den * rd * rd)

/-! ### Inputs (R268 to R270) -/

/-- A device time as a position in a channel's samples: numerator, over rdiv × 2^64. -/
def samplePos (s : State) (i t : Nat) : Int :=
  ((t : Int) - (((getChan s i).anchor.getD 0).toNat * 2 ^ 32 : Nat)) * 204800
def sampleDen (s : State) (i : Nat) : Nat := chanRdiv s i * 2 ^ 64

/-- The input samples the kernel of an output touches: first and last index (R269); none below index 0. -/
def kernelSpan (s : State) (i t d taps : Nat) : Option (Nat × Nat) :=
  let span := 63 * (2 ^ d - 1) + taps * 2 ^ d / 2
  let u := samplePos s i t / (sampleDen s i : Int)
  if u < (span : Int) then none else some ((u - span).toNat, u.toNat + span)

/-- The status that ends a job, with its syndrome. -/
abbrev JobErr := Nat × Nat

/-- An input sample: its value with GAIN in 2^-149, none where it is missing or POISON; and its flags. What is not finite, or
overflows with GAIN, enters as zero with OVR (R268). -/
def readSample (s : State) (j : Job) (i k : Nat) : Except JobErr (Option Int × Nat) :=
  match sampleFlags s (some j.part) i k, engRead s j.part (sampleAddr s i k) with
  | .error f, _ => .error (jFault, fabSyndrome f .load)
  | _, .error f => .error (jFault, fabSyndrome f .load)
  | .ok fl, .ok c =>
    let lane := bitsOf c.data (32 * (k % 2) + 31) (32 * (k % 2))
    let gain := bitsOf (jw j 6) 31 0
    if fl / 2 % 2 = 1 || c.tag = tagPoison then .ok (none, fl)
    else if c.tag = tagI32x2 || c.tag = tagF32x2 then
      let v := if c.tag = tagI32x2 then f32OfLane lane else f32Flush lane
      let p := if f32Finite v && f32Finite gain then f32Mul v (f32Flush gain) else f32NaN
      .ok (if f32Finite p then (some (f32Signed p), fl) else (some 0, Nat.lor fl 1))
    else .error (jBadInput, 0)

/-- `n` samples in order. -/
def readSamples (s : State) (j : Job) (i : Nat) : Nat → Nat → Except JobErr (List (Option Int × Nat))
  | 0, _ => .ok []
  | n + 1, k =>
    match readSample s j i k, readSamples s j i n (k + 1) with
    | .error e, _ => .error e
    | _, .error e => .error e
    | .ok x, .ok xs => .ok (x :: xs)

/-- The nearest good sample of a list and how many missing ones lie before it. -/
def nearestGood (l : List (Option Int × Nat)) : Option (Int × Nat) :=
  l.zipIdx.findSome? (fun p => p.1.1.map (fun v => (v, p.2)))

/-- Sample x of a list, bridged in a straight line between its neighbours where it is missing (INT); none in a run of more than 16.
At an end of the stream the one neighbour is held. -/
def bridged (l : List (Option Int × Nat)) (x : Nat) : Option (Int × Nat) :=
  match l[x]? with
  | none => none
  | some (some v, f) => some (v, f)
  | some (none, f) =>
    let flags := Nat.lor f 2
    match nearestGood ((l.take x).reverse), nearestGood (l.drop (x + 1)) with
    | some (p, m), some (q, n) =>
      if 16 < m + n + 1 then none
      else some (f32Signed (f32Of ((p * (n + 1 : Nat) + q * (m + 1 : Nat)) / ((m + n + 2 : Nat) : Int))), flags)
    | some (p, m), none => if 16 < m + 1 then none else some (p, flags)
    | none, some (q, n) => if 16 < n + 1 then none else some (q, flags)
    | none, none => none

/-- The inputs from index `lo` to `hi` of a channel: values and flags; a run of more than 16 missing samples is a gap (none). -/
def channelInputs (s : State) (j : Job) (i lo hi : Nat) : Except JobErr (Option (List (Int × Nat))) :=
  let from_ := lo - 17
  let to_ := min (getChan s i).widx (hi + 18)
  match readSamples s j i (to_ - from_) from_ with
  | .error e => .error e
  | .ok l => .ok (((List.range (hi + 1 - lo)).map (fun x => bridged l (lo - from_ + x))).foldr (fun x acc =>
      match x, acc with
      | some v, some vs => some (v :: vs)
      | _, _ => none) (some []))

/-! ### Plans (R269, R270) -/

/-- What a slot can do now: nothing, take its first revolution, an invalid block with its reason, or a block from mapped points. -/
inductive RsmpPlan where
  | waits
  | begins
  | invalid (reason : Nat)
  | write (points : List (Nat × Int × Bool))
deriving DecidableEq, Repr

/-- The level, taps and stretch of an output, from the rate at its time. -/
def pointFilter (s : State) (j : Job) (rate : Int) : Nat × Nat := filterLevel (rK j * rate.natAbs) (chanRdiv s (rFirst j))

/-- The inputs of a block for one channel: the outermost indices; none where one lies before the stream. -/
def blockSpan (s : State) (j : Job) (i : Nat) (points : List (Nat × Int × Bool)) : Option (Nat × Nat) :=
  points.foldl (fun acc p =>
    let f := pointFilter s j p.2.1
    match acc, kernelSpan s i p.1 f.1 f.2 with
    | some (lo, hi), some (a, b) => some (min lo a, max hi b)
    | _, _ => none) (match points with
      | [] => none
      | p :: _ => kernelSpan s i p.1 (pointFilter s j p.2.1).1 (pointFilter s j p.2.1).2)

/-- The next step of a slot. -/
def rsmpPlan (s : State) (j : Job) : RsmpPlan :=
  match j.next with
  | none => if (firstRev s j).isSome then .begins else .waits
  | some rev =>
    match revMap s j rev with
    | .waits => .waits
    | .stale => .invalid 2
    | .lost => .invalid 1
    | .mapped points =>
      let spans := (chanRange (rFirst j) (rM j)).map (fun i => (i, blockSpan s j i points))
      if spans.any (fun x => (getChan s x.1).anchor.isNone || (match x.2 with
          | some (_, hi) => decide ((getChan s x.1).widx ≤ hi)
          | none => false)) then .waits
      else if spans.any (fun x => match x.2 with
          | none => true
          | some (lo, _) => !sampleHeld s x.1 lo) then .invalid 2
      else .write points

/-! ### Blocks (R267 to R270) -/

/-- A block's header (R267). -/
def blockHeader (rev gen flags : Nat) (valid aliased coast : Bool) (reason : Nat) : Cell :=
  cellRaw (w64 (rev % 2 ^ 32 + gen % 256 * 2 ^ 32 + flags % 32 * 2 ^ 40 + valid.toNat * 2 ^ 45 + aliased.toNat * 2 ^ 46 +
    coast.toNat * 2 ^ 47 + reason % 8 * 2 ^ 48))

def blockAddr (j : Job) (rev : Nat) : Nat :=
  bitsOf (jw j 5) 43 6 * 64 + 8 * blockCells j * (rev % 2 ^ bitsOf (jw j 0) 28 25)

/-- GEN of a source at a device time of its history. -/
def genAt (s : State) (src t : Nat) : Nat :=
  match (getSrc s src).hist.find? (fun e => decide (e.time ≤ t)) with
  | some e => e.gen
  | none => srcGen s src

/-- The revolution that follows in the direction of travel. -/
def followRev (rev : Nat) (rate : Int) : Nat := if rate < 0 then (rev + 2 ^ 32 - 1) % 2 ^ 32 else (rev + 1) % 2 ^ 32

/-- A block has been written: it counts, and the job goes on with a revolution. -/
def countBlock (j : Job) (next : Option Nat) (flags : Nat) (valid : Bool) (since : Option Int) : Job := { j with
  seq := j.seq + 1
  count := if valid then j.count else j.count + 1
  flags := Nat.lor j.flags flags
  next := next
  since := since }

/-- After a block: DONE per block, the end of the job (R264, R265, R270). -/
def afterBlock (j : Job) (valid : Bool) (s : State) : State :=
  let revs := (jw j 4).toNat
  let s1 := if valid then s else countUp .RSMP_UNIT_SKIP j.eng 1 s
  if revs != 0 && revs ≤ j.seq then endJob j jDone 0 s1
  else if bitOf (jw j 0) 29 then reportJob j jDone 0 (putJob j s1) else putJob j s1

/-- An invalid block with its reason. After a loss the job goes on at the first whole revolution of the new lock. -/
def invalidBlock (j : Job) (rev reason : Nat) (s : State) : State :=
  let src := rSrc j
  let rate := match (getSrc s src).hist with
    | e :: _ => e.rate
    | [] => 0
  let j1 := if reason = 1 then countBlock j none 0 false none
    else countBlock j (some (followRev rev rate)) 0 false (some (revAnchor s src))
  match engWrites j.part (blockAddr j rev) [blockHeader rev (srcGen s src) 0 false false false reason, cellUnbound] s with
  | .error f => endJob j jFault (fabSyndrome f .store) s
  | .ok s1 =>
    if reason = 1 && jw j 4 != 0 then endJob j1 jSourceLost 0 (countUp .RSMP_UNIT_SKIP j.eng 1 s1)
    else afterBlock j1 false s1

/-- A fault or a bad input ends the job; a block with REASON FAULT is written where it can be. -/
def failBlock (j : Job) (rev : Nat) (e : JobErr) (s : State) : State :=
  if e.1 != jFault then endJob j e.1 e.2 s
  else
    match engWrites j.part (blockAddr j rev) [blockHeader rev (srcGen s (rSrc j)) 0 false false false 3, cellUnbound] s with
    | .error _ => endJob j jFault e.2 s
    | .ok s1 => endJob (countBlock j none 0 false none) jFault e.2 (countUp .RSMP_UNIT_SKIP j.eng 1 s1)

/-- The inputs of every channel, or what stops the block: the error, or a gap. -/
def blockInputs (s : State) (j : Job) (points : List (Nat × Int × Bool)) :
    List Nat → Except JobErr (Option (List (Nat × Nat × List (Int × Nat))))
  | [] => .ok (some [])
  | i :: is =>
    match blockSpan s j i points with
    | none => .ok none
    | some (lo, hi) =>
      match channelInputs s j i lo hi, blockInputs s j points is with
      | .error e, _ => .error e
      | _, .error e => .error e
      | .ok (some l), .ok (some ls) => .ok (some ((i, lo, l) :: ls))
      | .ok _, .ok _ => .ok none

/-- What reading the inputs of a block does to the caches. -/
def seenBlock (s : State) (j : Job) (points : List (Nat × Int × Bool)) : State :=
  (chanRange (rFirst j) (rM j)).foldl (fun t i => match blockSpan s j i points with
    | some (lo, hi) => seenSamples (some j.part) i (lo - 17) (min ((getChan s i).widx - 1) (hi + 17)) t
    | none => t) s

/-- One output of one channel: its value, and the flags of the inputs its kernel touches, with COASTING and QFLAGS (R270). -/
def outputAt (s : State) (j : Job) (free : Nat → Nat) (ch : Nat × Nat × List (Int × Nat)) (p : Nat × Int × Bool) : Nat × Nat :=
  let i := ch.1
  let rho := rK j * p.2.1.natAbs
  let f := pointFilter s j p.2.1
  let r := stretch rho (chanRdiv s i) f.1
  let touched := match kernelSpan s i p.1 f.1 f.2 with
    | some (lo, hi) => (ch.2.2.drop (lo - ch.2.1)).take (hi + 1 - lo)
    | none => []
  let base := match kernelSpan s i p.1 f.1 f.2 with
    | some (lo, _) => lo
    | none => 0
  let lev := decimates free f.1 base (touched.map (fun x => x.1))
  let v := interpolate (bitOf (jw j 0) 16) lev.1 lev.2 (samplePos s i p.1).toNat (sampleDen s i * 2 ^ f.1) r.1 r.2
  let flags := touched.foldl (fun a x => Nat.lor a x.2) (if p.2.2 then 2 else 0)
  (f32Near 1 v (free (2 ^ 24)), Nat.lor flags (bitsOf (jw j 6) 48 44))

/-- The data cells of a channel: two samples a cell, or a measurand each. -/
def dataCells (j : Job) (outs : List (Nat × Nat)) : List Cell :=
  if bitOf (jw j 0) 15 then
    outs.map (fun o => ⟨tagMeasOf o.2, measWord (fvOf fmt32 o.1) (bitsOf (jw j 6) 43 32)⟩)
  else (List.range (rK j / 2)).map (fun x => ⟨tagF32x2, laneWord (outs.getD (2 * x) (0, 0)).1 (outs.getD (2 * x + 1) (0, 0)).1⟩)

/-- A valid block: data first, the header last (R267). -/
def validBlock (j : Job) (rev : Nat) (points : List (Nat × Int × Bool)) (chans : List (Nat × Nat × List (Int × Nat)))
    (s : State) : State :=
  let words := j.desc.map (fun c => c.data)
  let outs := chans.zipIdx.map (fun c => points.zipIdx.map (fun p =>
    outputAt s j (fun x => Config.resampled words s.draw c.2 (p.2 * 2 ^ 32 + x)) c.1 p.1))
  let flags := outs.foldl (fun a l => l.foldl (fun b o => Nat.lor b o.2) a) 0
  let aliased := points.any (fun p => aliases (rK j * p.2.1.natAbs) (chanRdiv s (rFirst j)))
  let coast := points.any (fun p => p.2.2)
  let t0 := match points with
    | p :: _ => p.1
    | [] => 0
  let rate := match points.getLast? with
    | some p => p.2.1
    | none => 0
  let data := outs.flatMap (dataCells j)
  let body := ⟨tagPhase15, w64 (t0 / 2 ^ 32)⟩ :: data ++ List.replicate (blockCells j - 2 - data.length) (cellRaw 0)
  match engWrites j.part (blockAddr j rev + 8) body { s with draw := s.draw + 1 } with
  | .error f => failBlock j rev (jFault, fabSyndrome f .store) s
  | .ok s1 =>
    match engWrites j.part (blockAddr j rev) [blockHeader rev (genAt s (rSrc j) t0) flags true aliased coast 0] s1 with
    | .error f => endJob j jFault (fabSyndrome f .store) s1
    | .ok s2 => afterBlock (countBlock j (some (followRev rev rate)) flags true (some (revAnchor s (rSrc j)))) true s2

/-- A slot of the same unit goes first: a higher class, or the same class and a lower slot, with a block to write (R269). -/
def servedBefore (s : State) (j : Job) : Bool :=
  s.jobs.any (fun g => g.eng == j.eng && g.slot != j.slot &&
    (decide (rClass j < rClass g) || (rClass j == rClass g && decide (g.slot < j.slot))) &&
    (match rsmpPlan s g with
      | .invalid _ => true
      | .write _ => true
      | _ => false))

/-- RSMP_BLOCK_WRITE (R267 to R270): the next block of a slot, when its inputs are complete or can no longer be. -/
def execRsmpBlockWrite (u : Fin 8) (slot : Fin 4) (s : State) : Host.Outcome State Fault Refusal :=
  match findJob s u.val slot.val with
  | none => .next s
  | some j =>
    match rsmpPlan s j, j.next with
    | .begins, _ => .next (putJob (beginRevs s j) s)
    | .invalid reason, some rev => if servedBefore s j then .next s else .next (invalidBlock j rev reason s)
    | .write points, some rev =>
      if servedBefore s j then .next s
      else
        (match blockInputs s j points (chanRange (rFirst j) (rM j)) with
          | .error e => .next (failBlock j rev e (seenBlock s j points))
          | .ok none => .next (invalidBlock j rev 4 (seenBlock s j points))
          | .ok (some chans) => .next (validBlock j rev points chans (seenBlock s j points)))
    | _, _ => .next s

def execRsmpStart (who : Agent) (u : Fin 8) (desc : List Cell) (s : State) : Host.Outcome State Fault Refusal :=
  let r := postRsmp who u.val (specOp 1 desc) s
  .next (answerStatus r.1 r.2)
def execRsmpStop (who : Agent) (u : Fin 8) (desc : List Cell) (s : State) : Host.Outcome State Fault Refusal :=
  let r := postRsmp who u.val (specOp 2 desc) s
  .next (answerStatus r.1 r.2)

end Sys2Proof.Machine
end

