-- ==== Sys2Proof/Machine/Spectral.lean ====
section
/-!
DEFINITION. Machine/Spectral.lean: the spectral array (R271 to R281): descriptors and posts, triggers, inputs, executions with
their windows, transforms, averages and results, and synthesis. Values follow the exact arithmetic of Machine/Dsp.lean; what R276
bounds without fixing is free within the bound.
-/

namespace Sys2Proof.Machine

/-! ### Spectral descriptors (R271, R281) -/

structure Spec where
  op : Nat
  slot : Nat
  kind : Nat
  logN : Nat
  win : Nat
  scale : Nat
  avg : Nat
  avgc : Bool
  meas : Bool
  coh : Bool
  cls : Nat
  trig : Nat
  m : Nat
  d : Nat
  blo : Nat
  bhi : Nat
deriving DecidableEq, Repr

def specOf (desc : List Cell) : Spec :=
  let w := (desc.getD 0 cellVoid).data
  let b := (desc.getD 7 cellVoid).data
  { op := bitsOf w 3 0, slot := bitsOf w 7 4, kind := bitsOf w 10 8, logN := bitsOf w 15 11, win := bitsOf w 18 16,
    scale := bitsOf w 21 19, avg := bitsOf w 23 22, avgc := bitOf w 24, meas := bitOf w 25, coh := bitOf w 26,
    cls := bitsOf w 28 27, trig := bitsOf w 36 29, m := bitsOf w 42 37 + 1, d := bitsOf w 45 43 + 1,
    blo := bitsOf b 16 0, bhi := bitsOf b 33 17 }

def Spec.n (q : Spec) : Nat := 2 ^ q.logN
def Spec.bins (q : Spec) : Nat := q.bhi + 1 - q.blo

/-- The accepted combinations of R271. SCALE of SYNTH is ignored. -/
def specCombo (q : Spec) : Bool :=
  match q.kind with
  | 0 => q.scale ≤ 2 && (!q.meas || q.scale == 1 || q.scale == 2)
  | 1 => q.scale == 2 || q.scale == 3 || q.scale == 4
  | 2 => (q.scale == 3 || q.scale == 4) && !q.meas
  | 3 => q.scale ≤ 4 && !q.meas && q.d < q.m
  | 4 => q.scale ≤ 4 && !q.meas && q.d == 1
  | 5 => q.op != 1 && q.logN ≤ 13 && !q.meas
  | _ => false

/-- The ring a spectral job reads: unit, slot, first channel. -/
def ringIn (desc : List Cell) : Nat × Nat × Nat :=
  let w := (desc.getD 2 cellVoid).data
  (bitsOf w 4 2, bitsOf w 6 5, bitsOf w 12 7)

/-- The job of a ring input: of the ring's unit and slot, for one partition. -/
def ringJob (s : State) (p : Nat) (desc : List Cell) : Option Job :=
  match findJob s (ringIn desc).1 (ringIn desc).2.1 with
  | some g => if g.part = p then some g else none
  | none => none

/-- The input a spectral descriptor names cannot be used (R273): a reserved code or bit, or a ring that does not serve N and M. -/
def specInputBad (s : State) (p : Nat) (q : Spec) (desc : List Cell) : Bool :=
  let w := (desc.getD 2 cellVoid).data
  match bitsOf w 1 0 with
  | 0 => bitsOf w 63 13 != 0 ||
    (match ringJob s p desc with
      | none => true
      | some j => q.n % rK j != 0 || decide (2 ^ bitsOf (jw j 0) 28 25 < q.n / rK j + 1) ||
        decide (rM j < (ringIn desc).2.2 + q.m))
  | 1 => bitsOf w 5 2 != 0 || bitsOf w 47 44 != 0
  | 2 => bitsOf w 63 18 != 0
  | _ => true

/-- The state area a descriptor names cannot be used: a reserved bit, or too few banks for the work space (R281). -/
def specStateBad (q : Spec) (w : Word) : Bool :=
  bitsOf w 63 44 != 0 ||
  (if bitOf w 0 then bitsOf w 17 4 != 0 || decide ((bitsOf w 3 1 + 1) * 32768 < q.n) else bitsOf w 5 1 != 0)

/-- A malformed spectral descriptor, whatever its OP (R271, R273). -/
def specBad (s : State) (p : Nat) (desc : List Cell) : Bool :=
  let c (i : Nat) : Cell := desc.getD i cellVoid
  let raw (i : Nat) : Bool := (c i).tag == tagRaw64
  let q := specOf desc
  !raw 0 || q.op == 0 || decide (4 < q.op) ||
  !(raw 2 && raw 3 && raw 5 && raw 6 && raw 7) || !((c 4).tag == tagRaw64 || (c 4).tag == tagFix) || !wakeOk (c 1) ||
  bitsOf (c 0).data 63 46 != 0 || decide (q.logN < 6) || decide (16 < q.logN) || decide (5 < q.win) || q.cls == 3 ||
  !specCombo q || bitsOf (c 3).data 63 44 != 0 || bitsOf (c 4).data 63 44 != 0 || bitsOf (c 4).data 27 12 == 0 ||
  specStateBad q (c 5).data || bitsOf (c 6).data 2 0 != 0 || bitsOf (c 6).data 63 44 != 0 ||
  (if q.kind = 5 then bitsOf (c 2).data 2 0 != 0 || bitsOf (c 2).data 63 44 != 0
   else decide (4 < q.scale) || bitsOf (c 3).data 5 0 != 0 || decide (q.bhi < q.blo) || decide (q.n / 2 < q.bhi) ||
     bitsOf (c 7).data 63 34 != 0 || specInputBad s p q desc)

/-- What a spectral descriptor names that its partition does not own (R272, R273): the ring's unit and its job's channels, or
stream channels. -/
def specForeign (s : State) (p : Nat) (desc : List Cell) : Bool :=
  let q := specOf desc
  let w := (desc.getD 2 cellVoid).data
  let mine (is : List Nat) : Bool := is.all (fun i => i < 16384 && chanOwned s p i)
  if q.kind = 5 then false
  else match bitsOf w 1 0 with
    | 0 => engOwner s (ringIn desc).1 != some p || (match ringJob s p desc with
        | some j => !mine (rsmpChans j.desc)
        | none => false)
    | 2 => !mine (chanRange (bitsOf w 17 2) q.m)
    | _ => false

/-- Entries of the state area without the count cell (R277). -/
def specEntries (q : Spec) : Nat :=
  let b := q.bins
  let y := q.m - q.d
  if q.kind = 5 then q.d * q.n / 2 + 7
  else if q.avg = 0 && (q.kind = 0 || q.kind = 1) then 0
  else if q.avgc || q.kind = 0 then q.m * b
  else if q.kind = 1 then q.m * ((b + 1) / 2)
  else if q.kind = 2 then b * (q.m * (q.m + 1) / 2)
  else b * (q.d * (q.d + 1) / 2 + q.d * y + y)

/-- Result cells (R275, R278). -/
def specResults (q : Spec) : Nat :=
  let b := q.bins
  let y := q.m - q.d
  match q.kind with
  | 0 => q.m * b
  | 1 => if q.meas then q.m * b else q.m * ((b + 1) / 2)
  | 2 => b * (q.m * (q.m + 1) / 2)
  | 3 | 4 => b * y * q.d + (if q.coh then (b * y + 1) / 2 else 0)
  | _ => 0

/-- The cost C of an execution in SPECTRAL cycles (R281); S is 2 for DDR and 1.25 × W for larder state. -/
def specCost (desc : List Cell) : Nat :=
  let q := specOf desc
  let w5 := (desc.getD 5 cellVoid).data
  let n := q.n
  let u := n / 2 * q.logN / 4
  let up (a b : Nat) : Nat := (a + b - 1) / b
  let perS (cells : Nat) : Nat := if bitOf w5 0 then up (4 * cells) (5 * (bitsOf w5 3 1 + 1)) else up cells 2
  if q.kind = 5 then 32 + up (q.d * (q.d + 1) / 2 * (n / 2 + 1)) 2 + q.d * (u + n / 4)
  else
    let each := if n ≤ 8192 then max u (n / 4) else u + perS (4 * n)
    let e := specEntries q
    let a := max (up e 4) (perS (2 * e))
    let y := q.m - q.d
    let h := if q.kind = 3 || q.kind = 4 then q.bins * (16 + up (up (q.d ^ 3) 3 + q.d ^ 2 * y) 4) else 0
    32 + n / 4 + q.m * each + a + h + up (specResults q) 2

/-- The drive outputs of a SYNTH job are the partition's and set for RANDOM (R272, R320). -/
def synthOk (s : State) (p : Nat) (desc : List Cell) : Bool :=
  let f := bitsOf (desc.getD 3 cellVoid).data 5 0
  (List.range (specOf desc).d).all (fun i => f + i < 64 && fbit s fldDRV_OUT_CFG_ASSIGNED (f + i) &&
    fget s fldDRV_OUT_CFG_PART (f + i) == p && fget s fldDRV_OUT_CFG_MODE (f + i) == 3)

/-- The reference phase of a ring input: the given one, or the source's phase now (R273). -/
def refPhase (s : State) (p : Nat) (desc : List Cell) (due : Option (Nat × Word)) : Word :=
  match ringJob s p desc with
  | none => 0
  | some j =>
    match due with
    | some (src, w) => if src = rSrc j then w else (phaseCell s (rSrc j)).data
    | none => (phaseCell s (rSrc j)).data

/-- POST to a spectral queue (R271, R272). -/
def postSpec (who : Agent) (e : Nat) (desc : List Cell) (s : State) : Nat × State :=
  let q := specOf desc
  let u := 8 + e
  match agentPart s who with
  | none => answerNo 2 s
  | some p =>
    if engOwner s u != some p || specForeign s p desc then answerNo 2 s
    else if specBad s p desc then answerNo 5 s
    else if !engPowered s u then answerNo 3 s
    else
      match q.op, findJob s u q.slot with
      | 3, none => answerNo 3 s
      | 4, none => answerNo 3 s
      | 3, some j =>
        if j.cur.isSome then (0, putJob { j with
          stopAfter := true
          pend := none } s)
        else (0, endJob { j with pend := none } jStopped 0 s)
      | 4, some j =>
        if j.cur.isSome then (0, putJob { j with resetAfter := true } s)
        else (0, putJob { j with
          count := 0
          flags := 0
          ovrs := 0 } s)
      | _, some _ => answerNo 3 s
      | _, none =>
        if q.kind = 5 && !synthOk s p desc then answerNo 3 s
        else
          match admitSpec s p e q.slot q.cls (specCost desc) with
          | some code => notAdmitted code s
          | none =>
            let first := q.op = 1 || q.kind = 5
            let fresh := q.kind = 5 && (desc.getD 7 cellVoid).data == 0
            let d := drawWord s
            let s1 := if fresh then d.2 else s
            (0, { s1 with
              seq := s.seq + 1
              jobs := s.jobs ++ [{
                eng := u, slot := q.slot, part := p, desc := desc, seq := 0, count := 0, flags := 0, ovrs := 0, next := none
                since := none, pend := if first then some (s.dtime, s.seq, refPhase s p desc none) else none
                cur := none, bulk := false, resetAfter := false, stopAfter := false, fired := none
                seed := if fresh then d.1 else (desc.getD 7 cellVoid).data }] })

/-! ### Triggers and executions (R273, R280) -/

/-- IMIN of an admitted slot, in 100 µs units; 0 without a grant. -/
def specImin (s : State) (j : Job) : Nat :=
  match grantOf s grSpec j.part (16 * (j.eng - 8) + j.slot) (specOf j.desc).cls with
  | .ok g => grLimit s g / 2 ^ 20
  | .error _ => 0

/-- One slot fires at a device time, under the number of its firing. -/
def fireSlot (j : Job) (t n : Nat) (due : Option (Nat × Word)) (s : State) : State :=
  if j.pend.isSome then reportJob j jOverrun 0 (countUp .SPEC_ENG_DROP (j.eng - 8) 1 s)
  else
    let early := jobAdmitted j && (match j.fired with
      | some t0 => decide ((t - t0) * 10000 < specImin s j * 2 ^ 64)
      | none => false)
    let s1 := if early then countUp .SPEC_ENG_DROP (j.eng - 8) 1 s else s
    putJob { j with
      pend := some (t, n, refPhase s j.part j.desc due)
      bulk := early
      fired := some t } s1

/-- A TRIGGER of an alarm on queue 0x30 + e (R280): every armed slot with that number, under one firing. -/
def specTrigger (p e n t : Nat) (due : Option (Nat × Word)) (s : State) : State :=
  if engOwner s (8 + e) != some p then countUp .SPEC_ENG_DROP e 1 s
  else
    (s.jobs.filter (fun j => j.eng == 8 + e && (specOf j.desc).op == 2 && (specOf j.desc).trig == n)).foldl
      (fun q j => fireSlot j t s.seq due q) { s with seq := s.seq + 1 }

/-- A pending execution has passed its LATE limit. -/
def isLate (s : State) (j : Job) : Bool :=
  let late := bitsOf (jw j 4) 43 28
  match j.pend with
  | some (t, _, _) => late != 0 && decide (late * 2 ^ 64 < (s.dtime - t) * 1000000)
  | none => false

/-- The input of a pending execution is available (R273). -/
def inputReady (s : State) (j : Job) : Bool :=
  let q := specOf j.desc
  let w := jw j 2
  match j.pend with
  | none => false
  | some (t, _, ph) =>
    if q.kind = 5 then true
    else match bitsOf w 1 0 with
      | 0 =>
        (match ringJob s j.part j.desc with
          | none => true
          | some g => match g.next with
            | some x => decide (0 ≤ signedOf 32 ((x + 2 ^ 32 - bitsOf ph 63 32) % 2 ^ 32))
            | none => false)
      | 2 =>
        (chanRange (bitsOf w 17 2) q.m).all (fun i =>
          let ch := getChan s i
          match ch.anchor with
          | none => false
          | some a => decide (t < a.toNat * 2 ^ 32 + ch.widx * chanRdiv s i * 2 ^ 64 / 204800))
      | _ => true

/-- The class an execution runs in. -/
def execClass (j : Job) : Nat := if j.bulk then 0 else jobClass j

/-- Execution `a` goes before `b`: class, pending order, slot (R280). -/
def goesBefore (a b : Job) : Bool :=
  if execClass a != execClass b then decide (execClass b < execClass a)
  else match a.pend, b.pend with
    | some (_, x, _), some (_, y, _) => decide (x < y) || (x == y && decide (a.slot < b.slot))
    | _, _ => false

/-- SPEC_EXEC_START (R280): the engine is free, and the ready execution that goes first begins. -/
def execSpecExecStart (e : Fin 16) (s : State) : Host.Outcome State Fault Refusal :=
  let mine := s.jobs.filter (fun j => j.eng == 8 + e.val)
  if mine.any (fun j => j.cur.isSome) || !engPowered s (8 + e.val) then .next s
  else
    match (mine.filter (fun j => j.pend.isSome && inputReady s j && !isLate s j)).foldl (fun b j =>
        match b with
        | none => some j
        | some x => if goesBefore j x then some j else some x) none with
    | none => .next s
    | some j => .next (putJob { j with
        cur := j.pend
        pend := none
        bulk := false } s)

/-- SPEC_LATE_DROP (R280): a pending execution whose limit has passed is dropped and reported LATE. -/
def execSpecLateDrop (e slot : Fin 16) (s : State) : Host.Outcome State Fault Refusal :=
  match findJob s (8 + e.val) slot.val with
  | none => .next s
  | some j =>
    if !isLate s j then .next s
    else
      let s1 := countUp .SPEC_ENG_DROP e.val 1 s
      .next (if (specOf j.desc).op = 1 then endJob { j with pend := none } jLate 0 s1
        else reportJob { j with pend := none } jLate 0 (putJob { j with pend := none } s1))

/-! ### Inputs (R273, R276) -/

/-- The values of the channels as binary32 with the OR of their flags, or the status that ends the execution, with its
syndrome. -/
abbrev Inputs := Except JobErr (List (List Nat) × Nat)

/-- The binary32 values of a cell: two lanes, or a measurand rounded. -/
def cellValues (c : Cell) : List Nat :=
  if isMeas c.tag then [fvTo fmt32 (fvOfMeas c.data)] else [laneLo c.data, laneHi c.data]

/-- A run of F32X2 or MEAS cells holding `n` values. -/
def valueCells (s : State) (p a n : Nat) : Except JobErr (List Nat × Nat) :=
  match engRead s p a with
  | .error f => .error (jFault, fabSyndrome f .load)
  | .ok first =>
    let k := if isMeas first.tag then n else n / 2
    match engReads s p k a with
    | .error f => .error (jFault, fabSyndrome f .load)
    | .ok cs =>
      if cs.all (fun c => if isMeas first.tag then isMeas c.tag else c.tag == tagF32x2) then
        .ok (cs.flatMap cellValues, cs.foldl (fun b c => if isMeas c.tag then Nat.lor b (measFlags c.tag) else b) 0)
      else .error (jBadInput, 0)

/-- The parts of one channel, in order. -/
def joinValues : List (Except JobErr (List Nat × Nat)) → Except JobErr (List Nat × Nat)
  | [] => .ok ([], 0)
  | x :: xs =>
    match x, joinValues xs with
    | .error e, _ => .error e
    | .ok _, .error e => .error e
    | .ok (a, f), .ok (b, g) => .ok (a ++ b, Nat.lor f g)

/-- Several channels. -/
def joinInputs : List (Except JobErr (List Nat × Nat)) → Inputs
  | [] => .ok ([], 0)
  | x :: xs =>
    match x, joinInputs xs with
    | .error e, _ => .error e
    | .ok _, .error e => .error e
    | .ok (a, f), .ok (b, g) => .ok (a :: b, Nat.lor f g)

/-- One channel's part of one ring block, with the header checks of R267 and R273. -/
def ringBlock (s : State) (g : Job) (rev ch gen : Nat) : Except JobErr (List Nat × Nat) :=
  match engRead s g.part (blockAddr g rev) with
  | .error f => .error (jFault, fabSyndrome f .load)
  | .ok h =>
    if bitsOf h.data 31 0 != rev % 2 ^ 32 then .error (jStale, 0)
    else if !bitOf h.data 45 || bitsOf h.data 39 32 != gen then .error (jSourceLost, 0)
    else
      let per := if bitOf (jw g 0) 15 then rK g else rK g / 2
      match valueCells s g.part (blockAddr g rev + 16 + 8 * per * ch) (rK g) with
      | .error e => .error e
      | .ok (v, f) => .ok (v, Nat.lor f (bitsOf h.data 44 40))

/-- One stream sample as binary32 with its flags (R268, without gain). -/
def streamValue (s : State) (p i k : Nat) : Except JobErr (List Nat × Nat) :=
  match sampleFlags s (some p) i k, engRead s p (sampleAddr s i k) with
  | .error f, _ => .error (jFault, fabSyndrome f .load)
  | _, .error f => .error (jFault, fabSyndrome f .load)
  | .ok fl, .ok c =>
    let lane := bitsOf c.data (32 * (k % 2) + 31) (32 * (k % 2))
    if c.tag = tagI32x2 then .ok ([f32OfLane lane], fl)
    else if c.tag = tagF32x2 then .ok ([lane], fl) else .error (jBadInput, 0)

/-- The last `n` samples of a channel at or before a time. -/
def streamBlock (s : State) (p i n t : Nat) : Except JobErr (List Nat × Nat) :=
  match (getChan s i).anchor with
  | none => .error (jStale, 0)
  | some _ =>
    let last := samplePos s i t / (sampleDen s i : Int)
    if last + 1 < (n : Int) || !sampleHeld s i (last + 1 - n).toNat then .error (jStale, 0)
    else joinValues ((List.range n).map (fun x => streamValue s p i ((last + 1 - n).toNat + x)))

/-- The input of an execution. -/
def specInput (s : State) (j : Job) (t : Nat) (ph : Word) : Inputs :=
  let q := specOf j.desc
  let w := jw j 2
  match bitsOf w 1 0 with
  | 0 =>
    (match ringJob s j.part j.desc with
      | none => .error (jStale, 0)
      | some g =>
        let revs := q.n / rK g
        let rev (i : Nat) : Nat := (bitsOf ph 63 32 + 2 ^ 32 - revs + i) % 2 ^ 32
        match engRead s g.part (blockAddr g (rev 0)) with
        | .error f => .error (jFault, fabSyndrome f .load)
        | .ok h => joinInputs ((List.range q.m).map (fun c =>
            joinValues ((List.range revs).map (fun i => ringBlock s g (rev i) ((ringIn j.desc).2.2 + c) (bitsOf h.data 39 32))))))
  | 1 =>
    joinInputs ((List.range q.m).map (fun c => valueCells s j.part (bitsOf w 43 6 * 64 + c * bitsOf w 63 48 * 64) q.n))
  | _ => joinInputs ((chanRange (bitsOf w 17 2) q.m).map (fun i => streamBlock s j.part i q.n t))

/-- What reading the input of an execution does to the caches. -/
def seenInput (s : State) (j : Job) (t : Nat) (ph : Word) : State :=
  let q := specOf j.desc
  let w := jw j 2
  match bitsOf w 1 0 with
  | 0 =>
    (match ringJob s j.part j.desc with
      | none => s
      | some g =>
        let revs := q.n / rK g
        let per := if bitOf (jw g 0) 15 then rK g else rK g / 2
        (List.range revs).foldl (fun u i =>
          let a := blockAddr g ((bitsOf ph 63 32 + 2 ^ 32 - revs + i) % 2 ^ 32)
          seenCells (some g.part) (a + 16 + 8 * per * (ringIn j.desc).2.2) (per * q.m) (seenCells (some g.part) a 1 u)) s)
  | 1 =>
    (List.range q.m).foldl (fun u c =>
      let a := bitsOf w 43 6 * 64 + c * bitsOf w 63 48 * 64
      let n := match engRead s j.part a with
        | .ok x => if isMeas x.tag then q.n else q.n / 2
        | .error _ => 0
      seenCells (some j.part) a n u) s
  | _ => (chanRange (bitsOf w 17 2) q.m).foldl (fun u i =>
      match (getChan s i).anchor with
      | none => u
      | some _ =>
        let last := (samplePos s i t / (sampleDen s i : Int)).toNat
        seenSamples (some j.part) i (last + 1 - q.n) last u) s

/-- The channels with a value that is not finite, as a mask: they carry OVR (R276). -/
def badChannels (ins : List (List Nat)) : Nat :=
  ins.zipIdx.foldl (fun a p => if p.1.all f32Finite then a else a + 2 ^ p.2) 0

/-! ### Spectra and what they average to (R275, R277, R278) -/

/-- The spectra of the channels, bins BLO to BHI, channel by channel. -/
def chanSpectra (q : Spec) (ins : List (List Nat)) (free : Nat → Nat) : List (List Word) :=
  ins.zipIdx.map (fun p =>
    let xs := p.1.zipIdx.map (fun x => windowed q.win q.n x.2 x.1)
    ((spectrum q.logN xs (fun i => free (p.2 * 2 ^ 20 + i))).drop q.blo).take q.bins)

/-- Channel c at bin b of spectra. -/
def binOf (sp : List (List Word)) (c b : Nat) : Cx := cxOf ((sp.getD c []).getD b 0)

/-- Reals packed two to a word, an odd count with a zero. -/
def packReals : List Nat → List Word
  | [] => []
  | [a] => [laneWord a 0]
  | a :: b :: rest => laneWord a b :: packReals rest

/-- The pairs i ≤ j below n, in row-major order. -/
def upperPairs (n : Nat) : List (Nat × Nat) := (List.range n).flatMap (fun i => ((List.range n).filter (fun j => i ≤ j)).map (fun j => (i, j)))

/-- conj(X_i) X_j as a word; a diagonal one has imaginary part 0. -/
def crossWord (sp : List (List Word)) (i j b pick : Nat) : Word :=
  let w := cxWord (crossOf (binOf sp i b) (binOf sp j b)) pick
  if i = j then laneWord (laneLo w) 0 else w

/-- The pairs whose products H1 and H2 keep at a bin: Gxx, Gxy and the diagonal of Gyy (R278). -/
def transferPairs (q : Spec) : List (Nat × Nat) :=
  upperPairs q.d ++
  (List.range q.d).flatMap (fun i => (List.range (q.m - q.d)).map (fun y => (i, q.d + y))) ++
  (List.range (q.m - q.d)).map (fun y => (q.d + y, q.d + y))

/-- The new value X of an execution, as the words of the state area (R277): complex spectra, or powers and cross products. -/
def newValues (q : Spec) (sp : List (List Word)) (free : Nat → Nat) : List Word :=
  let prods (ps : List (Nat × Nat)) : List Word := (List.range q.bins).flatMap (fun b => ps.zipIdx.map (fun p =>
    crossWord sp p.1.1 p.1.2 b (free (2 ^ 30 + b * 4096 + p.2))))
  if q.avgc || q.kind = 0 then sp.flatMap (fun c => c)
  else match q.kind with
    | 1 => (List.range q.m).flatMap (fun c =>
        packReals ((List.range q.bins).map (fun b => laneLo (crossWord sp c c b (free (2 ^ 30 + b * 64 + c))))))
    | 2 => prods (upperPairs q.m)
    | _ => prods (transferPairs q)

/-- A + (X − A) / c in binary32. -/
def stepValue (c a x pick : Nat) : Nat :=
  f32Near engineUlps (f32Frac (f32Signed a * (c : Int) + f32Signed x - f32Signed a) (2 ^ 149 * c)) pick

/-- One word of the average takes one of the new value: count c after the update; `pairs`: the two lanes are one complex value. -/
def averageWord (avg c : Nat) (pairs : Bool) (a x : Word) (pick : Nat) : Word :=
  match avg with
  | 0 => x
  | 3 =>
    if pairs then (if cxNorm (cxOf a) < cxNorm (cxOf x) then x else a)
    else laneWord (if f32Mag (laneLo a) < f32Mag (laneLo x) then laneLo x else laneLo a)
      (if f32Mag (laneHi a) < f32Mag (laneHi x) then laneHi x else laneHi a)
  | _ => laneWord (stepValue c (laneLo a) (laneLo x) pick) (stepValue c (laneHi a) (laneHi x) (pick / 9))

/-- The average after an execution: `old` is empty when it starts cleared. -/
def averaged (q : Spec) (c : Nat) (old new : List Word) (free : Nat → Nat) : List Word :=
  if q.avg = 0 || old.isEmpty then new
  else new.zipIdx.map (fun p => averageWord q.avg c (q.avgc || q.kind != 1) (old.getD p.2 0) p.1 (free (2 ^ 40 + p.2)))

/-! ### Results (R275, R278) -/

/-- g of a bin. -/
def binGain (q : Spec) (k : Nat) : Nat := if k = 0 || k = q.n / 2 then 1 else 2

/-- A result lies between the ends: it is divided by √2 in RMS. -/
def binInner (q : Spec) (k : Nat) : Bool := binGain q k == 2

/-- The factor of POWER or PSD at a bin, as a fraction: g / S1², or g / (S2 × Fs). -/
def powerScale (q : Spec) (fs : Nat × Nat) (psd : Bool) (k : Nat) : Cx :=
  let one : Int := fxOne
  if psd then (((binGain q k : Nat) : Int) * one ^ 2 * (fs.2 : Int), 0, (windowS2 q.win q.n).toNat * fs.1)
  else (((binGain q k : Nat) : Int) * one ^ 2, 0, (windowS1 q.win q.n ^ 2).toNat)

/-- The lanes of SPEC at bin k from the average: RAW, AMPL, or RMS, real and imaginary part. -/
def specValue (q : Spec) (k : Nat) (a : Word) (pick : Nat) : Word :=
  let s1 := (windowS1 q.win q.n).toNat
  let part (x p : Nat) : Nat :=
    let v := f32Signed x * ((binGain q k : Nat) : Int) * (fxOne : Int)
    f32Near engineUlps (if q.scale = 2 && binInner q k then f32Root (decide (v < 0)) (v.natAbs ^ 2) (2 * (2 ^ 149 * s1) ^ 2)
      else f32Frac v (2 ^ 149 * s1)) p
  if q.scale = 0 then a else laneWord (part (laneLo a) pick) (part (laneHi a) (pick / 9))

/-- The magnitude of AMPL or RMS. -/
def specMagnitude (q : Spec) (k : Nat) (a : Word) (pick : Nat) : Nat :=
  let s1 := (windowS1 q.win q.n).toNat
  let n := (f32Signed (laneLo a) ^ 2 + f32Signed (laneHi a) ^ 2).toNat * (binGain q k * fxOne) ^ 2
  f32Near engineUlps (f32Root false n ((2 ^ 149 * s1) ^ 2 * (if q.scale = 2 && binInner q k then 2 else 1))) pick

/-- The averaged power of channel c at place b: from powers, or from averaged spectra. -/
def meanPower (q : Spec) (avg : List Word) (c b : Nat) : Cx :=
  if q.avgc then
    let x := cxOf (avg.getD (c * q.bins + b) 0)
    cxMul x (cxConj x)
  else
    let w := avg.getD (c * ((q.bins + 1) / 2) + b / 2) 0
    cxReal (f32Signed (if b % 2 = 0 then laneLo w else laneHi w)) (2 ^ 149)

/-- A result of AUTO: POWER, PSD, or RMS, the root of POWER. -/
def autoValue (q : Spec) (fs : Nat × Nat) (avg : List Word) (c b pick : Nat) : Nat :=
  let v := cxMul (meanPower q avg c b) (powerScale q fs (q.scale == 4) (q.blo + b))
  f32Near engineUlps (if q.scale = 2 then f32Root false v.1.toNat v.2.2 else f32Frac v.1 v.2.2) pick

/-- The averaged cross product of channels i and j at place b: the p-th of `per` kept there, or from averaged spectra. -/
def meanCross (q : Spec) (avg : List Word) (i j b p per : Nat) : Cx :=
  if q.avgc then crossOf (cxOf (avg.getD (i * q.bins + b) 0)) (cxOf (avg.getD (j * q.bins + b) 0))
  else cxOf (avg.getD (b * per + p) 0)

/-- The results of CSM at a bin. -/
def csmWords (q : Spec) (fs : Nat × Nat) (avg : List Word) (b : Nat) (free : Nat → Nat) : List Word :=
  let ps := upperPairs q.m
  ps.zipIdx.map (fun p =>
    let v := cxWord (cxMul (meanCross q avg p.1.1 p.1.2 b p.2 ps.length) (powerScale q fs (q.scale == 4) (q.blo + b)))
      (free (b * 4096 + p.2))
    if p.1.1 = p.1.2 then laneWord (laneLo v) 0 else v)

/-- Gxx, Gxy (rows by reference) and the diagonal of Gyy at a bin. -/
def transferAt (q : Spec) (avg : List Word) (b : Nat) : List (List Cx) × List (List Cx) × List Cx :=
  let ps := transferPairs q
  let g (i j : Nat) : Cx :=
    let x := meanCross q avg (min i j) (max i j) b (ps.findIdx (fun p => p == (min i j, max i j))) ps.length
    if i ≤ j then x else cxConj x
  ((List.range q.d).map (fun i => (List.range q.d).map (fun j => g i j)),
    (List.range q.d).map (fun i => (List.range (q.m - q.d)).map (fun y => g i (q.d + y))),
    (List.range (q.m - q.d)).map (fun y => g (q.d + y) (q.d + y)))

/-- A quotient that is real, in binary32: a quiet NaN for 0 / 0. -/
def realQuot (a b : Cx) (pick : Nat) : Nat :=
  if b.1 = 0 then f32NaN else f32Near engineUlps (f32Frac (cxDiv a b).1 (cxDiv a b).2.2) pick

/-- H at a bin, response by response, and the coherence of each response; none where the bin is singular. -/
def transferBin (q : Spec) (avg : List Word) (b : Nat) (free : Nat → Nat) : Option (List Word × List Nat) :=
  let t := transferAt q avg b
  let y := q.m - q.d
  let col (m : Nat) : List Cx := t.2.1.map (fun r => r.getD m cxZero)
  let pick (i : Nat) : Nat := free (b * 4096 + i)
  if q.kind = 4 then
    let xy (m : Nat) : Cx := (col m).headD cxZero
    let xx : Cx := (t.1.headD []).headD cxZero
    if (List.range y).any (fun m => cxNorm (xy m) = 0) then none
    else some ((List.range y).map (fun m => cxWord (cxDiv (t.2.2.getD m cxZero) (cxConj (xy m))) (pick m)),
      (List.range y).map (fun m => realQuot (cxMul (xy m) (cxConj (xy m))) (cxMul xx (t.2.2.getD m cxZero)) (pick (512 + m))))
  else
    (solveBy t.1 t.2.1).map (fun xs =>
      (xs.zipIdx.flatMap (fun h => h.1.zipIdx.map (fun v => cxWord v.1 (pick (h.2 * 8 + v.2)))),
        xs.zipIdx.map (fun h => realQuot (cxSum ((col h.2).zip h.1 |>.map (fun p => cxMul (cxConj p.1) p.2)))
          (t.2.2.getD h.2 cxZero) (pick (512 + h.2)))))

/-- The words of H1 or H2: H per bin, then the coherence of each response, bin by bin; and the number of singular bins. -/
def transferWords (q : Spec) (avg : List Word) (free : Nat → Nat) : List Word × Nat :=
  let y := q.m - q.d
  let bins := (List.range q.bins).map (fun b => transferBin q avg b free)
  let nan := laneWord f32NaN f32NaN
  let h := bins.flatMap (fun r => match r with
    | some v => v.1
    | none => List.replicate (y * q.d) nan)
  let coh := bins.flatMap (fun r => match r with
    | some v => v.2
    | none => List.replicate y f32NaN)
  (if q.coh then h ++ packReals coh else h, (bins.filter (fun r => r.isNone)).length)

/-- Results as channel, data and whether they are measurands: the lanes or the value in binary32; with the singular bins. -/
def resultWords (q : Spec) (fs : Nat × Nat) (avg : List Word) (free : Nat → Nat) : List (Nat × Word) × Nat :=
  let per (f : Nat → List Word) : List (Nat × Word) := (List.range q.m).flatMap (fun c => (f c).map (fun w => (c, w)))
  let bs := List.range q.bins
  let pk (c b : Nat) : Nat := free (2 ^ 41 + c * 2 ^ 20 + b)
  match q.kind with
  | 0 => (per (fun c => bs.map (fun b =>
      let a := avg.getD (c * q.bins + b) 0
      if q.meas then w64 (specMagnitude q (q.blo + b) a (pk c b)) else specValue q (q.blo + b) a (pk c b))), 0)
  | 1 => (per (fun c =>
      let vs := bs.map (fun b => autoValue q fs avg c b (pk c b))
      if q.meas then vs.map w64 else packReals vs), 0)
  | 2 => ((bs.flatMap (fun b => csmWords q fs avg b (fun i => free (2 ^ 41 + i)))).map (fun w => (64, w)), 0)
  | _ =>
    let r := transferWords q avg (fun i => free (2 ^ 41 + i))
    (r.1.map (fun w => (64, w)), r.2)

/-- A result overflows. -/
def wordInf (meas : Bool) (w : Word) : Bool :=
  let inf (x : Nat) : Bool := x % 2 ^ 31 == 0x7F800000
  inf (laneLo w) || (!meas && inf (laneHi w))

/-- A result cell: a measurand carries UNIT, its flags, and OVR for its channel or an overflow. -/
def resultCell (q : Spec) (unit flags ovrs : Nat) (r : Nat × Word) : Cell :=
  if q.meas then
    ⟨tagMeasOf (Nat.lor flags (if nbits ovrs r.1 r.1 = 1 || wordInf true r.2 then 1 else 0)),
      measWord (fvOf fmt32 (laneLo r.2)) unit⟩
  else ⟨tagF32x2, r.2⟩

/-! ### The state area and completion (R277, R280) -/

/-- The average count after an execution (R277); none: LINEAR has reached NAVG. -/
def avgNext (q : Spec) (navg c : Nat) : Option Nat :=
  match q.avg with
  | 0 => some 1
  | 1 => if c < navg then some (c + 1) else none
  | 2 => some (min (c + 1) navg)
  | _ => some (min (c + 1) 65535)

/-- The IPA of cell i of the state area: in DDR, or over W larder banks (R271, R277). -/
def stateAddr (j : Job) (i : Nat) : Nat :=
  let w := jw j 5
  if bitOf w 0 then
    let banks := bitsOf w 3 1 + 1
    bitsOf w 43 18 * 2 ^ 18 + i % banks * 0x40000 + i / banks * 8
  else bitsOf w 43 6 * 64 + 8 * i

/-- Reads `n` state cells from the i-th. -/
def readState (s : State) (j : Job) : Nat → Nat → Except XFault (List Word)
  | 0, _ => .ok []
  | n + 1, i =>
    match engRead s j.part (stateAddr j i), readState s j n (i + 1) with
    | .error f, _ => .error f
    | _, .error f => .error f
    | .ok c, .ok cs => .ok (c.data :: cs)

/-- What reading `n` state cells from the i-th does to the caches. -/
def seenState (j : Job) (n i : Nat) (s : State) : State :=
  (List.range n).foldl (fun t x => seenCells (some j.part) (stateAddr j (i + x)) 1 t) s

/-- Writes state cells one by one. -/
def writeState (j : Job) : Nat → List Cell → State → Except XFault State
  | _, [], s => .ok s
  | i, c :: cs, s =>
    match engWrites j.part (stateAddr j i) [c] s with
    | .error f => .error f
    | .ok t => writeState j (i + 1) cs t

/-- What follows an execution of a slot: a RUN ends, as do FAULT and DISARM; RESET_AVG clears the average. -/
def afterExec (j : Job) (code syn : Nat) (s : State) : State :=
  let j1 := { j with
    cur := none
    count := if j.resetAfter then 0 else j.count
    flags := if j.resetAfter then 0 else j.flags
    ovrs := if j.resetAfter then 0 else j.ovrs
    resetAfter := false }
  if code = jFault || ((specOf j.desc).op = 1 && !j.stopAfter) then endJob j code syn s
  else
    let s1 := reportJob j code syn (putJob j1 s)
    if j.stopAfter && (findJob s1 j.eng j.slot).isSome then endJob j1 jStopped 0 s1 else s1

/-! ### Synthesis (R279) -/

/-- u of drive d at bin k of a frame: a random sign at the ends, else a random angle. -/
def randomUnit (j : Job) (q : Spec) (k d : Nat) : Int × Int :=
  let r := Config.synthAngle j.seed ((j.seq * (q.n / 2 + 1) + k) * q.d + d)
  if k = 0 || k = q.n / 2 then ((if r % 2 = 0 then 1 else -1) * (fxOne : Int), 0) else turn (r % 2 ^ 64) (2 ^ 64)

/-- A table entry: subnormals are flushed, what is not finite is zero (R276). -/
def tableLane (x : Nat) : Int := if f32Finite x then f32Signed (f32Flush x) else 0

/-- y[k] of drive d: row d of the lower triangle L_k times u, rounded to binary32, in 2^-149. -/
def driveBin (j : Job) (q : Spec) (table : List Word) (free : Nat → Nat) (k d : Nat) : Int × Int :=
  let tri := q.d * (q.d + 1) / 2
  let sum := (List.range (d + 1)).foldl (fun (a : Int × Int) e =>
    let l := table.getD (k * tri + d * (d + 1) / 2 + e) 0
    let u := randomUnit j q k e
    let re := tableLane (laneLo l)
    let im := tableLane (laneHi l)
    (a.1 + re * u.1 - im * u.2, a.2 + re * u.2 + im * u.1)) (0, 0)
  let near (v : Int) (p : Nat) : Int := f32Signed (f32Near engineUlps (f32Frac v (2 ^ 149 * fxOne)) p)
  (near sum.1 (free (2 * k)), near sum.2 (free (2 * k + 1)))

/-- The windowed frame of drive d, N points (sine window). -/
def driveFrame (j : Job) (q : Spec) (table : List Word) (free : Nat → Nat) (d : Nat) : List Nat :=
  let ys := (List.range (q.n / 2 + 1)).map (fun k => driveBin j q table (fun i => free (d * 2 ^ 24 + i)) k d)
  (synthesis q.logN ys (fun i => free (d * 2 ^ 24 + 2 ^ 20 + i))).zipIdx.map (fun p =>
    f32Near engineUlps (f32Frac (f32Signed p.1 * windowAt 5 q.n p.2) (2 ^ 149 * fxOne)) (free (d * 2 ^ 24 + 2 ^ 21 + p.2)))

/-- The outputs of a frame: its first half laid over the tail of the last one. -/
def overlap (frame tail : List Nat) (half : Nat) (free : Nat → Nat) : List Nat :=
  (List.range half).map (fun i =>
    f32Near engineUlps (f32Frac (f32Signed (frame.getD i 0) + f32Signed (tail.getD i 0)) (2 ^ 149)) (free i))

/-- Hands a frame of N/2 samples to each drive output of a SYNTH job that its partition still owns (R15, R279). -/
def handFrames (j : Job) (outs : List (List Nat)) (s : State) : State :=
  let f := bitsOf (jw j 3) 5 0
  outs.zipIdx.foldl (fun t p =>
    if fbit s fldDRV_OUT_CFG_ASSIGNED (f + p.2) && fget s fldDRV_OUT_CFG_PART (f + p.2) == j.part then
      modDrive (f + p.2) (fun x => { x with tail := x.tail ++ p.1 }) t
    else t) s

/-- The table of a SYNTH frame: the pointer cell, one atomic read, then the table. -/
def readTable (s : State) (j : Job) (q : Spec) : Except JobErr (List Word) :=
  match engRead s j.part (bitsOf (jw j 2) 43 3 * 8) with
  | .error f => .error (jFault, fabSyndrome f .load)
  | .ok ptr =>
    if ptr.tag != tagRaw64 then .error (jBadInput, 0)
    else
      match engReads s j.part (q.d * (q.d + 1) / 2 * (q.n / 2 + 1)) (bitsOf ptr.data 43 3 * 8) with
      | .error f => .error (jFault, fabSyndrome f .load)
      | .ok cs => if cs.any (fun c => c.tag != tagF32x2) then .error (jBadInput, 0) else .ok (cs.map (fun c => c.data))

/-- The state cells of a SYNTH job after a frame: the tails, and 8 cells with the seed and the frames built. -/
def synthState (j : Job) (tails : List (List Nat)) : List Cell :=
  (tails.flatMap (fun l => l.map (fun v => cellRaw (w64 v)))) ++
  [cellRaw j.seed, cellRaw (w64 (j.seq + 1))] ++ List.replicate 6 (cellRaw 0)

/-- What reading the table and the state of a SYNTH frame does to the caches. -/
def seenTable (j : Job) (s : State) : State :=
  let q := specOf j.desc
  let ptr := bitsOf (jw j 2) 43 3 * 8
  let s1 := seenCells (some j.part) ptr 1 s
  let s2 := match engRead s j.part ptr with
    | .ok c => seenCells (some j.part) (bitsOf c.data 43 3 * 8) (q.d * (q.d + 1) / 2 * (q.n / 2 + 1)) s1
    | .error _ => s1
  if j.seq = 0 then s2 else seenState j (q.d * (q.n / 2)) 0 s2

/-- A SYNTH frame. -/
def synthFrame (j : Job) (s : State) : State :=
  let q := specOf j.desc
  let half := q.n / 2
  let free (i : Nat) : Nat := Config.spectral (j.desc.map (fun c => c.data)) s.draw i
  match readTable s j q, (if j.seq = 0 then .ok [] else readState s j (q.d * half) 0) with
  | .error e, _ => afterExec j e.1 e.2 s
  | _, .error f => afterExec j jFault (fabSyndrome f .load) s
  | .ok table, .ok old =>
    let frames := (List.range q.d).map (fun d => driveFrame j q table free d)
    let outs := frames.zipIdx.map (fun p =>
      overlap p.1 ((old.drop (p.2 * half)).map laneLo) half (fun i => free (2 ^ 50 + p.2 * 2 ^ 20 + i)))
    match writeState j 0 (synthState j (frames.map (fun l => l.drop half))) { s with draw := s.draw + 1 } with
    | .error f => afterExec j jFault (fabSyndrome f .store) s
    | .ok s1 => afterExec { j with seq := j.seq + 1 } jDone 0 (handFrames j outs s1)

/-! ### An execution (R273 to R281) -/

/-- Fs of an input as a fraction (R275): K per revolution, the channel rate, or 1. -/
def inputRate (s : State) (j : Job) : Nat × Nat :=
  match bitsOf (jw j 2) 1 0 with
  | 0 => ((ringJob s j.part j.desc).map rK |>.getD 1, 1)
  | 2 => (204800, chanRdiv s (bitsOf (jw j 2) 17 2))
  | _ => (1, 1)

/-- An execution with its input: the average is updated, the state and the results are written, the record follows. -/
def runSpectral (j : Job) (ins : List (List Nat)) (fl c : Nat) (s : State) : State :=
  let q := specOf j.desc
  let free (i : Nat) : Nat := Config.spectral (j.desc.map (fun x => x.data)) s.draw i
  let entries := specEntries q
  let wk := if 13 < q.logN then q.n else 0
  match (if j.count = 0 || q.avg = 0 then .ok [] else readState s j entries wk) with
  | .error f => afterExec j jFault (fabSyndrome f .load) s
  | .ok old =>
    let avg := averaged q c old (newValues q (chanSpectra q ins free) free) free
    let kept := if q.avg = 0 then 0 else j.flags
    let ovrs := Nat.lor (if q.avg = 0 then 0 else j.ovrs) (badChannels ins)
    let r := resultWords q (inputRate s j) avg free
    let flags := Nat.lor kept fl
    let all := Nat.lor flags (if ovrs != 0 || r.1.any (fun w => wordInf q.meas w.2) then 1 else 0)
    let st := if entries = 0 then [] else avg.map cellRaw ++ [cellRaw (w64 c)]
    match writeState j wk st { s with draw := s.draw + 1 } with
    | .error f => afterExec j jFault (fabSyndrome f .store) s
    | .ok s1 =>
      match engWrites j.part (bitsOf (jw j 3) 43 6 * 64) (r.1.map (resultCell q (bitsOf (jw j 4) 11 0) flags ovrs)) s1 with
      | .error f => afterExec j jFault (fabSyndrome f .store) s1
      | .ok s2 => afterExec { j with
          seq := j.seq + 1
          count := c
          flags := all
          ovrs := ovrs } jDone (if q.kind = 3 || q.kind = 4 then min 1023 r.2 else 0) s2

/-- What reading the input and the average of an execution does to the caches. -/
def seenExec (s : State) (j : Job) (t : Nat) (ph : Word) : State :=
  let q := specOf j.desc
  let s1 := seenInput s j t ph
  if j.count = 0 || q.avg = 0 then s1 else seenState j (specEntries q) (if 13 < q.logN then q.n else 0) s1

/-- SPEC_EXEC_DONE (R273, R275 to R281): the running execution of an engine completes. -/
def execSpecExecDone (e : Fin 16) (s : State) : Host.Outcome State Fault Refusal :=
  match s.jobs.find? (fun j => j.eng == 8 + e.val && j.cur.isSome) with
  | none => .next s
  | some j =>
    let q := specOf j.desc
    match j.cur with
    | none => .next s
    | some (t, _, ph) =>
      if q.kind = 5 then .next (synthFrame j (seenTable j s))
      else
        match specInput s j t ph with
        | .error (code, syn) => .next (afterExec j code syn (seenInput s j t ph))
        | .ok (ins, fl) =>
          match avgNext q (bitsOf (jw j 4) 27 12) j.count with
          | none => .next (afterExec { j with seq := j.seq + 1 } jDone 0 (seenInput s j t ph))
          | some c => .next (runSpectral j ins fl c (seenExec s j t ph))

def execSpecRun (who : Agent) (e : Fin 16) (desc : List Cell) (s : State) : Host.Outcome State Fault Refusal :=
  let r := postSpec who e.val (specOp 1 desc) s
  .next (answerStatus r.1 r.2)
def execSpecArm (who : Agent) (e : Fin 16) (desc : List Cell) (s : State) : Host.Outcome State Fault Refusal :=
  let r := postSpec who e.val (specOp 2 desc) s
  .next (answerStatus r.1 r.2)
def execSpecDisarm (who : Agent) (e : Fin 16) (desc : List Cell) (s : State) : Host.Outcome State Fault Refusal :=
  let r := postSpec who e.val (specOp 3 desc) s
  .next (answerStatus r.1 r.2)
def execSpecResetAvg (who : Agent) (e : Fin 16) (desc : List Cell) (s : State) : Host.Outcome State Fault Refusal :=
  let r := postSpec who e.val (specOp 4 desc) s
  .next (answerStatus r.1 r.2)

end Sys2Proof.Machine
end

