-- ==== Sys2Proof/Machine/Guard.lean ====
section
/-!
DEFINITION. Machine/Guard.lean: the drive guard's triggers and ramps (R325, R326) and the application of a frame (R320,
R323): what the phase engine, the field link, the resets and the drive commands share of the drive path
(13_drive_guard.md).
-/

namespace Sys2Proof.Machine

/-- The owner of an output; none: the keeper. -/
def outOwner (s : State) (o : Nat) : Option Nat :=
  if fbit s fldDRV_OUT_CFG_ASSIGNED o then some (fget s fldDRV_OUT_CFG_PART o) else none

/-- RAMP in milliseconds. -/
def rampMs (s : State) (o : Nat) : Nat := min 2000 (max 1 (fget s fldDRV_OUT_CFG_RAMP o))

/-- Device time of 2 µs, in 2^-64 s. -/
@[reducible] def twoMicro : Nat := 36893488147419

/-- PEND follows the frames of an output. -/
def showPend (o : Nat) (s : State) : State := fset fldDRV_OUT_STAT_PEND o (getDrive s o).frames.length s

/-- The pending frames of an output are removed; their host commands end with a status. -/
def removeFrames (o status detail : Nat) (s : State) : State :=
  showPend o (modDrive o (fun x => { x with frames := [] })
    ((getDrive s o).frames.foldl (fun t f => endFrameCmd f status detail t) s))

/-- RDIV of an output, and the first of its sample instants at or after a device time, as a grid interval. -/
def outRdiv (s : State) (o : Nat) : Nat := fget s fldDRV_OUT_MAP_RDIVM1 o + 1
def gridFrom (s : State) (o t : Nat) : Nat :=
  (t * 204800 + 2 ^ 64 * outRdiv s o - 1) / (2 ^ 64 * outRdiv s o) * outRdiv s o
/-- Samples already sent whose instant lies at or after `t` are to be sent again (R323, R327); not on a version-1 link. -/
def rewind (o t : Nat) (s : State) : State :=
  let x := getDrive s o
  let g := gridFrom s o t
  let k := (x.nextG - g) / outRdiv s o
  if k = 0 || fget s fldSFL_LANE_STAT_VER (fget s fldDRV_OUT_MAP_LINK o) = 1 then s
  else modDrive o (fun y => { y with
    nextG := g
    sent := y.sent.drop k
    sidx := y.sidx - k
    tailPos := y.tailPos - k }) s

/-- The samples a ramp sends again go ahead of every other bundle of the link, but on a version-1 link (R327). -/
def rewindFirst (o t : Nat) (s : State) : State :=
  let s1 := rewind o t s
  if (getDrive s1 o).nextG = (getDrive s o).nextG then s1 else modDrive o (fun y => { y with urgent := true }) s1
/-- An ARMED output starts its ramp (R326): frames removed by a WARM trigger or a reset complete with ABORTED_BY_RESET. -/
def startRamp (cause o : Nat) (s : State) : State :=
  if drvState s o != drvArmed then s
  else
    let st := if cause = 3 then (7, 1) else if cause = 12 then (7, 3) else (14, cause)
    let s1 := removeFrames o st.1 st.2 s
    raiseKeeper 0x1E (rewindFirst o (s1.dtime + twoMicro) (fset fldDRV_OUT_STAT_CAUSE o cause
      (fset fldDRV_OUT_STAT_STATE o drvRamping (modDrive o (fun x => { x with rampStart := some (s1.dtime + twoMicro) }) s1))))

/-- The ARMED outputs a condition selects. -/
def armedOuts (s : State) (pick : Nat → Bool) : List Nat :=
  (List.range 64).filter (fun o => drvState s o == drvArmed && pick o)

/-- A trigger of device scope (R325): CLOCK and SOFT latch, and ABTN. -/
def deviceTrigger (cause : Nat) (s : State) : State :=
  let s1 := if cause = 1 then fset fldDRV_ABT_ABTN 0 1 s
    else if cause = 2 then fset fldDRV_ABT_CLOCK 0 1 s
    else if cause = 4 then fset fldDRV_ABT_SOFT 0 1 s else s
  (armedOuts s1 (fun _ => true)).foldl (fun t o => startRamp cause o t) s1

/-- A trigger that concerns one owner: causes 5 to 11 latch the partition's bit; a ramp raises DRIVE_ABORT. -/
def ownerTrigger (cause : Nat) (p : Option Nat) (s : State) : State :=
  let s1 := match p with
    | some q => if 5 ≤ cause && cause ≤ 11 then
        fset fldDRV_ABT_PART 0 (Nat.lor (fget s fldDRV_ABT_PART 0) (2 ^ q)) s else s
    | none => s
  match armedOuts s1 (fun o => outOwner s1 o == p) with
  | [] => s1
  | os =>
    let s2 := os.foldl (fun t o => startRamp cause o t) s1
    match p with
    | some q => raisePart q 9 s2
    | none => s2

/-- The owners of the ARMED outputs a condition selects, each once. -/
def armedOwners (s : State) (pick : Nat → Bool) : List (Option Nat) := ((armedOuts s pick).map (outOwner s)).eraseDups

/-- A LINK or POD trigger: every partition with an ARMED output on the link. -/
def linkTrigger (cause link : Nat) (s : State) : State :=
  (armedOwners s (fun o => fget s fldDRV_OUT_MAP_LINK o == link)).foldl (fun t p => ownerTrigger cause p t) s

/-- The PHASE trigger (cause 6): outputs that watch a source that left LOCKED, or became LOST. -/
def phaseTrigger (src old new : Nat) (s : State) : State :=
  (armedOwners s (fun o => fget s fldDRV_OUT_CFG_PHSRC o == src &&
    (match fget s fldDRV_OUT_CFG_PHTRIG o with
      | 0 => false
      | 1 => new == srcLost
      | _ => old == srcLocked && new != srcLocked))).foldl (fun t p => ownerTrigger 6 p t) s

/-- The LATE trigger (cause 10), where the output asks for it. -/
def lateTrigger (o : Nat) (s : State) : State :=
  if fbit s fldDRV_OUT_CFG_LATEAB o && drvState s o == drvArmed then ownerTrigger 10 (outOwner s o) s else s

/-! ### Frames (R320, R321, R323) -/

def frCell (f : Frame) (i : Nat) : Cell := f.cells.getD i cellVoid

/-- The accumulator of an output is brought to a device time. -/
def anchorDrive (o t : Nat) (s : State) : State :=
  let v := drivePhase s o t
  modDrive o (fun x => { x with
    phi := v.1
    freq := if sineRuns s o then v.2.1 else x.freq
    slope := if sineRuns s o then v.2.2 else x.slope
    t0 := t }) s

/-- The parameters of a frame take over the signal (R320). -/
def frameParams (mode : Nat) (f : Frame) (x : DriveOut) : DriveOut :=
  let y := { x with amp := (frCell f 2).data }
  if mode = 1 then
    let sw := bitsOf (frCell f 4).data 1 0
    { y with
      freq := if (frCell f 3).tag = tagNil then x.freq else floFixed (frCell f 3).data
      sweep := sw
      slope := if sw = 1 then floFixed (frCell f 5).data else 0
      rate := (frCell f 5).data
      fend := (frCell f 6).data }
  else if mode = 2 then
    { y with
      ring := bitsOf (frCell f 3).data 43 6 * 64
      ringLen := (frCell f 4).data.toNat
      ringPos := (frCell f 5).data.toNat }
  else y

/-- A frame applies at t_app: its parameters take over, its entry is freed, its task wakes, its host command completes. -/
def applyFrame (o : Nat) (f : Frame) (t : Nat) (s : State) : State :=
  let s1 := anchorDrive o t s
  let s2 := modDrive o (fun x =>
    { frameParams (fget s fldDRV_OUT_CFG_MODE o) f x with
      frames := x.frames.filter (fun g => g.seq != f.seq)
      applied := t }) s1
  endFrameCmd f 0 0 (wakeTarget (if f.part < 8 then some f.part else none) (frCell f 7) 3 f.cells (rewind o t (showPend o s2)))

/-- A frame is dropped as MISSED. -/
def missFrame (o : Nat) (f : Frame) (s : State) : State :=
  endFrameCmd f 15 0 (showPend o (modDrive o (fun x => { x with frames := x.frames.filter (fun g => g.seq != f.seq) }) s))

end Sys2Proof.Machine
end

