-- ==== Sys2Proof/Machine/Samples.lean ====
section
/-!
DEFINITION. Machine/Samples.lean: the channel table (R313, R316), sections of samples (R298, R302) and what the device
writes into stream rings (R299 to R303, R314), of 12_field_link.md.
-/

namespace Sys2Proof.Machine

/-! ### Links (R286, R310) -/

/-- The link of a lane: its bond group, or itself. -/
def linkOf (s : State) (l : Nat) : Nat :=
  if fbit s fldSFL_LANE_STAT_BONDED l then fget s fldSFL_LANE_STAT_GROUP l else l
@[reducible] def laneOff : Nat := 0
@[reducible] def laneSeek : Nat := 1
@[reducible] def laneCapx : Nat := 2
@[reducible] def laneActive : Nat := 3
@[reducible] def laneFailed : Nat := 4
def laneState (s : State) (l : Nat) : Nat := fget s fldSFL_LANE_STAT_LSTATE l
/-- The lanes of a link that carry traffic: the members in UP of a group whose sequence spaces run, or the ACTIVE lane. -/
def linkLanes (s : State) (l : Nat) : List Nat :=
  if fbit s fldSFL_BOND_EN l then
    (if fbit s fldSFL_BOND_ACTIVE l then (List.range 8).filter (fun k => nbits (fget s fldSFL_BOND_UP l) k k == 1) else [])
  else if laneState s l == laneActive && linkOf s l == l then [l] else []
def linkUp (s : State) (l : Nat) : Bool := !(linkLanes s l).isEmpty
/-- The version of a link: that of its lowest lane that carries traffic, else of lane l. -/
def linkVer (s : State) (l : Nat) : Nat := fget s fldSFL_LANE_STAT_VER ((linkLanes s l).head?.getD l)
/-- The timing lane of a link (R297): the lowest member that is ACTIVE. -/
def timingLane (s : State) (l : Nat) : Nat :=
  if fbit s fldSFL_BOND_EN l then
    ((List.range 8).find? (fun k => nbits (fget s fldSFL_BOND_MEMBERS l) k k == 1 && laneState s k == laneActive)).getD l
  else l
def linkLocked (s : State) (l : Nat) : Bool := fget s fldSFL_LANE_STAT_TSTATE (timingLane s l) == 2

/-! ### The channel table (R313, R315, R316) -/

/-- The valid entries, rising: V resets to 0, so an entry that is valid is listed. -/
def validChans (s : State) : List Nat :=
  let b := regKey .SFL_CHT_A 0
  s.regs.filterMap (fun p => if b ≤ p.1 && p.1 < b + 16384 && bitOf p.2 0 then some (p.1 - b) else none)
def chansOn (s : State) (l : Nat) : List Nat := (validChans s).filter (fun i => fget s fldSFL_CHT_A_LINK i == l)
def chanPart (s : State) (i : Nat) : Option Nat :=
  if fbit s fldSFL_CHT_A_ASSIGNED i then some (fget s fldSFL_CHT_A_PART i) else none
/-- Slot bytes per second of an entry. -/
def slotRate (s : State) (i : Nat) : Nat := 819200 / chanRdiv s i
/-- The load of a link: the sum of 4 * 204,800 / RDIV, rounded down once. -/
def linkLoad (s : State) (l : Nat) : Nat :=
  let n := (chansOn s l).foldl (fun (a : Nat × Nat) i => (a.1 * chanRdiv s i + 819200 * a.2, a.2 * chanRdiv s i)) (0, 1)
  n.1 / n.2
/-- LOAD follows the valid entries. -/
def showLoad (l : Nat) (s : State) : State := fset fldSFL_LINK_LOAD_LOAD l (linkLoad s l) s
/-- The capacity of a link. A link without a version counts as one at 25.78125 Gbit/s. -/
def linkCapacity (s : State) (l : Nat) : Nat :=
  let b := if linkVer s l = 1 then 1250000000 else 3125000000
  let n := if fbit s fldSFL_BOND_EN l then popcount 8 (fget s fldSFL_BOND_UP l) - fget s fldSFL_BOND_SPARE l else 1
  b * 96 / 100 * n
/-- A write of LIM stores at most C. -/
def writeLinkLim (l : Nat) (v : Word) (s : State) : State :=
  fset fldSFL_LINK_LIM_LIM l (min (bitsOf v 39 0) (linkCapacity s l)) s
def modChan (i : Nat) (f : Channel → Channel) (s : State) : State :=
  { s with channels := recPut i (f (getChan s i)) s.channels }
/-- The partitions with valid entries on a link, each once. -/
def linkParts (s : State) (l : Nat) : List Nat := ((chansOn s l).filterMap (chanPart s)).eraseDups
/-- V of an entry becomes 0. -/
def clearChan (i : Nat) (s : State) : State :=
  showLoad (fget s fldSFL_CHT_A_LINK i) (fset fldSFL_CHT_A_V i 0 s)

/-- A write of SFL_CHT_A (R313): only the keeper's counts. While V = 1 only V is written. An entry that becomes valid
starts at index 0 without an anchor. -/
def writeChan (who : Agent) (i : Nat) (v : Word) (s : State) : State :=
  if !isKeeper s who then s
  else if fbit s fldSFL_CHT_A_V i then (if bitOf v 0 then s else clearChan i s)
  else
    let mask := putBits (putBits v 27 27 0) 63 52 0
    let s1 := setReg .SFL_CHT_A i (putBit mask 0 false) s
    if !bitOf v 0 then s1
    else
      let l := fget s1 fldSFL_CHT_A_LINK i
      let s2 := fset fldSFL_CHT_A_V i 1 s1
      if fget s fldSFL_LINK_LIM_LIM l < linkLoad s2 l then fset fldSFL_LINK_STAT_REFUSED l 1 s1
      else showLoad l (modChan i (fun _ => Channel.idle) s2)
/-- CHANNEL_VALIDATE and CHANNEL_INVALIDATE (R313): writes with V = 1 and V = 0. -/
def execChannelValidate (who : Agent) (i : Fin 16384) (value : Word) (s : State) : Host.Outcome State Fault Refusal :=
  .next (writeChan who i.val (putBit value 0 true) s)
def execChannelInvalidate (who : Agent) (i : Fin 16384) (value : Word) (s : State) : Host.Outcome State Fault Refusal :=
  .next (writeChan who i.val (putBit value 0 false) s)

/-! ### Sections (R298, R302) -/

/-- A section: header fields and, by sample and channel, the slots and the flag pairs; none where a sample is missing. -/
structure Section where
  first : Nat
  nch : Nat
  ns : Nat
  comp : Bool
  sidx : Nat
  time : Word
  slots : List (Option Nat)
  pairs : List Nat

/-- The 32-bit slots of cells. -/
def slotsOf (ws : List Word) : List Nat := ws.flatMap (fun w => [bitsOf w 31 0, bitsOf w 63 32])
/-- The 2-bit pairs of cells. -/
def pairsOf (ws : List Word) : List Nat := ws.flatMap (fun w => (List.range 32).map (fun i => bitsOf w (2 * i + 1) (2 * i)))
/-- The bits of cells as one number, least significant first. -/
def cellsNat : List Word → Nat
  | [] => 0
  | w :: ws => w.toNat + 2 ^ 64 * cellsNat ws
/-- `n` samples that follow a first one by deltas of `w` bits. -/
def deltaRun (bits w : Nat) : Nat → Nat → Nat → List Nat
  | 0, _, _ => []
  | n + 1, i, x =>
    let d := if w = 0 then 0 else signedOf w (bits / 2 ^ (w * i))
    let y := (((x : Int) + d) % 2 ^ 32).toNat
    y :: deltaRun bits w n (i + 1) y
/-- The blocks of a compressed section, by channel; and the cells after them. -/
def compBlocks (ns : Nat) : Nat → List Word → Option (List (List Nat) × List Word)
  | 0, ws => some ([], ws)
  | _ + 1, [] => none
  | n + 1, h :: ws =>
    let w := min 32 (bitsOf h 37 32)
    let cells := ((ns - 1) * w + 63) / 64
    if ws.length < cells then none
    else
      let x := bitsOf h 31 0
      match compBlocks ns n (ws.drop cells) with
      | none => none
      | some (bs, rest) => some ((x :: deltaRun (cellsNat (ws.take cells)) w (ns - 1) 0 x) :: bs, rest)
/-- One section from the front of a payload; none when the payload ends within it. -/
def sectionOf : List Word → Option (Section × List Word)
  | c0 :: c1 :: ws =>
    let nch := bitsOf c0 23 16 + 1
    let ns := bitsOf c0 33 24 + 1
    let comp := bitOf c0 35
    let body : Option (List Nat × List Word) :=
      if comp then
        match compBlocks ns nch ws with
        | none => none
        | some (bs, rest) => some ((List.range ns).flatMap (fun t => bs.map (fun b => b.getD t 0)), rest)
      else
        let n := (nch * ns + 1) / 2
        if ws.length < n then none else some ((slotsOf (ws.take n)).take (nch * ns), ws.drop n)
    match body with
    | none => none
    | some (slots, rest) =>
      let m := if bitOf c0 34 then (2 * nch * ns + 63) / 64 else 0
      if rest.length < m then none
      else some (⟨bitsOf c0 15 0, nch, ns, comp, bitsOf c0 63 40, c1, slots.map some, pairsOf (rest.take m)⟩, rest.drop m)
  | _ => none
/-- The sections of a payload: whole sections only. -/
def sectionsOf : Nat → List Word → List Section
  | 0, _ => []
  | n + 1, ws =>
    match sectionOf ws with
    | none => []
    | some (x, rest) => x :: sectionsOf n rest

/-! ### Stream rings (R299, R300) -/

/-- A cell of an entry's ring, read for a change. -/
def ringCell (s : State) (o : Option Nat) (a : Nat) : Word :=
  match spaceRead s o a with
  | .ok c => c.data
  | .error _ => 0
/-- A sample: its value, and its flags OVR, MISS and UNC in bits 0 to 2. -/
abbrev Sample := Nat × Nat
/-- Writes samples from index `k` on: data and flag cells; up to the first fault, which it tells of. -/
def putSamples (i : Nat) (o : Option Nat) : Nat → List Sample → State → State × Bool
  | _, [], s => (s, false)
  | k, x :: xs, s =>
    let tag := if fbit s fldSFL_CHT_A_FMT i then tagF32x2 else tagI32x2
    let d := putBits (ringCell s o (sampleAddr s i k)) (32 * (k % 2) + 31) (32 * (k % 2)) x.1
    let f := putBits (ringCell s o (flagAddr s i k)) (4 * (k % 16) + 2) (4 * (k % 16)) x.2
    match spaceWrites o (sampleAddr s i k) [⟨tag, d⟩] s with
    | .error _ => (s, true)
    | .ok s1 =>
      match spaceWrites o (flagAddr s i k) [cellRaw f] s1 with
      | .error _ => (s1, true)
      | .ok s2 => putSamples i o (k + 1) xs s2
/-- Cells 0 and 2 to 7 of line 0. -/
def ringHead (s : State) (i : Nat) : List Cell :=
  let n := chanLog s i
  let ch := getChan s i
  [⟨tagHeader, w64 (0x47 * 2 ^ 56 + (7 + 2 ^ n + 2 ^ (n - 3)))⟩, cellRaw (w64 ch.widx), ⟨tagPhase15, ch.anchor.getD 0⟩,
   cellRaw (w64 (if linkVer s (fget s fldSFL_CHT_A_LINK i) = 1 then ch.period else 0)), cellRaw (w64 ch.gen), cellRaw 0, cellRaw 0,
   cellRaw 0]
/-- A fault of a ring write (R314): V = 0, and ENGINE_FAULT of the owning partition. -/
def chanFault (i : Nat) (s : State) : State :=
  match chanPart s i with
  | some p => raisePart p 6 (clearChan i s)
  | none => clearChan i s
/-- Line 0 of an entry's ring. -/
def putHead (i : Nat) (s : State) : State :=
  match spaceWrites (chanPart s i) (fget s fldSFL_CHT_B_BASE i * 64) (ringHead s i) s with
  | .error _ => chanFault i s
  | .ok s1 => s1
/-- Appends samples to an entry's ring: data and flags, then WIDX with line 0. The ring of an entry that is the keeper's lies at a
PA. -/
def appendSamples (i : Nat) (xs : List Sample) (s : State) : State :=
  let r := putSamples i (chanPart s i) (getChan s i).widx xs s
  if r.2 then chanFault i r.1 else putHead i (modChan i (fun c => { c with widx := c.widx + xs.length }) r.1)
/-- Missing samples: zero with MISS. Only those the ring still holds need writing. -/
def appendMissing (i n : Nat) (s : State) : State :=
  if n = 0 then s
  else
    let cap := 2 ^ (chanLog s i + 1)
    let s1 := if cap < n then modChan i (fun c => { c with widx := c.widx + (n - cap) }) s else s
    appendSamples i (List.replicate (min n cap) (0, 2)) s1

/-! ### Times (R301, R303) -/

/-- Grid interval number nearest to a time (2^-32 s), among the multiples of RDIV. -/
def gridNear (t rdiv : Nat) : Nat := (2 * t * 204800 + rdiv * 2 ^ 32) / (2 * rdiv * 2 ^ 32) * rdiv
/-- The instant of grid point g, rounded to 2^-32 s. -/
def gridTime (g : Int) : Word := wordOfInt ((2 * g * 2 ^ 32 + 204800) / 409600)
/-- t_k of R301. -/
def sampleTime (s : State) (i k : Nat) : Word :=
  (getChan s i).anchor.getD 0 + gridTime ((k * chanRdiv s i : Nat) : Int)
/-- A failed time check: more than 4 ns. -/
def timeOff (a b : Word) : Bool := decide (4 * 2 ^ 32 < (a - b).toInt.natAbs * 1000000000)
/-- The anchor of a channel whose next sample was taken at a time, when the next index is k. -/
def anchorAt (s : State) (i k : Nat) (t : Word) : Word :=
  gridTime ((gridNear t.toNat (chanRdiv s i) : Nat) - ((k * chanRdiv s i : Nat) : Int))
/-- Version 1: the anchor from the arrival of a bundle and LAT1 of its lane; the newest sample has index `last`. -/
def arrivalAnchor (s : State) (lane i last : Nat) : Word :=
  let lat := Config.latDelay (bitsOf (getReg s .SFL_LANE_PLAT lane) 31 0)
  w64 ((s.dtime - lat - last * (getChan s i).period) / 2 ^ 32)
/-- The nominal period of an entry, in 2^-64 s. -/
def nominalPeriod (s : State) (i : Nat) : Nat := chanRdiv s i * 2 ^ 64 / 204800

/-- A channel takes a run of samples whose pod index is `idx`, on version 2 or 3: a restart where the index moves backward
or more than 2^23 ahead; missing samples before it; the time check. -/
def takeTimed (lane i : Nat) (time : Word) (sidx : Nat) (xs : List Sample) (unc : Bool) (s : State) : State :=
  let ch := getChan s i
  let expect := ch.shift + (ch.widx : Int)
  let d := signedOf 24 (((sidx : Int) - expect) % 2 ^ 24).toNat
  let fresh := ch.anchor.isNone
  let s1 :=
    if fresh || d < 0 then
      modChan i (fun c => { c with
        anchor := some (anchorAt s i c.widx time)
        shift := (sidx : Int) - (c.widx : Int)
        restartAt := c.widx
        gen := if fresh then c.gen else c.gen + 1 }) s
    else appendMissing i d.toNat s
  if !fbit s1 fldSFL_CHT_A_V i then s1
  else
    let bad := timeOff time (sampleTime s1 i (getChan s1 i).widx)
    let s2 := if bad then countUp .SFL_LANE_TERR lane 1 s1 else s1
    let mark := if unc || bad then 4 else 0
    appendSamples i (xs.map (fun x => (x.1, Nat.lor x.2 mark))) s2
/-- The same on version 1, where the section carries the whole index and no time. `last`: the pod's index of the last sample of the
channel in the bundle, whose arrival the bundle's stands for; `ends`: the section holds it. -/
def takeUntimed (lane i idx last : Nat) (ends : Bool) (xs : List Sample) (s : State) : State :=
  let ch := getChan s i
  let d : Int := (idx : Int) - (ch.shift + (ch.widx : Int))
  let fresh := ch.anchor.isNone
  let restart := fresh || d < 0 || (2 ^ 23 : Int) < d
  let s1 :=
    if restart then
      let t := modChan i (fun c => { c with
        period := nominalPeriod s i
        shift := (idx : Int) - (c.widx : Int)
        restartAt := c.widx
        gen := if fresh then c.gen else c.gen + 1
        arrivals := [] }) s
      modChan i (fun c => { c with anchor := some (arrivalAnchor t lane i (((last : Int) - c.shift).toNat)) }) t
    else appendMissing i d.toNat s
  if !fbit s1 fldSFL_CHT_A_V i then s1
  else
    let s2 := appendSamples i (xs.map (fun x => (x.1, Nat.lor x.2 4))) s1
    if ends then modChan i (fun c => { c with arrivals := ((c.widx - 1, s2.dtime) :: c.arrivals).take 256 }) s2 else s2
/-- The entry that maps a pod channel of a link (R299). -/
def chanOf (s : State) (link ch : Nat) : Option Nat :=
  (chansOn s link).find? (fun i => fget s fldSFL_CHT_A_PODCH i == ch)
/-- A section that R302 discards: compressed below version 3, or naming an F32 channel. -/
def sectionLost (s : State) (link ver : Nat) (x : Section) : Bool :=
  x.comp && (ver != 3 || (List.range x.nch).any (fun j => match chanOf s link (x.first + j) with
    | some i => fbit s fldSFL_CHT_A_FMT i
    | none => false))
/-- A section carries a pod channel. -/
def carries (ch : Nat) (x : Section) : Bool := decide (x.first ≤ ch) && decide (ch < x.first + x.nch)
/-- A section is delivered (R298 to R303): each mapped channel takes its samples; others are discarded. `rest`: the sections after
it in the bundle; `unc`: the link was not LOCKED when it arrived. -/
def takeSection (link lane : Nat) (unc : Bool) (x : Section) (rest : List Section) (s : State) : State :=
  let ver := fget s fldSFL_LANE_STAT_VER lane
  let lost := sectionLost s link ver x
  (List.range x.nch).foldl (fun t j =>
    match chanOf t link (x.first + j) with
    | none => t
    | some i =>
      let xs : List Sample := (List.range x.ns).map (fun n =>
        let at_ := n * x.nch + j
        let fl := x.pairs.getD at_ 0
        if lost || fl / 2 % 2 = 1 then (0, if lost then 2 else fl) else ((x.slots.getD at_ none).getD 0, fl))
      let later := rest.filter (carries (x.first + j))
      let end_ := later.getLastD x
      if ver = 1 then takeUntimed lane i x.time.toNat (end_.time.toNat + end_.ns - 1) later.isEmpty xs t
      else takeTimed lane i x.time x.sidx xs unc t) s
/-- Sections of a bundle, in order. -/
def takeSections (link lane : Nat) (unc : Bool) : List Section → State → State
  | [], s => s
  | x :: rest, s => takeSections link lane unc rest (takeSection link lane unc x rest s)
/-- A SAMPLE bundle is delivered. -/
def takeSamples (link lane : Nat) (unc : Bool) (payload : List Word) (s : State) : State :=
  takeSections link lane unc (sectionsOf payload.length payload) s

/-- Sums of a least-squares fit of arrival times over indices: n, Σk, Σt, Σk², Σkt. -/
def fitSums (l : List (Nat × Nat)) : Int × Int × Int × Int × Int :=
  l.foldl (fun a p =>
    let k : Int := p.1
    let t : Int := p.2
    (a.1 + 1, a.2.1 + k, a.2.2.1 + t, a.2.2.2.1 + k * k, a.2.2.2.2 + k * t)) (0, 0, 0, 0, 0)
/-- The fitted period of a channel, over 256 bundles. -/
def fitPeriod (l : List (Nat × Nat)) : Option Nat :=
  let a := fitSums l
  let den := a.1 * a.2.2.2.1 - a.2.1 * a.2.1
  if l.length < 256 || den ≤ 0 then none else some ((a.1 * a.2.2.2.2 - a.2.1 * a.2.2.1) / den).toNat
/-- ANCHOR_PERIOD_ESTIMATE (R303): each version-1 channel takes the fitted PERIOD, and the ANCHOR with which the current
sample keeps its time. -/
def refitChan (i : Nat) (s : State) : State :=
  let ch := getChan s i
  match ch.anchor, fitPeriod ch.arrivals with
  | some a, some p =>
    let now : Int := (a.toNat * 2 ^ 32 : Nat) + ((ch.widx * ch.period : Nat) : Int)
    putHead i (modChan i (fun c => { c with
      period := p
      anchor := some (wordOfInt ((now - ((ch.widx * p : Nat) : Int)) / 2 ^ 32)) }) s)
  | _, _ => s
def execAnchorPeriodEstimate (s : State) : Host.Outcome State Fault Refusal :=
  .next ((validChans s).foldl (fun t i =>
    if linkVer t (fget t fldSFL_CHT_A_LINK i) = 1 then refitChan i t else t) s)

end Sys2Proof.Machine
end

