-- ==== Sys2Proof/Machine/FieldLink.lean ====
section
/-!
DEFINITION. Machine/FieldLink.lean: lanes and their states (R291 to R293), bundles, sequence and replay (R285 to R289),
time synchronisation (R294 to R297), configuration (R306, R308), markers (R309) and bond groups (R310, R311) of
12_field_link.md.
-/

namespace Sys2Proof.Machine

def LaneWork.idle : LaneWork :=
  { fast := false, gotCap := false, gotAck := false, podSays := 0, sentCap := false, exch := 0, openTs := [],
    delays := [], good := 0 }
def LinkWork.idle : LinkWork :=
  { expect := 0, held := [], nak := false, next := 0, kept := [], waiting := [], reqs := [], nextReq := 0 }
def getLane (s : State) (l : Nat) : LaneWork := sparseGet (fun _ => LaneWork.idle) s.lanes l
def modLane (l : Nat) (f : LaneWork → LaneWork) (s : State) : State := { s with lanes := recPut l (f (getLane s l)) s.lanes }
def getLink (s : State) (l : Nat) : LinkWork := sparseGet (fun _ => LinkWork.idle) s.links l
def modLink (l : Nat) (f : LinkWork → LinkWork) (s : State) : State := { s with links := recPut l (f (getLink s l)) s.links }

/-! ### Bundles (R285, R286) -/

@[reducible] def tyLink : Nat := 0
@[reducible] def tyTsync : Nat := 1
@[reducible] def tySample : Nat := 2
@[reducible] def tyDrive : Nat := 3
@[reducible] def tyConfig : Nat := 4
@[reducible] def tyMarker : Nat := 5

/-- One bit of the IEEE 802.3 frame check sequence, reflected. -/
def crcBit (c b : Nat) : Nat := if (c + b) % 2 = 1 then Nat.xor (c / 2) 0xEDB88320 else c / 2
/-- The bits of a word, least significant first, which is byte order with the least significant byte first. -/
def crcWord (c : Nat) (w : Word) : Nat := (List.range 64).foldl (fun a i => crcBit a (nbits w.toNat i i)) c
/-- The frame check sequence of a bundle. -/
def crcOf (ws : List Word) : Nat := Nat.xor (ws.foldl crcWord 0xFFFFFFFF) 0xFFFFFFFF

def bunVer (b : Bundle) : Nat := bitsOf (b.hdr.getD 0 0) 3 0
def bunType (b : Bundle) : Nat := bitsOf (b.hdr.getD 0 0) 7 4
def bunLen (b : Bundle) : Nat := bitsOf (b.hdr.getD 0 0) 26 16
def bunSeq (b : Bundle) : Nat := bitsOf (b.hdr.getD 0 0) 47 32
def bunAck (b : Bundle) : Nat := bitsOf (b.hdr.getD 0 0) 63 48
def bunKind (b : Bundle) : Nat := bitsOf (b.hdr.getD 2 0) 3 0

/-- W0 of a bundle the device sends on a lane; acknowledgements are valid once the lane is ACTIVE. -/
def word0 (s : State) (lane type seq len : Nat) (retx nak : Bool) : Word :=
  let act := laneState s lane == laneActive
  w64 (fget s fldSFL_LANE_STAT_VER lane + type * 2 ^ 4 + lane * 2 ^ 8 + retx.toNat * 2 ^ 11 + act.toNat * 2 ^ 12 +
    nak.toNat * 2 ^ 13 + len * 2 ^ 16 + seq * 2 ^ 32 + (if act then (getLink s (linkOf s lane)).expect else 0) * 2 ^ 48)
/-- A bundle leaves on a lane, with its frame check sequence (R285). -/
def emitBundle (lane : Nat) (b : Bundle) (s : State) : State := emit (.bundle lane b (crcOf (b.hdr ++ b.payload))) s
/-- A bundle that is not sequenced leaves on a lane. -/
def sendPlain (lane type kind : Nat) (w1 w3 : Word) (w2hi : Nat) (nak : Bool) (payload : List Word) (s : State) : State :=
  emitBundle lane ⟨[word0 s lane type 0 payload.length false nak, w1, w64 (kind + w2hi), w3], payload⟩ s
/-- A LINK HEARTBEAT, which carries the acknowledgement. -/
def sendBeat (lane : Nat) (s : State) : State := sendPlain lane tyLink 0 0 0 0 false [] s
/-- A NAK with ACK = E on a link's lowest lane that carries traffic. -/
def sendNak (link : Nat) (s : State) : State :=
  match linkLanes s link with
  | [] => s
  | l :: _ => countSat fldSFL_LANE_RPL_NAK l 1
      (modLink link (fun x => { x with nak := true }) (sendPlain l tyLink 0 0 0 0 true [] s))

/-! ### Sending (R289, R311) -/

def bundleBytes (b : Bundle) : Nat := 36 + 8 * b.payload.length
/-- A sequenced bundle may be sent: at most 4,096 outstanding, 256 KiB kept per lane. -/
def canSend (s : State) (link len : Nat) : Bool :=
  let x := getLink s link
  linkUp s link && decide (x.kept.length < 4096) &&
  decide (x.kept.foldl (fun a p => a + bundleBytes p.2) 0 + 36 + 8 * len ≤ 262144 * (linkLanes s link).length)
/-- A sequenced bundle leaves on the link's lowest lane and is kept. -/
def sendNow (link type : Nat) (payload : List Word) (s : State) : State :=
  match linkLanes s link with
  | [] => s
  | l :: _ =>
    let n := (getLink s link).next
    let b : Bundle := ⟨[word0 s l type n payload.length false false, 0, 0, 0], payload⟩
    modLink link (fun x => { x with
      next := (n + 1) % 65536
      kept := x.kept ++ [(n, b)] }) (emitBundle l b s)
/-- Bundles that waited for room are sent, in order. -/
def sendWaiting (link : Nat) : Nat → State → State
  | 0, s => s
  | n + 1, s =>
    match (getLink s link).waiting with
    | [] => s
    | (ty, p) :: rest =>
      if canSend s link p.length then sendWaiting link n (sendNow link ty p (modLink link (fun x => { x with waiting := rest }) s))
      else s
/-- A sequenced bundle is sent, or waits; a link that is down takes none. -/
def sendSeq (link type : Nat) (payload : List Word) (s : State) : State :=
  if !linkUp s link then s
  else
    let s1 := modLink link (fun x => { x with waiting := x.waiting ++ [(type, payload)] }) s
    sendWaiting link (getLink s1 link).waiting.length s1
/-- A sequenced bundle goes ahead of those that wait (R327). -/
def sendFirst (link type : Nat) (payload : List Word) (s : State) : State :=
  if !linkUp s link then s
  else
    let s1 := modLink link (fun x => { x with waiting := (type, payload) :: x.waiting }) s
    sendWaiting link (getLink s1 link).waiting.length s1
/-- Kept bundles from sequence number `a` on are resent with RETX = 1, in order. -/
def resendFrom (link a : Nat) (s : State) : State :=
  match linkLanes s link with
  | [] => s
  | l :: _ =>
    ((getLink s link).kept.filter (fun p => (p.1 + 65536 - a) % 65536 < 32768)).foldl (fun t p =>
      let b : Bundle := ⟨word0 t l (bunType p.2) p.1 p.2.payload.length true false :: p.2.hdr.drop 1, p.2.payload⟩
      countSat fldSFL_LANE_RPL_RPL l 1 (emitBundle l b t)) s
/-- An ACK of `a` releases every kept bundle before it. -/
def releaseKept (link a : Nat) (s : State) : State :=
  modLink link (fun x => { x with kept := x.kept.filter (fun p => (p.1 + 65536 - a) % 65536 < 32768) }) s
/-- The ACK fields of a bundle are used (R289): an ACK releases, a NAK resends, and only then new bundles leave. -/
def useAck (link : Nat) (ackv nak : Bool) (a : Nat) (s : State) : State :=
  let s1 := if ackv then releaseKept link a s else s
  let s2 := if nak then resendFrom link a s1 else s1
  sendWaiting link (getLink s2 link).waiting.length s2

/-! ### Configuration (R306, R308) -/

/-- A request completes: result area, wake code 3. -/
def cfgDone (link : Nat) (r : CfgReq) (status : Nat) (value : Word) (s : State) : State :=
  wakeTarget r.part r.target 3 r.desc (cohPuts r.area [cellRaw (w64 status), cellRaw value]
    (modLink link (fun x => { x with reqs := x.reqs.filter (fun q => q.reqid != r.reqid) }) s))
/-- Every request of a link completes with LINK_DOWN. -/
def cfgLinkDown (link : Nat) (s : State) : State :=
  (getLink s link).reqs.foldl (fun t r => cfgDone link r 5 0 t) s
/-- A CONFIG bundle from the pod: 2-cell responses. -/
def takeConfig (link : Nat) : List Word → State → State
  | c0 :: c1 :: rest, s =>
    takeConfig link rest (match (getLink s link).reqs.find? (fun r => r.reqid == bitsOf c0 15 0) with
      | none => s
      | some r => cfgDone link r (bitsOf c0 23 16) c1 s)
  | _, s => s
/-- Who posts to queue 0x48 (R307): the keeper, and not from a core of a partition. -/
def keeperPosts (s : State) (who : Agent) : Bool := isKeeper s who && (agentPart s who).isNone
/-- POST to queue 0x48. -/
def postConfig (who : Agent) (desc : List Cell) (s : State) : Nat × State :=
  let c (i : Nat) : Cell := desc.getD i cellVoid
  let w := (c 0).data
  let link := bitsOf w 6 4
  if !keeperPosts s who then answerNo 2 s
  else if (c 0).tag != tagRaw64 || (c 1).tag != tagRaw64 || (c 2).tag != tagRaw64 || !wakeOk (c 3) ||
      !(bitsOf w 3 0 == 1 || bitsOf w 3 0 == 2) || bitsOf w 31 7 != 0 || bitsOf (c 2).data 2 0 != 0 ||
      bitsOf (c 2).data 63 44 != 0 then answerNo 5 s
  else if 64 ≤ (getLink s link).reqs.length then answerNo 1 s
  else
    let x := getLink s link
    let r : CfgReq := ⟨x.nextReq, bitsOf (c 2).data 43 3 * 8, c 3, agentPart s who, desc.take 3⟩
    let s1 := modLink link (fun y => { y with
      reqs := y.reqs ++ [r]
      nextReq := (y.nextReq + 1) % 65536 }) s
    if !linkUp s link then (0, cfgDone link r 5 0 s1)
    else
      let v := if bitsOf w 3 0 = 2 then (c 1).data else 0
      (0, sendSeq link tyConfig [w64 (r.reqid + bitsOf w 3 0 * 2 ^ 16 + bitsOf w 63 32 * 2 ^ 32), v] s1)
/-- CONFIG_READ and CONFIG_WRITE: posts with OP 1 and 2. -/
def execConfigRead (who : Agent) (desc : List Cell) (s : State) : Host.Outcome State Fault Refusal :=
  let r := postConfig who (specOp 1 desc) s
  .next (answerStatus r.1 r.2)
def execConfigWrite (who : Agent) (desc : List Cell) (s : State) : Host.Outcome State Fault Refusal :=
  let r := postConfig who (specOp 2 desc) s
  .next (answerStatus r.1 r.2)
/-- CONFIG_TIMEOUT: the oldest request of a link has had no response for 10 ms. -/
def execConfigTimeout (link : Fin 8) (s : State) : Host.Outcome State Fault Refusal :=
  match (getLink s link.val).reqs with
  | [] => .next s
  | r :: _ => .next (cfgDone link.val r 6 0 s)

/-! ### Lane states (R291) -/

/-- SFL_LINK of every partition with valid entries on a link. -/
def linkEvent (link : Nat) (s : State) : State := (linkParts s link).foldl (fun t p => raisePart p 7 t) s
/-- A change of TSTATE (R297). -/
def setTstate (lane v : Nat) (s : State) : State :=
  if fget s fldSFL_LANE_STAT_TSTATE lane = v then s
  else linkEvent (linkOf s lane) (fset fldSFL_LANE_STAT_TSTATE lane v s)
/-- TSTATE after a change of LSTATE, of the version or of TSEN (R297): NONE at version 1 and while TSEN is 0, else ACQ. -/
def restartTs (lane : Nat) (s : State) : State :=
  let none_ := fget s fldSFL_LANE_STAT_VER lane == 1 || !fbit s fldSFL_LANE_CTL_TSEN lane
  setTstate lane (if none_ then 0 else 1) (modLane lane (fun x => { x with
    good := 0
    openTs := []
    delays := [] }) s)
/-- A lane takes an agreed version. -/
def setVer (lane v : Nat) (s : State) : State :=
  if fget s fldSFL_LANE_STAT_VER lane = v then s else restartTs lane (fset fldSFL_LANE_STAT_VER lane v s)
/-- A link has lost its last lane: its sequence state is discarded, its requests end, the LINK trigger (R325). -/
def linkLost (link : Nat) (s : State) : State :=
  linkTrigger 7 link (cfgLinkDown link (modLink link (fun x => { x with
    expect := 0
    held := []
    nak := false
    next := 0
    kept := []
    waiting := [] }) s))
/-- A lane that was ACTIVE has left: its group sends a NAK on another member, or its link is lost (R311). -/
def leaveLink (lane : Nat) (s : State) : State :=
  let link := linkOf s lane
  if fbit s fldSFL_LANE_STAT_BONDED lane then
    let up := fget s fldSFL_BOND_UP link
    if nbits up lane lane = 0 then s
    else
      let s1 := fset fldSFL_BOND_UP link (nput up lane lane 0) s
      if linkUp s1 link then sendNak link s1 else linkLost link (fset fldSFL_BOND_ACTIVE link 0 s1)
  else linkLost link s
/-- A lane takes a state: keeper event 0x1C, partition event 7 of R291; it negotiates anew outside CAPX and ACTIVE. -/
def setLane (lane st : Nat) (s : State) : State :=
  let old := laneState s lane
  if old = st then s
  else
    let s1 := fset fldSFL_LANE_STAT_LSTATE lane st s
    let s2 := if st = laneCapx || st = laneActive then s1
      else fset fldSFL_LANE_STAT_VER lane 0 (fset fldSFL_LANE_STAT_FAST lane 0 (modLane lane (fun x => { x with
        gotCap := false
        gotAck := false
        podSays := 0
        sentCap := false }) s1))
    let s3 := linkEvent (linkOf s2 lane) (raiseKeeper 0x1C (restartTs lane s2))
    if old = laneActive then leaveLink lane s3 else s3
/-- The rate at which a lane begins to seek: 25.78125 Gbit/s first, unless RATE or VMAX = 1 restricts it. -/
def slowOnly (s : State) (l : Nat) : Bool :=
  fget s fldSFL_LANE_CTL_RATE l == 2 || fget s fldSFL_LANE_CTL_VMAX l ≤ 1
def seekLane (l : Nat) (s : State) : State :=
  let s1 := setLane l laneSeek s
  modLane l (fun x => { x with fast := !slowOnly s l }) s1
/-- FLT_LANE_RET holds a lane FAILED, whatever EN and AUTO hold. -/
def laneHeld (s : State) (l : Nat) : Bool := nbits (fget s fldFLT_LANE_RET_RET 0) l l == 1
/-- A write of SFL_LANE_CTL: EN, and the other fields. A lane whose domain is OFF does not run (R425). -/
def writeLane (who : Agent) (l : Nat) (v : Word) (s : State) : State :=
  if !isKeeper s who then s
  else
    let s1 := setReg .SFL_LANE_CTL l (putBits (putBits (putBits v 15 7 0) 31 24 0) 63 32 0) s
    let s2 := if fbit s fldSFL_LANE_CTL_TSEN l = bitOf v 6 then s1 else restartTs l s1
    let reseek := laneState s2 l == laneSeek && (fget s fldSFL_LANE_CTL_RATE l != bitsOf v 2 1 || fget s fldSFL_LANE_CTL_VMAX l != bitsOf v 4 3)
    let s2 := if reseek then modLane l (fun x => { x with fast := !slowOnly s2 l }) s2 else s2
    if laneHeld s2 l then setLane l laneFailed s2
    else if !bitOf v 0 then setLane l laneOff s2
    else if laneState s2 l = laneOff && pwrOn s2 (24 + l / 4) then seekLane l s2
    else s2
/-- LANE_ENABLE and LANE_DISABLE: writes with EN = 1 and 0. -/
def execLaneEnable (who : Agent) (lane : Fin 8) (value : BitVec 32) (s : State) : Host.Outcome State Fault Refusal :=
  .next (writeLane who lane.val (putBit (value.zeroExtend 64) 0 true) s)
def execLaneDisable (who : Agent) (lane : Fin 8) (value : BitVec 32) (s : State) : Host.Outcome State Fault Refusal :=
  .next (writeLane who lane.val (putBit (value.zeroExtend 64) 0 false) s)
/-- BLOCK_LOCK. -/
def execBlockLock (lane : Fin 8) (s : State) : Host.Outcome State Fault Refusal :=
  if laneState s lane.val = laneSeek then
    .next (fset fldSFL_LANE_STAT_FAST lane.val (getLane s lane.val).fast.toNat (setLane lane.val laneCapx s))
  else .next s
/-- SEEK_RATE_TIMEOUT: under RATE = AUTO the seek rate alternates. -/
def execSeekRateTimeout (lane : Fin 8) (s : State) : Host.Outcome State Fault Refusal :=
  let r := fget s fldSFL_LANE_CTL_RATE lane.val
  if laneState s lane.val = laneSeek && (r == 0 || r == 3) && !slowOnly s lane.val then
    .next (modLane lane.val (fun x => { x with fast := !x.fast }) s)
  else .next s

/-! ### Capabilities (R292, R293) -/

/-- VMAX as it acts. -/
def devVmax (s : State) (l : Nat) : Nat := max 1 (fget s fldSFL_LANE_CTL_VMAX l)
/-- The version this side agrees: 1 at 10.3125 Gbit/s, else the smaller VMAX. -/
def agreedVer (s : State) (l : Nat) : Nat :=
  if fbit s fldSFL_LANE_STAT_FAST l then min (devVmax s l) (getLane s l).podSays else 1
/-- A bond member asks to join (R310): it is ACTIVE at version 3 and its pod is that of lane g. -/
def bondJoins (s : State) (g k : Nat) : Bool :=
  nbits (fget s fldSFL_BOND_MEMBERS g) k k == 1 && laneState s k == laneActive &&
  fget s fldSFL_LANE_STAT_VER k == 3 && getReg s .SFL_LANE_POD k == getReg s .SFL_LANE_POD g
/-- A LINK BOND bundle on a member. -/
def sendBond (g k : Nat) (s : State) : State :=
  sendPlain k tyLink 2 0 0 0 false [w64 (fget s fldSFL_BOND_MEMBERS g), getReg s .SFL_LANE_POD g] s
/-- The lane becomes ACTIVE once it has sent a CAP with ACKCAP = 1 and received one (R291). -/
def capxDone (l : Nat) (s : State) : State :=
  let x := getLane s l
  if laneState s l = laneCapx && x.gotAck && x.sentCap then
    let s1 := setLane l laneActive s
    if fbit s1 fldSFL_LANE_STAT_BONDED l then
      (if bondJoins s1 (linkOf s1 l) l then sendBond (linkOf s1 l) l s1 else s1)
    else s1
  else s
/-- CAP_SEND: the device's CAP. Its serial is its identity; it supports bonding, compression and time synchronisation. -/
def execCapSend (lane : Fin 8) (s : State) : Host.Outcome State Fault Refusal :=
  let l := lane.val
  if laneState s l != laneCapx then .next s
  else
    let x := getLane s l
    let c0 := (if x.gotCap then agreedVer s l else devVmax s l) + 0x70 + x.gotCap.toNat * 2 ^ 7 + 8 * 2 ^ 8 + l * 2 ^ 16
    .next (capxDone l (modLane l (fun y => { y with sentCap := y.sentCap || x.gotCap })
      (sendPlain l tyLink 1 0 0 0 false [w64 c0, getReg s .SEC_SERIAL 0, w64 (256 * 2 ^ 32), 0] s)))
/-- CAPX_TIMEOUT, after 10 ms in CAPX. -/
def execCapxTimeout (lane : Fin 8) (s : State) : Host.Outcome State Fault Refusal :=
  if laneState s lane.val = laneCapx then .next (setLane lane.val laneFailed s) else .next s
/-- LANE_FAIL: lock lost, high bit error ratio, or 30 µs without an intact bundle. -/
def execLaneFail (lane : Fin 8) (s : State) : Host.Outcome State Fault Refusal :=
  if laneState s lane.val = laneActive then .next (setLane lane.val laneFailed s) else .next s
/-- FAILED_RETRY_TIMEOUT: 10 ms in FAILED with AUTO = 1; a lane that FLT_LANE_RET holds stays FAILED. -/
def execFailedRetryTimeout (lane : Fin 8) (s : State) : Host.Outcome State Fault Refusal :=
  if laneState s lane.val = laneFailed && fbit s fldSFL_LANE_CTL_AUTO lane.val && !laneHeld s lane.val then
    .next (seekLane lane.val s)
  else .next s
/-- A CAP from the pod. Agreed versions that differ make the lane FAILED. -/
def takeCap (l : Nat) (p : List Word) (s : State) : State :=
  if laneState s l != laneCapx || p.length < 4 then s
  else
    let c0 := p.getD 0 0
    let ack := bitOf c0 7
    let said := bitsOf c0 3 0
    let s1 := setReg .SFL_LANE_POD l (p.getD 1 0) (setReg .SFL_LANE_PCAP l (p.getD 2 0) (setReg .SFL_LANE_PLAT l (p.getD 3 0)
      (fset fldSFL_LANE_STAT_PODPORT l (bitsOf c0 23 16) s)))
    let s2 := modLane l (fun x => { x with
      gotCap := true
      gotAck := x.gotAck || ack
      podSays := if ack && x.podSays != 0 then x.podSays else said }) s1
    if ack && said != agreedVer s2 l then setLane l laneFailed s2
    else capxDone l (setVer l (agreedVer s2 l) s2)

/-! ### Bond groups (R310, R311) -/

/-- A BOND answer on a member: the first one starts the group's sequence spaces at 0; the member joins UP. -/
def takeBond (l : Nat) (p : List Word) (s : State) : State :=
  let g := linkOf s l
  if fbit s fldSFL_LANE_STAT_BONDED l && bondJoins s g l && p.getD 0 0 == w64 (fget s fldSFL_BOND_MEMBERS g) &&
      p.getD 1 0 == getReg s .SFL_LANE_POD g then
    let s1 := if fbit s fldSFL_BOND_ACTIVE g then s
      else fset fldSFL_BOND_ACTIVE g 1 ((List.range 8).foldl (fun t k =>
        if nbits (fget s fldSFL_BOND_MEMBERS g) k k = 1 then modLink k (fun x => { LinkWork.idle with
          reqs := x.reqs
          nextReq := x.nextReq }) t else t) s)
    fset fldSFL_BOND_UP g (nput (fget s1 fldSFL_BOND_UP g) l l 1) s1
  else s
/-- A write of SFL_BOND: ignored while a valid entry names link g or a member lane, or when MEMBERS is not a group of R310. -/
def writeBond (who : Agent) (g : Nat) (v : Word) (s : State) : State :=
  let m := bitsOf v 7 0
  let old := fget s fldSFL_BOND_MEMBERS g
  let now := if fbit s fldSFL_BOND_EN g then old else 0
  let named (k : Nat) : Bool := k == g || nbits m k k == 1 || nbits old k k == 1
  let busy := (List.range 8).any (fun k => named k && !(chansOn s k).isEmpty)
  let taken := (List.range 8).any (fun h => h != g && fbit s fldSFL_BOND_EN h &&
    Nat.land m (fget s fldSFL_BOND_MEMBERS h) != 0)
  let bad := bitOf v 8 && (nbits m g g == 0 || m % 2 ^ g != 0 || taken)
  if !isKeeper s who || busy || bad then s
  else
    let s0 := (List.range 8).foldl (fun t k => if nbits now k k = 1 then
      fset fldSFL_LANE_STAT_GROUP k 0 (fset fldSFL_LANE_STAT_BONDED k 0 (modLink k (fun _ => LinkWork.idle) t)) else t)
      (cfgLinkDown g s)
    let s1 := fset fldSFL_BOND_UP g 0 (fset fldSFL_BOND_ACTIVE g 0 (fset fldSFL_BOND_SPARE g (bitsOf v 9 9)
      (fset fldSFL_BOND_EN g (bitsOf v 8 8) (fset fldSFL_BOND_MEMBERS g m s0))))
    if !bitOf v 8 then s1
    else
      let s2 := (List.range 8).foldl (fun t k => if nbits m k k = 1 then
        fset fldSFL_LANE_STAT_GROUP k g (fset fldSFL_LANE_STAT_BONDED k 1 t) else t) s1
      (List.range 8).foldl (fun t k => if bondJoins t g k then sendBond g k t else t) s2
/-- BOND_ENABLE: a write with EN = 1. -/
def execBondEnable (who : Agent) (g : Fin 8) (value : BitVec 32) (s : State) : Host.Outcome State Fault Refusal :=
  .next (writeBond who g.val (putBit (value.zeroExtend 64) 8 true) s)

/-! ### Time synchronisation (R294 to R297) -/

def timedLane (s : State) (l : Nat) : Bool :=
  laneState s l == laneActive && decide (2 ≤ fget s fldSFL_LANE_STAT_VER l) && fbit s fldSFL_LANE_CTL_TSEN l
/-- TSYNC_START: a TS_REQ with t1 opens an exchange. -/
def execTsyncStart (lane : Fin 8) (s : State) : Host.Outcome State Fault Refusal :=
  let l := lane.val
  if !timedLane s l then .next s
  else
    let e := ((getLane s l).exch + 1) % 2 ^ 32
    .next (modLane l (fun x => { x with
      exch := e
      openTs := x.openTs ++ [(e, dtNow s)] }) (sendPlain l tyTsync 1 (dtNow s) 0 (e * 2 ^ 32) false [] s))
/-- An exchange begun at t1 is open for 1 ms. -/
def tsOpen (s : State) (t1 : Word) : Bool := decide ((dtNow s - t1).toNat * 1000 ≤ 2 ^ 32)
/-- TSYNC_TIMEOUT: the exchanges without TS_RSP for 1 ms are discarded. -/
def execTsyncTimeout (lane : Fin 8) (s : State) : Host.Outcome State Fault Refusal :=
  .next (modLane lane.val (fun x => { x with openTs := x.openTs.filter (fun e => tsOpen s e.2) }) s)
/-- Inserts a number in a rising list. -/
def insertInt (x : Int) : List Int → List Int
  | [] => [x]
  | y :: l => if x ≤ y then x :: y :: l else y :: insertInt x l
/-- Twice the median of a list. -/
def median2 (l : List Int) : Int :=
  let v := l.foldl (fun a x => insertInt x a) []
  v.getD ((v.length - 1) / 2) 0 + v.getD (v.length / 2) 0
/-- The remainder of exchange e: `a` = t2 - t1, `b` = t4 - t3, in 2^-32 s. Offsets are held as 2 * 10^12 * θ. -/
def takeStamps (l e : Nat) (a b : Int) (s : State) : State :=
  let d2 := a + b
  let old := (getLane s l).delays
  let s1 := modLane l (fun x => { x with
    openTs := x.openTs.filter (fun p => p.1 != e)
    delays := (d2 :: x.delays).take 8 }) s
  if !old.isEmpty && decide (40 * 2 ^ 32 < (2 * d2 - median2 old).natAbs * 1000000000) then
    modLane l (fun x => { x with good := 0 }) (countUp .SFL_LANE_TERR l 1 s1)
  else
    let n := (a - b) * 1000000000000 - signedOf 16 (fget s fldSFL_LANE_ASYM_ASYM l) * 2 ^ 32
    let theta := (2 * n + 2000000000000) / 4000000000000
    let ts := fget s fldSFL_LANE_STAT_TSTATE l
    let big := decide (4000 * 2 ^ 32 < n.natAbs)
    let tight := decide (n.natAbs ≤ 2000 * 2 ^ 32)
    let step := ts == 1 && decide (2000000 * 2 ^ 32 < n.natAbs)
    let s2 := setReg .SFL_LANE_TOFF l (wordOfInt theta) (setReg .SFL_LANE_TDLY l (wordOfInt ((d2 + 1) / 2)) s1)
    let good := if tight then (getLane s2 l).good + 1 else 0
    let s3 := modLane l (fun x => { x with good := good }) s2
    let s4 := if ts = 1 && 16 ≤ good then setTstate l 2 s3 else if ts = 2 && big then setTstate l 1 s3 else s3
    if timingLane s4 (linkOf s4 l) = l then
      let r := drawWord s4
      sendPlain l tyTsync 3 (wordOfInt (-theta)) (w64 (r.1.toNat % 2 ^ 32)) (step.toNat * 2 ^ 4 + e * 2 ^ 32)
        false [] r.2
    else s4
/-- A TS_RSP: t4 is the present device time. One that answers no open exchange is ignored. -/
def takeTsRsp (l exch : Nat) (t2 t3 : Word) (s : State) : State :=
  match (getLane s l).openTs.find? (fun p => p.1 == exch) with
  | some (_, t1) =>
    if tsOpen s t1 && timedLane s l then takeStamps l exch (t2 - t1).toInt (dtNow s - t3).toInt s else s
  | none => s
/-- TS_RSP_RECEIVE (R295). -/
def execTsRspReceive (lane : Fin 8) (exch : BitVec 32) (t2 t3 : Word) (s : State) : Host.Outcome State Fault Refusal :=
  .next (takeTsRsp lane.val exch.toNat t2 t3 s)

/-! ### Markers (R309) -/

/-- The owner and the entry or output a marker names: an input by the channel table, an output by DRV_OUT_MAP. -/
def markOwner (s : State) (link kind ch : Nat) : Option (Nat × Nat) :=
  let input := ((chansOn s link).find? (fun i => fget s fldSFL_CHT_A_PODCH i == ch)).bind
    (fun i => (chanPart s i).map (fun p => (p, i)))
  let output := ((List.range 64).find? (fun o => fbit s fldDRV_OUT_MAP_EN o && fget s fldDRV_OUT_MAP_LINK o == link &&
    fget s fldDRV_OUT_MAP_PODCH o == ch)).bind (fun o => (outOwner s o).map (fun p => (p, o)))
  if kind = 3 || kind = 4 then output
  else if kind = 5 || kind = 6 then none
  else if 0x80 ≤ kind then input.orElse (fun _ => output) else input
/-- The outputs a marker names. -/
def markOutputs (s : State) (link ch : Nat) : List Nat :=
  (List.range 64).filter (fun o => fget s fldDRV_OUT_MAP_LINK o == link && fget s fldDRV_OUT_MAP_PODCH o == ch)
/-- One marker: recorded for its owner, or for the keeper with event 0x1D; the drive guard's part of it. Kinds the table does
not list have no effect. -/
def takeMarker (link : Nat) (c0 time : Word) (s : State) : State :=
  let kind := bitsOf c0 7 0
  let ch := bitsOf c0 23 8
  if !((1 ≤ kind && kind ≤ 6) || 0x80 ≤ kind) then s
  else
    let s1 := match markOwner s link kind ch with
      | some (p, e) => pushMarker p 1 0 time c0 (w64 e) s
      | none => pushMarker 8 1 0 time c0 0 (raiseKeeper 0x1D s)
    if kind = 3 || kind = 4 then (markOutputs s1 link ch).foldl (fun t o => lateTrigger o t) s1
    else if kind = 5 || kind = 6 then linkTrigger 8 link s1
    else s1
def takeMarkers (link : Nat) : List Word → State → State
  | c0 :: c1 :: rest, s => takeMarkers link rest (takeMarker link c0 c1 s)
  | _, s => s

/-! ### Receiving (R287 to R289) -/

/-- A sequenced bundle reaches its service, with what its arrival fixed. -/
def deliver (link : Nat) (h : Held) (s : State) : State :=
  let b := h.bundle
  if bunType b = tySample then takeSamples link h.lane h.unc b.payload s
  else if bunType b = tyConfig then takeConfig link b.payload s
  else if bunType b = tyMarker then takeMarkers link b.payload s
  else s
/-- Delivers the bundle at E and the held bundles that follow it. -/
def deliverRun (link : Nat) : Nat → Held → State → State
  | 0, _, s => s
  | n + 1, b, s =>
    let e := ((getLink s link).expect + 1) % 65536
    let s1 := deliver link b (modLink link (fun x => { x with
      expect := e
      nak := false }) s)
    match (getLink s1 link).held.find? (fun p => p.seq == e) with
    | none => s1
    | some b' => deliverRun link n b' (modLink link (fun x => { x with held := x.held.filter (fun p => p.seq != e) }) s1)
/-- An intact sequenced bundle (R287). -/
def takeSeq (link lane : Nat) (b : Bundle) (s : State) : State :=
  let x := getLink s link
  let d := (bunSeq b + 65536 - x.expect) % 65536
  let bonded := fbit s fldSFL_LANE_STAT_BONDED lane
  let h : Held := ⟨bunSeq b, lane, !linkLocked s link, b⟩
  if d = 0 then deliverRun link (x.held.length + 1) h s
  else if 32768 ≤ d then s
  else if !bonded then sendNak link s
  else if 64 < d || x.held.any (fun p => p.seq == bunSeq b) then s
  else if 524288 < x.held.foldl (fun a p => a + bundleBytes p.bundle) 0 + bundleBytes b then s
  else modLink link (fun y => { y with held := y.held ++ [h] }) s
/-- A bundle is corrupt (R285). The version is checked once one is agreed; VER of a CAP is not. -/
def corrupt (s : State) (lane : Nat) (blocks : Bool) (b : Bundle) (crc : Nat) : Bool :=
  blocks || b.hdr.length != 4 || crcOf (b.hdr ++ b.payload) != crc || b.payload.length != bunLen b ||
  decide (1024 < bunLen b) || (laneState s lane == laneActive && bunVer b != fget s fldSFL_LANE_STAT_VER lane) ||
  decide (6 ≤ bunType b) || bunType b == tyDrive
/-- BUNDLE_RECEIVE: a bundle arrives on a lane in CAPX or ACTIVE; `blocks`: a block inside it is invalid (R284). -/
def receive (l : Nat) (blocks : Bool) (b : Bundle) (crc : Nat) (s : State) : State :=
  let link := linkOf s l
  if laneState s l != laneCapx && laneState s l != laneActive then s
  else if corrupt s l blocks b crc then
    let s1 := faultEvent 6 (280 + l) 0 l 0 false (countUp .SFL_LANE_CRC l 1 s)
    if laneState s1 l = laneActive && !fbit s1 fldSFL_LANE_STAT_BONDED l then sendNak link s1 else s1
  else if laneState s l = laneCapx then (if bunType b = tyLink && bunKind b = 1 then takeCap l b.payload s else s)
  else
    let w0 := b.hdr.getD 0 0
    let s2 := useAck link (bitOf w0 12) (bitOf w0 13) (bunAck b) s
    if bunType b = tyLink then (if bunKind b = 2 then takeBond l b.payload s2 else s2)
    else if bunType b = tyTsync then
      (if bunKind b = 2 then takeTsRsp l (bitsOf (b.hdr.getD 2 0) 63 32) (b.hdr.getD 3 0) (b.hdr.getD 1 0) s2 else s2)
    else if linkUp s2 link then takeSeq link l b s2 else s2
def execBundleReceive (lane : Fin 8) (blocks : Bool) (hdr payload : List Word) (crc : BitVec 32) (s : State) :
    Host.Outcome State Fault Refusal := .next (receive lane.val blocks ⟨hdr, payload⟩ crc.toNat s)
/-- ACK_SEND (R288): the acknowledgement of E leaves in a HEARTBEAT. -/
def execAckSend (lane : Fin 8) (s : State) : Host.Outcome State Fault Refusal :=
  if laneState s lane.val = laneActive then .next (sendBeat lane.val s) else .next s
/-- HEARTBEAT_SEND (R288): an ACTIVE lane that has sent nothing for 10 µs. -/
def execHeartbeatSend (lane : Fin 8) (s : State) : Host.Outcome State Fault Refusal :=
  if laneState s lane.val = laneActive then .next (sendBeat lane.val s) else .next s
/-- REPLAY_TIMEOUT (R287, R289): RTO has passed: the oldest kept bundle and those after it are resent; a NAK that E has not
answered, or a gap in a bond group, sends a NAK. -/
def execReplayTimeout (link : Fin 8) (s : State) : Host.Outcome State Fault Refusal :=
  let x := getLink s link.val
  let s1 := match x.kept with
    | [] => s
    | (a, _) :: _ => resendFrom link.val a s
  .next (if x.nak || !x.held.isEmpty then sendNak link.val s1 else s1)

/-! ### Partition reset (R318) -/

/-- V becomes 0 in every entry a partition owns. -/
def linkPartReset (p : Nat) (s : State) : State :=
  (validChans s).foldl (fun t i => if chanPart t i == some p then clearChan i t else t) s

end Sys2Proof.Machine
end

