-- ==== Sys2Proof/Machine/Phase.lean ====
section
/-!
DEFINITION. Machine/Phase.lean: the phase engine (10_phase_engine.md): edges and the tracking loop (R237, R240), lock
states (R241 to R243), source registers (R236, R239), history (R244), the alarm calendar (R248 to R257), SYNC_OUT (R259)
and the discipline of device time (R247).
A crossing of a phase or a firing happens at the present device time; an input's edge at its stamp.
-/

namespace Sys2Proof.Machine

/-! ### Reports (R257) -/

/-- Fired, late, fallback, missed, revoked. -/
@[reducible] def aFired : Nat := 0
@[reducible] def aLate : Nat := 1
@[reducible] def aFallback : Nat := 2
@[reducible] def aMissed : Nat := 3
@[reducible] def aRevoked : Nat := 4

/-- A report in the partition's ring; a full or disabled ring or a fault drops it (R257). The keeper, partition 8 here, has no
ring. -/
def reportAlarm (a : Alarm) (status skip t : Nat) (s : State) : State :=
  if !a.report || decide (8 ≤ a.part) then s
  else
    let n := ringLog (fget s fldPHASE_CAL_RPTB_LOG2N a.part) 4 12 4
    let p := fget s fldPHASE_CAL_RPTP_P a.part
    let used := (p + 65536 - fget s fldPHASE_CAL_RPTC_C a.part) % 65536
    let lost := countUp .PHASE_CAL_RLOST a.part 1 s
    if !fbit s fldPHASE_CAL_RPTB_EN a.part || 2 ^ n ≤ used then lost
    else
      let cells := [
        cellRaw (w64 (a.ident + status % 8 * 2 ^ 16 + skip % 65536 * 2 ^ 32 + p * 2 ^ 48)),
        ⟨tagPhase a.src, a.due⟩, ⟨tagPhase15, w64 (t / 2 ^ 32)⟩, phaseCellAt s a.src t]
      match engWrites a.part (fget s fldPHASE_CAL_RPTB_BASE a.part * 512 + 32 * (p % 2 ^ n)) cells s with
      | .error _ => lost
      | .ok s1 =>
        let s2 := fset fldPHASE_CAL_RPTP_P a.part ((p + 1) % 65536) s1
        if used = 0 then raisePart a.part 5 s2 else s2

/-! ### SYNC_OUT (R259) -/

/-- WIDTH of a pulse, and its level: active low with POL = 1. -/
def syncWidth (s : State) : Nat := max 1 (fget s fldPHASE_SYNCOUT_CTL_WIDTH 0)
def syncHigh (s : State) : Bool := !fbit s fldPHASE_SYNCOUT_CTL_POL 0

/-- A pulse due at a device time; pulses closer than WIDTH + 2 PHASE cycles merge. DELAY advances the edge. -/
def syncPulse (t : Nat) (s : State) : State :=
  let busy := t + (syncWidth s + 2) * phaseCycle
  if t < s.syncBusy then { s with syncBusy := busy }
  else emit (.syncOut (t - fget s fldPHASE_SYNCOUT_CTL_DELAY 0 * vernier) (syncWidth s) (syncHigh s)) { s with syncBusy := busy }

/-! ### Actions (R248, R250) -/

/-- What a firing does; `t` is the instant handed to the action. The keeper has no tasks to wake. -/
def alarmAction (a : Alarm) (t : Nat) (s : State) : State :=
  match a.action with
  | 0 => if a.part < 8 then wakeTask a.part (bitsOf a.arg 14 5) (bitsOf a.arg 63 32) 0 a.desc s else s
  | 1 => if a.part < 8 then wakeGroup a.part (bitsOf a.arg 6 4) (bitsOf a.arg 3 0) s else s
  | 2 =>
    let q := bitsOf a.arg 7 0
    if 0x30 ≤ q && q ≤ 0x3F then specTrigger a.part (q - 0x30) (bitsOf a.arg 15 8) t (some (a.src, a.due)) s else s
  | 3 => if fget s fldPHASE_SYNCOUT_CTL_MODE 0 = 1 then syncPulse t s else s
  | 4 => pushMarker a.part 0 a.ident (w64 (t / 2 ^ 32)) (w64 (bitsOf a.arg 31 0)) a.due s
  | _ => s

def dropAlarm (seq : Nat) (s : State) : State := { s with alarms := s.alarms.filter (fun a => a.seq != seq) }
def putAlarm (a : Alarm) (s : State) : State :=
  { s with alarms := s.alarms.map (fun x => if x.seq == a.seq then a else x) }

/-! ### Passed, held and converted alarms (R252 to R254) -/

/-- An alarm whose DUE is already reached in its direction (R252): by the signed difference DUE − estimate. -/
def diffPassed (dir : Nat) (d : Int) : Bool :=
  if dir = 0 then decide (d ≤ 0) else if dir = 1 then decide (0 ≤ d) else d == 0

/-- DUE will be reached in less than 40 PHASE cycles at the present rate. -/
def dueSoon (dir : Nat) (d rate : Int) : Bool :=
  let ahead := decide (d.natAbs * 1000000000 < 80 * rate.natAbs)
  if dir = 0 then ahead && decide (0 < rate) && decide (0 < d)
  else if dir = 1 then ahead && decide (rate < 0) && decide (d < 0)
  else ahead && (decide (0 < rate && 0 < d) || decide (rate < 0 && d < 0))

/-- FB_LIM of a source in 2^-64 s. -/
def fbLimit (s : State) (i : Nat) : Nat := max 1 (fget s fldPHASE_SRC_LIM_FB_LIM i) * 2 ^ 64 / 1000

/-- The device time a converted alarm is due (R254), and whether the estimate held reaches DUE beyond the limit. Loss time is the
post time where the source has not locked since EN: a repetition keeps the limit of the first conversion. -/
def convertTime (s : State) (a : Alarm) : Nat × Bool :=
  match (getSrc s a.src).held with
  | none => (a.conv.getD (s.dtime + fbLimit s a.src), false)
  | some (est, rate, t) =>
    let lim := t + fbLimit s a.src
    let d := (a.due - phaseWord est).toInt
    if d = 0 then (t, false)
    else if rate = 0 || (decide (0 < d) != decide (0 < rate)) then (lim, false)
    else
      let at_ := t + (d * 2 ^ 64 / rate).toNat
      if lim < at_ then (lim, true) else (at_, false)

/-- An alarm whose source is not LOCKED is held with the estimate of that moment (where there is none, the one held when the source
last left LOCKED), or converted with FALLBACK = 1; a converted one takes its place among the
alarms as if posted now. -/
def parkAlarm (a : Alarm) (s : State) : State :=
  if a.conv.isSome then s
  else
    let h : Option Int := match estimate s a.src with
      | some v => some v.1
      | none => (getSrc s a.src).held.map (fun x => x.1)
    if a.fallback then
      { s with
        seq := s.seq + 1
        alarms := s.alarms.filter (fun x => x.seq != a.seq) ++ [{ a with
          conv := some (convertTime s a).1
          resolved := none
          seq := s.seq }] }
    else putAlarm { a with
        held := some (h.getD 0)
        resolved := none } s

/-- How many repetitions beyond the present one are passed as well (R255): those before the first DUE + k × PERIOD that is not
passed. For REV that is the first whose difference wraps; for EITHER on release, the first beyond the estimate, or beyond the
one at hold where the source has turned. -/
def skipCount (a : Alarm) (d : Int) : Nat :=
  match a.period with
  | some p =>
    let n := max 1 p.toNat
    let back : Int := match a.held with
      | some h => (phaseWord h - a.due).toInt
      | none => 0
    if a.dir = 2 && 0 < back then (back.toNat - 1) / n
    else if a.dir != 1 && decide (d ≤ 0) then (-d).toNat / n
    else if a.dir = 1 && decide (0 ≤ d) then (2 ^ 63 - d.toNat + n - 1) / n - 1
    else 0
  | none => 0

/-- The repetition after a firing of a converted alarm (R254): converted again from the same held estimate; one that would lie
beyond the limit is held, or judged as at arming where the source is LOCKED again. -/
def repeatConverted (b : Alarm) (s : State) : State :=
  let c := convertTime s b
  if !c.2 then putAlarm { b with conv := some c.1 } s
  else if srcState s b.src = srcLocked then
    putAlarm { b with
      conv := none
      held := none
      before := (dueDiff s b.src b.due).getD 0 } s
  else
    putAlarm { b with
      conv := none
      held := some ((getSrc s b.src).held.map (fun x => x.1) |>.getD 0) } s

/-- A firing (R250, R252, R254, R255): the action, the report, then the next repetition or removal. A REV alarm that fires in
time skips none: its next DUE lies behind it and is judged on its own. -/
def fireAlarm (a : Alarm) (status t : Nat) (s : State) : State :=
  let d := (dueDiff s a.src a.due).getD 0
  let skip := if a.conv.isSome || (status == aFired && a.dir == 1) then 0 else skipCount a d
  let s1 := reportAlarm a status skip t (alarmAction a t s)
  match a.period with
  | none => dropAlarm a.seq s1
  | some p =>
    if a.times = 1 then dropAlarm a.seq s1
    else
      let b := { a with
        times := a.times - 1
        due := a.due + p * w64 (skip + 1)
        held := none
        resolved := none }
      if a.conv.isSome then repeatConverted b s1
      else putAlarm { b with before := (dueDiff s1 a.src b.due).getD 0 } s1

/-- A passed alarm: fires at once with LATE, or is removed as MISSED (R252). -/
def passAlarm (a : Alarm) (s : State) : State :=
  if !a.dropLate then fireAlarm a aLate s.dtime s
  else
    let s1 := reportAlarm a aMissed (skipCount a ((dueDiff s a.src a.due).getD 0)) s.dtime s
    dropAlarm a.seq s1

/-- A held alarm is released when its source enters LOCKED (R253). -/
def releaseAlarm (a : Alarm) (s : State) : State :=
  if a.conv.isSome then s
  else
    match dueDiff s a.src a.due with
    | none => s
    | some d =>
      let crossed := match a.held with
        | some h => decide ((a.due - phaseWord h).toInt < 0) != decide (d < 0) || d == 0
        | none => false
      let passed := if a.dir = 2 then crossed else diffPassed a.dir d
      let b := { a with
        held := none
        before := d }
      let s1 := putAlarm b s
      if passed then passAlarm { b with held := a.held } s1 else s1

/-- The alarms on a source follow its leaving or entering LOCKED. -/
def alarmsFollow (i old new : Nat) (s : State) : State :=
  let on := s.alarms.filter (fun a => a.src == i)
  if old = srcLocked && new != srcLocked then on.foldl (fun t a => parkAlarm a t) s
  else if old != srcLocked && new = srcLocked then on.foldl (fun t a => releaseAlarm a t) s
  else s

/-! ### Drive frames on a source (R323) -/

def frSrc (f : Frame) : Option Nat := if isPhase (frCell f 1).tag then some (phaseOf (frCell f 1).tag) else none

/-- The pending frames on a source are held, or released with the source: a passed frame follows its LATE bit. -/
def framesFollow (i old new : Nat) (s : State) : State :=
  let on := s.drives.flatMap (fun q => (q.2.frames.filter (fun f => frSrc f == some i)).map (fun f => (q.1, f)))
  let put (o : Nat) (f : Frame) (t : State) : State :=
    modDrive o (fun x => { x with frames := x.frames.map (fun g => if g.seq == f.seq then f else g) }) t
  if old = srcLocked && new != srcLocked then
    on.foldl (fun t q => put q.1 { q.2 with
      held := some ((estimate t i).map (fun v => v.1) |>.getD 0)
      resolved := none } t) s
  else if old != srcLocked && new = srcLocked then
    on.foldl (fun t q =>
      match dueDiff t i (frCell q.2 1).data with
      | none => t
      | some d =>
        if diffPassed 0 d then
          (if bitOf (frCell q.2 0).data 10 then missFrame q.1 q.2 t else applyFrame q.1 q.2 t.dtime t)
        else put q.1 { q.2 with
          held := none
          before := d } t) s
  else s

/-! ### Changes of state (R241 to R243, R236) -/

/-- The enabled DERIVED sources whose parent is a source. -/
def childrenOf (s : State) (i : Nat) : List Nat :=
  (List.range 15).filter (fun j => srcOn s j && srcType s j == typDerived && srcInput s j == i)

/-- PHASE_STATE for the owner and every reader of a source, or keeper event 0x1B (R243). -/
def phaseEvent (i : Nat) (s : State) : State :=
  match srcOwner s i with
  | none => (List.range 8).foldl (fun t p => if nbits (fget s fldPHASE_SRC_OWN_READ i) p p = 1 then raisePart p 4 t else t)
      (raiseKeeper 0x1B s)
  | some o => (List.range 8).foldl (fun t p =>
      if p = o || nbits (fget s fldPHASE_SRC_OWN_READ i) p p = 1 then raisePart p 4 t else t) s

/-- Entry into LOCKED from ACQUIRING (R242): after LOST, whole revolutions are chosen so that the estimate lies at least
1 and less than 2 rev beyond the one held, in the direction of the rate held. -/
def lockShift (x : PhaseSrc) (est : Int) : Int :=
  match x.afterLost, x.held with
  | true, some (h, rate, _) => if 0 ≤ rate then -((est - h - 2 ^ 96) / 2 ^ 96) else (h - 2 ^ 96 - est) / 2 ^ 96
  | _, _ => 0

/-- A DERIVED source has taken a new state: one that locks after a loss chooses its own whole revolutions (R242). -/
def derivedShift (i old new : Nat) (s : State) : State :=
  if srcType s i != typDerived then s
  else if old = srcLost && new = srcAcquiring then modSrc i (fun x => { x with afterLost := true }) s
  else if old = srcAcquiring && new = srcLocked then
    modSrc i (fun x => { x with
      theta := x.theta + lockShift x ((estimate s i).map (fun v => v.1) |>.getD 0) * 2 ^ 96
      afterLost := false }) s
  else s

/-- One source shows a new state: what held when it left LOCKED is kept, alarms and frames follow, the guard is told. -/
def showState (i new : Nat) (genUp : Bool) (s : State) : State :=
  let old := srcState s i
  let held := (estimate s i).map (fun v => (v.1, v.2.1, s.dtime))
  let s1 := if genUp then fset fldPHASE_SRC_STAT_GEN i ((srcGen s i + 1) % 256) s else s
  if old = new then s1
  else
    let s2 := if old = srcLocked then modSrc i (fun x => { x with held := held }) s1 else s1
    let s3 := derivedShift i old new (fset fldPHASE_SRC_STAT_STATE i new s2)
    phaseTrigger i old new (framesFollow i old new (alarmsFollow i old new (phaseEvent i s3)))

/-- A source and the sources derived from it change state. GEN counts each entry into ACQUIRING from LOST; a DERIVED
source's GEN each entry of its parent. -/
def setSrcState (i new : Nat) (s : State) : State :=
  let gen := new == srcAcquiring && srcState s i == srcLost
  (childrenOf s i).foldl (fun t j => showState j new (new == srcAcquiring && srcState s i != srcAcquiring) t)
    (showState i new gen s)

/-! ### The tracking loop (R240, R242) -/

/-- |residual| × 4 × EPR in 2^-96 quarter edges. -/
def resQuarter (s : State) (i : Nat) (res : Int) : Nat := res.natAbs * 4 * eprOf s i

/-- The edge's exact phase from the count. -/
def countPhase (s : State) (i : Nat) (count : Int) : Int := count * 2 ^ 96 / (eprOf s i : Int)

/-- ωn = 2π × BW in 2^-32 rad/s. -/
def loopFreq (bw : Nat) : Nat := bw * 26986075409

/-- The corrections of the loop of R240 to phase, rate and acceleration at an edge: the continuous loop's, from the
coefficients of its polynomial, the residual (2^-96 rev) and the time since the last accepted edge (2^-64 s). -/
def loopNominal (ord bw dt : Nat) (res : Int) : Int × Int × Int :=
  let w : Int := loopFreq bw
  let e : Int := res * (dt : Int)
  if ord = 1 then (2 * w * e / 2 ^ 96, 2 * w ^ 2 * e / 2 ^ 192, w ^ 3 * e / 2 ^ 224)
  else (1414 * w * e / (1000 * 2 ^ 96), w ^ 2 * e / 2 ^ 192, 0)

/-- A deviation of at most 1 % of a bound. -/
def withinPercent (dev : Int) (bound : Nat) : Int := min (bound / 100 : Nat) (max (-((bound / 100 : Nat) : Int)) dev)

/-- The corrections at an edge: the nominal ones and a free deviation, which stays below 1 % of the residual, and of the rate and
acceleration that correct a residual in 1/ωn, where the edges come at 16 × BW or faster (R240). -/
def loopStep (s : State) (i : Nat) (rate : Int) (dt : Nat) (res : Int) : Int × Int × Int :=
  let ord := fget s fldPHASE_SRC_CFG_ORDER i
  let bw := bwOf s i
  let w := loopFreq bw
  let n := loopNominal ord bw dt res
  let d := Config.loopStep ord bw dt res
  if decide (16 * bw * 2 ^ 32 ≤ rate.natAbs * eprOf s i) then
    (n.1 + withinPercent d.1 res.natAbs, n.2.1 + withinPercent d.2.1 (w * res.natAbs / 2 ^ 96),
      n.2.2 + withinPercent d.2.2 (w ^ 2 * res.natAbs / 2 ^ 128))
  else (n.1 + d.1, n.2.1 + d.2.1, n.2.2 + d.2.2)

/-- The loop's update at an accepted edge, from the residual; a residual of 0 corrects nothing. -/
def loopUpdate (s : State) (i : Nat) (count res : Int) (x : PhaseSrc) : PhaseSrc :=
  let v := trackAt x s.dtime
  let ord := fget s fldPHASE_SRC_CFG_ORDER i
  let c := if res = 0 then (0, 0, 0) else loopStep s i v.2.1 (s.dtime - x.lastEdge) res
  { x with
    count := count
    theta := v.1 + c.1
    omega := v.2.1 + c.2.1
    alpha := if ord = 1 then v.2.2 + c.2.2 else 0
    t0 := s.dtime
    lastEdge := s.dtime }

/-- A tracked source enters LOCKED. -/
def enterLocked (i : Nat) (s : State) : State :=
  let s1 := modSrc i (fun x =>
    let k := lockShift x (x.theta + ((getReg s .PHASE_SRC_OFFS i).toNat : Int) * 2 ^ 64)
    { x with
      theta := x.theta + k * 2 ^ 96
      count := x.count + k * (eprOf s i : Int)
      zmark := x.zmark.map (fun z => z + k * (eprOf s i : Int))
      afterLost := false
      rejRun := 0 }) s
  setSrcState i srcLocked s1

/-- A rejected edge: REJ counts it, REJN in a row lose the source (R240, R241). -/
def rejectEdge (i : Nat) (s : State) : State :=
  let s1 := countUp .PHASE_SRC_REJ i 1 (modSrc i (fun x => { x with
    rejRun := x.rejRun + 1
    lastRej := s.dtime
    acq := 0 }) s)
  if hasEst s1 i && decide (max 1 (fget s1 fldPHASE_SRC_LIM_REJN i) ≤ (getSrc s1 i).rejRun) then setSrcState i srcLost s1
  else s1

/-- An edge in ACQUIRING. The first edge after the zero gives the rate; from then on a residual of at most a quarter edge
counts toward ACQN, and any other starts the count again; a rejected one leaves the estimate as it was (R240). -/
def acquireEdge (i : Nat) (count : Int) (s : State) : State :=
  let x := getSrc s i
  let ph := countPhase s i count
  let dt := max 1 (s.dtime - x.t0)
  let seed (y : PhaseSrc) (good : Nat) : PhaseSrc :=
    { y with
      count := count
      theta := ph
      omega := (ph - x.theta) / (dt : Int)
      alpha := 0
      t0 := s.dtime
      lastEdge := s.dtime
      seen := 2
      acq := good }
  let res := ph - (trackAt x s.dtime).1
  let s1 :=
    if x.seen = 0 then modSrc i (fun y => { seed y 0 with
      omega := 0
      seen := 1 }) s
    else if x.seen = 1 then modSrc i (fun y => seed y 1) s
    else if resQuarter s i res ≤ 2 ^ 96 then
      modSrc i (fun y => { loopUpdate s i count res y with acq := x.acq + 1 }) s
    else if max 1 (fget s fldPHASE_SRC_LIM_LOSE_TH i) * 2 ^ 96 < resQuarter s i res then rejectEdge i s
    else modSrc i (fun y => seed y 0) s
  if max 1 (fget s fldPHASE_SRC_LOOP_ACQN i) ≤ (getSrc s1 i).acq then enterLocked i s1 else s1

/-- An edge of source i that moves its count by `step` (R240, R241). -/
def srcEdge (i : Nat) (step : Int) (s : State) : State :=
  let x := getSrc s i
  let reqZ := srcType s i == typEnc && fbit s fldPHASE_SRC_CFG_REQ_Z i
  match srcState s i with
  | 0 =>
    if x.zeroed then acquireEdge i (x.count + step) s
    else if reqZ then s
    else modSrc i (fun y => { y with
        zeroed := true
        count := 0
        theta := 0
        t0 := s.dtime
        lastEdge := s.dtime
        seen := 1
        acq := 0 }) s
  | 3 =>
    let s1 := modSrc i (fun y => { y with count := y.count + step }) s
    if fbit s fldPHASE_SRC_CFG_AUTO i then
      setSrcState i srcAcquiring (modSrc i (fun y => { y with
        acq := 0
        seen := 0
        rejRun := 0
        afterLost := true
        zeroed := y.zeroed && !reqZ }) s1)
    else s1
  | st =>
    let res := countPhase s i (x.count + step) - (trackAt x s.dtime).1
    if max 1 (fget s fldPHASE_SRC_LIM_LOSE_TH i) * 2 ^ 96 < resQuarter s i res then rejectEdge i s
    else
      let s1 := modSrc i (fun y => { loopUpdate s i (x.count + step) res y with rejRun := 0 }) s
      if st = srcCoasting then setSrcState i srcLocked s1 else s1

/-- A Z edge of an encoder source (R235, R237). -/
def srcIndex (i : Nat) (s : State) : State :=
  let x := getSrc s i
  if !x.zeroed then
    if fbit s fldPHASE_SRC_CFG_REQ_Z i && srcState s i == srcAcquiring then
      modSrc i (fun y => { y with
        zeroed := true
        count := 0
        zmark := some 0
        theta := 0
        omega := 0
        alpha := 0
        t0 := s.dtime
        lastEdge := s.dtime
        seen := 1
        acq := 0 }) s
    else s
  else
    let s1 := modSrc i (fun y => { y with zmark := some y.count }) s
    match x.zmark with
    | none => s1
    | some z =>
      let e : Int := eprOf s i
      let r := (x.count - z) % e
      if srcState s i = srcLocked && 1 < r && r < e - 1 then
        rejectEdge i (countSat fldPHASE_SRC_STAT_ZERR i 1 s1)
      else s1

/-- The enabled sources of a type that take an input. -/
def sourcesOn (s : State) (typ input : Nat) : List Nat :=
  (List.range 15).filter (fun i => srcOn s i && srcType s i == typ && (typ == typSync || srcInput s i == input))

/-! ### Inputs (R237) -/

/-- The place of levels A and B in the forward quadrature order 00, 10, 11, 01. -/
def quadPlace (a b : Bool) : Nat := if a then (if b then 2 else 1) else (if b then 3 else 0)

/-- What a quadrature step from place p to place q counts at a QMODE: ×4 every step, ×2 the edges of A, ×1 the rising
edges of A forward and the falling ones backward; none: an illegal transition. -/
def quadCount (qmode p q : Nat) : Option Int :=
  let d := (q + 4 - p) % 4
  if d = 0 then some 0
  else if d = 2 then none
  else
    let step : Int := if d = 1 then 1 else -1
    let aEdge := (p == 1 || p == 2) != (q == 1 || q == 2)
    let aLow := (d == 1 && p == 0) || (d == 3 && q == 0)
    some (if 2 ≤ qmode then step else if qmode = 1 then (if aEdge then step else 0) else (if aLow then step else 0))

/-- One encoder source takes a change of its input's levels. -/
def encoderStep (e i p q : Nat) (z : Bool) (s : State) : State :=
  let s1 := match quadCount (fget s fldPHASE_SRC_CPR_QMODE i) p q with
    | none => rejectEdge i s
    | some 0 => s
    | some d => srcEdge i (if fbit s fldPHASE_SRC_CFG_REVERSE i then -d else d) s
  if z && nbits (sparseGet (fun _ => 0) s.encoders e) 2 2 = 0 then srcIndex i s1 else s1

/-- An input acts at its stamp: `eighth` eighths of a PHASE cycle, of 250 ps each, into the present one (R237). -/
def atStamp (eighth : Nat) (f : State → State) (s : State) : State :=
  { f { s with dtime := s.dtime + eighth * vernier } with dtime := s.dtime }

/-- An encoder input takes new levels, after its filter, INV and SWAP. -/
def encoderLevels (e : Nat) (a b z : Bool) (s : State) : State :=
  let old := sparseGet (fun _ => 0) s.encoders e
  let p := quadPlace (old % 2 == 1) (old / 2 % 2 == 1)
  let q := quadPlace a b
  let s1 := (sourcesOn s typEnc e).foldl (fun t i => encoderStep e i p q z t) s
  { s1 with encoders := sparsePut (fun _ => 0) e (a.toNat + 2 * b.toNat + 4 * z.toNat) s1.encoders }

/-- The level a pin shows past its filter: one that has held for less than FILT cycles is a pulse that is ignored. -/
def pinPast (filt : Nat) (invert old : Bool) (x : PinLevel) : Bool := if x.held < filt then old else x.high != invert

/-- ENCODER_EDGE (R237, R240): the levels of A, B and Z at encoder input e. The edge has the stamp of the signal that changes. -/
def execEncoderEdge (e : Fin 8) (a b z : PinLevel) (s : State) : Host.Outcome State Fault Refusal :=
  let inv := fget s fldPHASE_ENC_CTL_INV e.val
  let filt := fget s fldPHASE_ENC_CTL_FILT e.val
  let swap := fbit s fldPHASE_ENC_CTL_SWAP e.val
  let old := sparseGet (fun _ => 0) s.encoders e.val
  let oldA := old % 2 == 1
  let oldB := old / 2 % 2 == 1
  let a1 := pinPast filt (inv % 2 == 1) (if swap then oldB else oldA) a
  let b1 := pinPast filt (inv / 2 % 2 == 1) (if swap then oldA else oldB) b
  let z1 := pinPast filt (inv / 4 % 2 == 1) (old / 4 % 2 == 1) z
  let stamp := if a1 != (if swap then oldB else oldA) then a.eighth
    else if b1 != (if swap then oldA else oldB) then b.eighth else z.eighth
  .next (atStamp stamp.val (encoderLevels e.val (if swap then b1 else a1) (if swap then a1 else b1) z1) s)

/-- A MAINS input takes an accepted crossing. -/
def mainsEdge (m : Nat) (s : State) : State :=
  (sourcesOn s typMains m).foldl (fun t i => srcEdge i 1 t)
    { s with mainsAt := sparsePut (fun _ => 0) m (s.dtime + 1) s.mainsAt }

/-- MAINS_CROSSING (R237): a crossing after the hold-off; falling crossings are edges with BOTH = 1. -/
def execMainsCrossing (m : Fin 2) (rising : PinLevel) (s : State) : Host.Outcome State Fault Refusal :=
  let hold := fget s fldPHASE_MAINS_CTL_HOLD m.val * 2 ^ 64 / 10000
  let last := sparseGet (fun _ => 0) s.mainsAt m.val
  if (!rising.high && !fbit s fldPHASE_MAINS_CTL_BOTH m.val) ||
      (last != 0 && decide (s.dtime + rising.eighth.val * vernier < last - 1 + hold)) then .next s
  else .next (atStamp rising.eighth.val (mainsEdge m.val) s)

/-- OFFSET of an active edge from a whole second, in 16 ns, saturating (PHASE_DT_STAT). -/
def ppsOffset (t : Nat) : Nat :=
  let f : Int := (t % 2 ^ 64 : Nat)
  let d := if f < 2 ^ 63 then f else f - 2 ^ 64
  let u := d * 62500000 / 2 ^ 64
  ((min 32767 (max (-32768) u)) % 65536).toNat

/-- An active SYNC_IN edge feeds SYNC sources and, in PPS discipline, OFFSET (R240, R247). -/
def syncEdge (s : State) : State :=
  let s1 := (sourcesOn s typSync 0).foldl (fun t i => srcEdge i 1 t) s
  let s2 := if fget s fldPHASE_DT_CTL_DISC 0 = 2 then fset fldPHASE_DT_STAT_OFFSET 0 (ppsOffset s.dtime) s1 else s1
  { s2 with
    syncAt := some s.dtime
    syncGap := s.syncAt.map (fun t => s.dtime - t) }

/-- SYNC_IN_EDGE (R237, R240, R247): SYNC_IN takes a level; the active edge acts unless the filter ignores the pulse. -/
def execSyncInEdge (rising : PinLevel) (s : State) : Host.Outcome State Fault Refusal :=
  if rising.high = fbit s fldPHASE_SYNCIN_CTL_POL 0 || rising.held < fget s fldPHASE_SYNCIN_CTL_FILT 0 then .next s
  else .next (atStamp rising.eighth.val syncEdge s)

/-! ### Timeouts (R241) -/

/-- Whether a source has edges. -/
def edgeSource (s : State) (i : Nat) : Bool := srcOn s i && decide (srcType s i ≤ typSync)

/-- EDGE_TIMEOUT (R241): GAPK expected intervals have passed without an accepted edge. -/
def execEdgeTimeout (src : Fin 15) (s : State) : Host.Outcome State Fault Refusal :=
  if !edgeSource s src.val || srcState s src.val != srcLocked then .next s
  else if fget s fldPHASE_SRC_LIM_COAST_MAX src.val = 0 then .next (setSrcState src.val srcLost s)
  else
    .next (setSrcState src.val srcCoasting (modSrc src.val (fun x =>
      let v := trackAt x s.dtime
      { x with
        theta := v.1
        omega := v.2.1
        alpha := 0
        t0 := s.dtime }) s))

/-- COAST_EXPIRY (R241). -/
def execCoastExpiry (src : Fin 15) (s : State) : Host.Outcome State Fault Refusal :=
  if edgeSource s src.val && srcState s src.val == srcCoasting then .next (setSrcState src.val srcLost s) else .next s

/-! ### Source registers (R235, R236, R239) -/

/-- A source's page is written by the keeper and by its owner (R238). -/
def srcWritable (s : State) (who : Agent) (i : Nat) : Bool :=
  isKeeper s who || (match srcOwner s i with
    | some p => agentPart s who == some p
    | none => false)

/-- A write of EN = 1 that is ignored (R235, R236). -/
def enableRefused (s : State) (i : Nat) : Bool :=
  let t := srcType s i
  let p := srcInput s i
  6 ≤ t || (t == typDerived && (p == i || decide (14 < p) || srcType s p == typDerived || !(childrenOf s i).isEmpty))

/-- The children of a source whose EN changes: GEN increments, and they follow its new state, and its revolution count from the
new zero (R236). -/
def childrenFollow (i : Nat) (s : State) : State :=
  (childrenOf s i).foldl (fun t j => modSrc j (fun x => { x with
    theta := 0
    afterLost := false }) (showState j (srcState t i) true t)) s

/-- EN is written 1: acquisition starts, or the source is LOCKED at once (NCO, a running DRIVE). -/
def enableSource (i : Nat) (s : State) : State :=
  let s1 := fset fldPHASE_SRC_CFG_EN i 1 (modSrc i (fun _ => { PhaseSrc.idle with
    omega := if srcType s i = typNco then (getReg s .PHASE_SRC_RATIO i).toInt else 0
    t0 := s.dtime
    lastRej := s.dtime
    lastEdge := s.dtime }) s)
  let s2 := childrenFollow i (fset fldPHASE_SRC_STAT_STATE i srcAcquiring s1)
  match srcType s i with
  | 3 => if sineRuns s (srcInput s i) then setSrcState i srcLocked s2 else s2
  | 4 =>
    let p := srcInput s i
    if srcOn s2 p then showState i (srcState s2 p) false s2 else s2
  | 5 => setSrcState i srcLocked s2
  | _ => s2

/-- EN is written 0: ACQUIRING, no estimate, an empty history; its alarms are held or converted. -/
def disableSource (i : Nat) (s : State) : State :=
  let s1 := showState i srcAcquiring (srcState s i == srcLost) s
  let s2 := modSrc i (fun x => { x with
    hist := []
    zeroed := false
    acq := 0
    seen := 0 }) s1
  fset fldPHASE_SRC_CFG_EN i 0 (childrenFollow i s2)

/-- RESTART (R235, R241): LOST becomes ACQUIRING. -/
def restartSource (i : Nat) (s : State) : State :=
  if !srcOn s i || srcType s i = typDerived || srcState s i != srcLost then s
  else
    let s1 := setSrcState i srcAcquiring (modSrc i (fun x => { x with
      acq := 0
      seen := 0
      rejRun := 0
      afterLost := srcType s i != typDrive
      zeroed := x.zeroed && !(srcType s i == typEnc && fbit s fldPHASE_SRC_CFG_REQ_Z i) }) s)
    if srcType s i = typDrive && sineRuns s (srcInput s i) then setSrcState i srcLocked s1 else s1

/-- A write of PHASE_SRC_CFG (R239): with EN = 1 it changes only EN and RESTART. -/
def writeSrcCfg (who : Agent) (i : Nat) (v : Word) (s : State) : State :=
  if !srcWritable s who i then s
  else if srcOn s i then
    if !bitOf v 0 then disableSource i s else if bitOf v 20 then restartSource i s else s
  else
    let s1 := setReg .PHASE_SRC_CFG i (putBits (putBits (putBits v 63 20 0) 15 14 0) 0 0 0) s
    if bitOf v 0 && !enableRefused s1 i then enableSource i s1 else s1

/-- PHASE_SRC_ENABLE, PHASE_SRC_DISABLE and PHASE_SRC_RESTART: writes of PHASE_SRC_CFG with EN = 1, EN = 0, and RESTART
with EN as it is. -/
def execPhaseSrcEnable (who : Agent) (src : Fin 15) (value : BitVec 32) (s : State) :
    Host.Outcome State Fault Refusal :=
  .next (writeSrcCfg who src.val (putBit (value.zeroExtend 64) 0 true) s)
def execPhaseSrcDisable (who : Agent) (src : Fin 15) (value : BitVec 32) (s : State) :
    Host.Outcome State Fault Refusal :=
  .next (writeSrcCfg who src.val (putBit (value.zeroExtend 64) 0 false) s)
def execPhaseSrcRestart (who : Agent) (src : Fin 15) (value : BitVec 32) (s : State) :
    Host.Outcome State Fault Refusal :=
  .next (writeSrcCfg who src.val (putBit (putBit (value.zeroExtend 64) 0 (srcOn s src.val)) 20 true) s)

/-- A write of PHASE_SRC_RATIO (R239): frozen while EN = 1, but for the rate of an NCO source, whose phase goes on without
a step. -/
def writeRatio (who : Agent) (i : Nat) (v : Word) (s : State) : State :=
  if !srcWritable s who i then s
  else if !srcOn s i then setReg .PHASE_SRC_RATIO i v s
  else if srcType s i = typNco then
    setReg .PHASE_SRC_RATIO i v (modSrc i (fun x =>
      { x with
        theta := (trackAt x s.dtime).1
        omega := v.toInt
        t0 := s.dtime }) s)
  else s

/-- NCO_RATE_WRITE (R239). -/
def execNcoRateWrite (who : Agent) (src : Fin 15) (rate : Word) (s : State) : Host.Outcome State Fault Refusal :=
  .next (writeRatio who src.val rate s)

/-- Alarms are removed with status REVOKED (R256). -/
def revokeAlarms (pick : Alarm → Bool) (s : State) : State :=
  (s.alarms.filter pick).foldl (fun t a => dropAlarm a.seq (reportAlarm a aRevoked 0 t.dtime t)) s

/-- A write of PHASE_SRC_OWN (R238, R256): the alarms of partitions that lose the source are removed. -/
def writeSrcOwn (who : Agent) (i : Nat) (v : Word) (s : State) : State :=
  if !isKeeper s who then s
  else
    let old := srcOwner s i
    let s1 := setReg .PHASE_SRC_OWN i (putBits (putBits (putBits v 63 32 0) 31 16 0) 7 4 0) s
    revokeAlarms (fun a => a.src == i && ((decide (a.part < 8) && !srcReads s1 a.part i) ||
      (old.getD 8 == a.part && srcOwner s1 i != old) )) s1

def execPhaseSrcOwnWrite (who : Agent) (src : Fin 15) (value : BitVec 32) (s : State) :
    Host.Outcome State Fault Refusal :=
  .next (writeSrcOwn who src.val (value.zeroExtend 64) s)

/-- HISTORY_RECORD (R244): one entry of an enabled source, or of PS15, once a history period has begun; the rate is held against WMAX (R369). -/
def execHistoryRecord (src : Fin 16) (s : State) : Host.Outcome State Fault Refusal :=
  .next (if (src.val = 15 || srcOn s src.val) && historyDue s src.val then countDyn src.val (recordHistory src.val s) else s)

/-! ### A DRIVE source follows its output (R235) -/

/-- The synthesiser of an output begins or stops running in SINE. -/
def driveRuns (o : Nat) (runs : Bool) (s : State) : State :=
  ((List.range 15).filter (fun i => srcOn s i && srcType s i == typDrive && srcInput s i == o)).foldl (fun t i =>
    let st := srcState t i
    if runs then
      if st = srcAcquiring then setSrcState i srcLocked t
      else if st = srcLost && fbit t fldPHASE_SRC_CFG_AUTO i then setSrcState i srcLocked (setSrcState i srcAcquiring t)
      else t
    else if st = srcLocked then setSrcState i srcLost t else t) s

/-! ### The discipline of device time (R247) -/

/-- DSTATE takes a value; a change raises DT_DISC. -/
def setDstate (d : Nat) (s : State) : State :=
  if fget s fldPHASE_DT_STAT_DSTATE 0 = d then s else raiseKeeper 0x1A (fset fldPHASE_DT_STAT_DSTATE 0 d s)

/-- 0.1 ppm, 200 ppm and 0.01 ppm of a PHASE cycle, in 2^-64 s. -/
@[reducible] def rateStep : Int := 3689
@[reducible] def rateMax : Int := 7378697
@[reducible] def rateUnit : Int := 36893488147

/-- The rate moves toward a target by at most `step`, within ±200 ppm. -/
def moveRate (target step : Int) (s : State) : State :=
  let t := min rateMax (max (-rateMax) target)
  let d := min step (max (-step) (t - s.dtRate))
  { s with
    dtRate := min rateMax (max (-rateMax) (s.dtRate + d))
    dtSteered := s.dtime }

/-- How far the rate may move now: 0.1 ppm per second of device time since it was last steered, counting one second at most. -/
def steerRoom (s : State) : Int := rateStep * (min (2 ^ 64) (s.dtime - s.dtSteered) : Nat) / 2 ^ 64

/-- TRIM as a rate. -/
def trimRate (s : State) : Int :=
  let t := signedOf 16 (fget s fldPHASE_DT_CTL_TRIM 0)
  min 20000 (max (-20000) t) * rateUnit / 100000000

/-- The deviation of the reference from 1 s, in 2^-64 s of device time: of the 10,000,000 XB edges the command measures in 2^-32 s,
or of the last interval between active SYNC_IN edges. -/
def dtError (s : State) (interval : Word) : Option Int :=
  if fget s fldPHASE_DT_CTL_DISC 0 = 1 then some ((interval - w64 (2 ^ 32)).toInt * 2 ^ 32)
  else s.syncGap.map (fun g => (g : Int) - 2 ^ 64)

/-- DT_DISCIPLINE (R247), held while PLLA coasts (R420). The rate moves toward the one that makes the reference interval 1 rev;
how far within the room R247 leaves is open. -/
def execDtDiscipline (interval : Word) (s : State) : Host.Outcome State Fault Refusal :=
  let disc := fget s fldPHASE_DT_CTL_DISC 0
  if fbit s fldCLK_PLL_CFG_COAST 5 then .next s
  else if disc = 0 || disc = 3 then .next (moveRate (trimRate s) (steerRoom s) (setDstate 0 s))
  else if disc = 1 && !fbit s fldCLK_STAT_XB_MODE 0 then .next (setDstate 0 s)
  else
    match dtError s interval with
    | none => .next (setDstate 1 s)
    | some err =>
      let d := drawNat s
      let step : Int := (d.1 : Int) % (steerRoom s + 1)
      let s1 := if err = 0 then d.2 else moveRate (s.dtRate - err * (phaseCycle : Int) / 2 ^ 64) step d.2
      .next (setDstate (if err.natAbs * 100000000 < 2 ^ 64 then 2 else 1) s1)

/-- DT_HOLDOVER (R247): the reference or PPS edges have stopped for more than 2 s. -/
def execDtHoldover (s : State) : Host.Outcome State Fault Refusal :=
  let disc := fget s fldPHASE_DT_CTL_DISC 0
  let ppsGone := match s.syncAt with
    | some t => decide (t + 2 ^ 65 < s.dtime)
    | none => false
  if (disc = 2 && ppsGone) || (disc = 1 && fbit s fldCLK_STAT_XB_MODE 0) then .next (setDstate 3 s) else .next s

/-! ### Posting alarms (R248, R249, R256) -/

/-- A malformed alarm descriptor. -/
def alarmBad (desc : List Cell) : Bool :=
  let c (i : Nat) : Cell := desc.getD i cellVoid
  let w := (c 0).data
  let op := bitsOf w 3 0
  if (c 0).tag != tagRaw64 || !(op == 1 || op == 2) || bitsOf w 15 13 != 0 || bitsOf w 63 48 != 0 then true
  else if 6 ≤ bitsOf w 6 4 || bitsOf w 8 7 == 3 then true
  else if op = 2 then !(isPhase (c 1).tag || (c 1).tag == tagNil)
  else
    let act := bitsOf w 6 4
    let arg := (c 2).data
    let argBad := match act with
      | 0 => !(bitsOf arg 1 0 == 0 && bitsOf arg 31 15 == 0)
      | 1 => bitsOf arg 63 7 != 0
      | 2 => bitsOf arg 63 16 != 0
      | 4 => bitsOf arg 63 32 != 0
      | _ => arg != 0
    !isPhase (c 1).tag || !((c 2).tag == tagRaw64 || (c 2).tag == tagFix) || argBad ||
    !((c 3).tag == tagNil || ((c 3).tag == tagQ32 && decide (0 < (c 3).data.toInt)))

/-- Calendar entries of a partition: alarms and pending drive frames (R323). -/
def calUsed (s : State) (p : Nat) : Nat :=
  (s.alarms.filter (fun a => a.part == p)).length +
  s.drives.foldl (fun n q => n + (q.2.frames.filter (fun f => f.part == p)).length) 0

/-- The partition an alarm is posted for: the poster's, or 8 for the keeper. Code of no partition has none (R467). -/
def alarmPart (s : State) (who : Agent) : Option Nat :=
  match agentPart s who with
  | some p => some p
  | none => if isKeeper s who then some 8 else none

/-- The ownership an alarm post needs (R249): the source read, SYNC_OUT owned, a core in the group's cluster. The keeper reads
every source (R97, R238) and owns what is not assigned. -/
def alarmOwned (s : State) (p : Nat) (desc : List Cell) : Bool :=
  let w := (desc.getD 0 cellVoid).data
  let c1 := desc.getD 1 cellNil
  let arms := bitsOf w 3 0 != 2
  (decide (8 ≤ p) || !isPhase c1.tag || srcReads s p (phaseOf c1.tag)) &&
  (!arms || bitsOf w 6 4 != 3 ||
    (if 8 ≤ p then !fbit s fldPHASE_SYNCOUT_CTL_ASSIGNED 0
     else fbit s fldPHASE_SYNCOUT_CTL_ASSIGNED 0 && fget s fldPHASE_SYNCOUT_CTL_PART 0 == p)) &&
  (!arms || bitsOf w 6 4 != 1 || decide (8 ≤ p) || !(coresIn s p (bitsOf (desc.getD 2 cellVoid).data 6 4)).isEmpty)

/-- The quota of a partition's calendar is used up; the keeper has none. -/
def quotaFull (s : State) (part : Nat) : Bool :=
  decide (part < 8) && decide (fget s fldPHASE_CAL_QUOTA_QUOTA part ≤ calUsed s part)

/-- The number of a poster: core k, or 64 + a host function. -/
def posterOf (who : Agent) : Nat :=
  match who with
  | .core k => k.val
  | .host f => 64 + f.val

/-- Arms an alarm (R250 to R254): passed alarms fire or are missed at once, alarms on a source that is not LOCKED are held
or converted. -/
def armAlarm (who : Agent) (p : Nat) (desc : List Cell) (s : State) : State :=
  let w := (desc.getD 0 cellVoid).data
  let d := desc.getD 1 cellVoid
  let src := phaseOf d.tag
  let per := desc.getD 3 cellVoid
  let diff := dueDiff s src d.data
  let a : Alarm :=
    { seq := s.seq, poster := posterOf who, part := p, ident := bitsOf w 31 16, action := bitsOf w 6 4, dir := bitsOf w 8 7,
      fallback := bitOf w 9, dropLate := bitOf w 10, report := bitOf w 11, pclass := bitOf w 12,
      times := bitsOf w 47 32, src := src, due := d.data, arg := (desc.getD 2 cellVoid).data, desc := desc.take 3,
      period := if per.tag = tagQ32 then some per.data else none
      before := diff.getD 0, held := none, conv := none, resolved := none }
  let s1 := { s with
    seq := s.seq + 1
    alarms := s.alarms ++ [a] }
  if srcState s src != srcLocked then parkAlarm a s1
  else
    match estimate s src, diff with
    | some v, some x => if diffPassed a.dir x || dueSoon a.dir x v.2.1 then passAlarm a s1 else s1
    | _, _ => s1

/-- An alarm that is due now: its status and the instant handed to its action. -/
def alarmDue (s : State) (a : Alarm) : Option (Nat × Nat) :=
  match a.conv, a.resolved with
  | some t, _ => if t ≤ s.dtime then some (aFallback, t) else none
  | none, some t => if t ≤ s.dtime then some (aFired, t) else none
  | none, none =>
    if srcState s a.src != srcLocked then none
    else
      match dueDiff s a.src a.due with
      | none => none
      | some d =>
        if diffPassed a.dir a.before then some (aLate, s.dtime)
        else if a.dir = 2 then
          (if d == 0 || decide (d < 0) != decide (a.before < 0) then some (aFired, s.dtime) else none)
        else if diffPassed a.dir d then some (aFired, s.dtime) else none

/-- An alarm that is due fires, or is missed. -/
def fireIfDue (seq : Nat) (s : State) : State :=
  match s.alarms.find? (fun a => a.seq == seq) with
  | none => s
  | some a =>
    match alarmDue s a with
    | none => s
    | some (st, t) => if st = aLate then passAlarm a s else fireAlarm a st t s

/-- Of two due alarms, the one that a device which serves every alarm in time fires first: on one source by due phase in the
direction of travel, else by post. -/
def dueBefore (s : State) (a b : Alarm) : Bool :=
  if a.src = b.src && a.conv.isSome == b.conv.isSome then
    let fwd := match estimate s a.src with
      | some v => decide (0 ≤ v.2.1)
      | none => true
    let d := (a.due - b.due).toInt
    if d = 0 then decide (a.seq < b.seq) else if fwd then decide (d < 0) else decide (0 < d)
  else decide (a.seq < b.seq)

/-- An alarm among others in the order of firing. -/
def dueInsert (s : State) (a : Alarm) : List Alarm → List Alarm
  | [] => [a]
  | b :: rest => if dueBefore s a b then a :: b :: rest else b :: dueInsert s a rest

/-- Every alarm that is due fires, each once. -/
def fireAllDue (s : State) : State :=
  ((s.alarms.filter (fun a => (alarmDue s a).isSome)).foldl (fun l a => dueInsert s a l) []).foldl (fun t a => fireIfDue a.seq t) s

/-- The entries a CANCEL names: its ID, on one source or on all. -/
def cancelPick (p : Nat) (desc : List Cell) (a : Alarm) : Bool :=
  let c := desc.getD 1 cellNil
  a.part == p && a.ident == bitsOf (desc.getD 0 cellVoid).data 31 16 && (c.tag == tagNil || phaseOf c.tag == a.src)

/-- POST to queue 0x10 (R249). A CANCEL that names an alarm which is due finds it fired (R256): what is due has fired by then. -/
def postAlarm (who : Agent) (desc : List Cell) (s : State) : Nat × State :=
  let w := (desc.getD 0 cellVoid).data
  let c1 := desc.getD 1 cellNil
  if alarmBad desc then answerNo 5 s
  else
    match alarmPart s who with
    | none => answerNo 2 s
    | some p =>
      if !alarmOwned s p desc then answerNo 2 s
      else if bitsOf w 3 0 = 2 then
        let s1 := if s.alarms.any (fun a => cancelPick p desc a && (alarmDue s a).isSome) then fireAllDue s else s
        (if s1.alarms.any (cancelPick p desc) then
          (0, { s1 with alarms := s1.alarms.filter (fun a => !cancelPick p desc a) }) else answerNo 3 s1)
      else if quotaFull s p then answerNo 1 s
      else if bitOf w 12 then
        match admitAlarm s p (phaseOf c1.tag) (bitsOf w 8 7) c1.data with
        | some code => notAdmitted code s
        | none => (0, armAlarm who p desc s)
      else (0, armAlarm who p desc s)

/-- ALARM_ARM and ALARM_CANCEL: posts with OP 1 and 2. -/
def execAlarmArm (who : Agent) (desc : List Cell) (s : State) : Host.Outcome State Fault Refusal :=
  let r := postAlarm who (specOp 1 desc) s
  .next (answerStatus r.1 r.2)
def execAlarmCancel (who : Agent) (desc : List Cell) (s : State) : Host.Outcome State Fault Refusal :=
  let r := postAlarm who (specOp 2 desc) s
  .next (answerStatus r.1 r.2)

/-! ### Resolving and firing (R250, R251) -/

/-- The device time until an estimate has moved by `d` > 0 (2^-32 rev) at rate w > 0 and acceleration a (2^-32 rev/s and
rev/s^2): 2d / (w + sqrt(w^2 + 2ad)); none when it never does. -/
def timeToGo (d w a : Int) : Option Nat :=
  let disc := w * w + 2 * a * d
  if d < 0 || w ≤ 0 || disc < 0 then none
  else some (2 * d.toNat * 2 ^ 96 / (w.toNat * 2 ^ 32 + isqrt (disc.toNat * 2 ^ 64)))

/-- The device-time instant at which a source's estimate reaches DUE, extrapolated from the present (R251). -/
def dueInstant (s : State) (src : Nat) (due : Word) : Option Nat :=
  match estimate s src, dueDiff s src due with
  | some v, some d =>
    if 0 < v.2.1 then (timeToGo d v.2.1 v.2.2).map (fun t => s.dtime + t)
    else if v.2.1 < 0 then (timeToGo (-d) (-v.2.1) (-v.2.2)).map (fun t => s.dtime + t)
    else none
  | _, _ => none

/-- PCLASS_RESOLVE (R251): the first unresolved PCLASS alarm on a LOCKED source within 32 PHASE cycles of DUE. -/
def execPclassResolve (s : State) : Host.Outcome State Fault Refusal :=
  let near (a : Alarm) : Bool := a.pclass && a.resolved.isNone && a.conv.isNone && srcState s a.src == srcLocked &&
    (match dueInstant s a.src a.due with
      | some t => decide (t ≤ s.dtime + 32 * phaseCycle)
      | none => false)
  match s.alarms.find? near with
  | none => .next s
  | some a => .next (putAlarm { a with resolved := dueInstant s a.src a.due } s)

/-! ### Resets (R256, R260) -/

/-- A partition reset: its sources are disabled, its alarms removed without reports, its report ring disabled. -/
def phasePartReset (p : Nat) (s : State) : State :=
  let s1 := ((List.range 15).filter (fun i => srcOwner s i == some p && srcOn s i)).foldl (fun t i => disableSource i t) s
  fset fldPHASE_CAL_RPTB_EN p 0 { s1 with alarms := s1.alarms.filter (fun a => a.part != p) }

end Sys2Proof.Machine
end

