-- ==== Sys2Proof/Machine/Drive.lean ====
section
/-!
DEFINITION. Machine/Drive.lean: posts to the drive queue (R321, R322, R329), pending frames (R323), samples and limits (R324),
the remaining triggers and the end of a ramp (R325, R326, R330, R331), of 13_drive_guard.md.
-/

namespace Sys2Proof.Machine

/-! ### The DRV_ARMED ball (R330) -/

/-- DRV_ARMED: high while an output is ARMED or RAMPING. -/
def drvArmedPin (s : State) : Bool := (List.range 64).any (fun o => drvState s o != drvDisarmed)

/-! ### Arming (R329) -/

/-- A limit is positive and finite. -/
def limitOk (b : Nat) : Bool := decide (0 < b) && decide (b < 0x7F800000)
def armOk (s : State) (o : Nat) : Bool :=
  fbit s fldDRV_GCTL_ARMEN 0 && fbit s fldDRV_OUT_MAP_EN o && linkUp s (fget s fldDRV_OUT_MAP_LINK o) &&
  limitOk (bitsOf (getReg s .DRV_OUT_AMAX o) 31 0) && limitOk (bitsOf (getReg s .DRV_OUT_SMAX o) 31 0) &&
  limitOk (bitsOf (getReg s .DRV_OUT_RMAX o) 31 0) && s.abortN && bitsOf (getReg s .DRV_ABT 0) 2 0 == 0 &&
  (match outOwner s o with
    | some p => nbits (fget s fldDRV_ABT_PART 0) p p == 0
    | none => true) && drvState s o != drvRamping
/-- An output becomes ARMED with A = 0 and f = 0; φ is kept, and a DRIVE source locks when it runs in SINE. -/
def armOutput (o : Nat) (s : State) : State :=
  let s1 := modDrive o (fun x => { x with
    amp := 0
    freq := 0
    slope := 0
    sweep := 0
    ringLen := 0
    ringPos := 0
    t0 := s.dtime
    applied := s.dtime
    rampStart := none
    silent := false }) (anchorDrive o s.dtime s)
  let s2 := fset fldDRV_OUT_STAT_STATE o drvArmed s1
  if sineRuns s2 o then driveRuns o true s2 else s2

/-! ### Posts (R321, R322) -/

/-- A malformed descriptor; the signal cells are judged by the output's MODE. -/
def driveBad (s : State) (desc : List Cell) : Bool :=
  let c (i : Nat) : Cell := desc.getD i cellVoid
  let w := (c 0).data
  let op := bitsOf w 3 0
  let mode := fget s fldDRV_OUT_CFG_MODE (bitsOf w 9 4)
  let signal :=
    if mode = 1 then
      !((c 3).tag == tagNil || (c 3).tag == tagFlo) || (c 4).tag != tagRaw64 || decide (2 < (c 4).data.toNat) ||
      (c 5).tag != tagFlo || (c 6).tag != tagFlo
    else if mode = 2 then
      (c 3).tag != tagRaw64 || bitsOf (c 3).data 5 0 != 0 || bitsOf (c 3).data 63 44 != 0 || (c 4).tag != tagFix ||
      bitOf (c 4).data 63 || (c 5).tag != tagFix || bitOf (c 5).data 63
    else false
  (c 0).tag != tagRaw64 || op == 0 || decide (5 < op) || bitsOf w 63 12 != 0 ||
  (op == 1 && (!((c 1).tag == tagNil || isPhase (c 1).tag) || (c 2).tag != tagFlo || !wakeOk (c 7) || signal))
/-- A FRAME is queued: held while its source is not LOCKED, applied or missed when its DUE has passed; without DUE it
applies at the next output sample instant. -/
def queueFrame (who : Agent) (o part : Nat) (desc : List Cell) (host : Option (Nat × Nat × Nat)) (s : State) : State :=
  let c1 := desc.getD 1 cellNil
  let at_ := (gridFrom s o (s.dtime + 1) * 2 ^ 64 + 204799) / 204800
  let f : Frame := ⟨s.seq, posterOf who, part, desc, 0, none, if c1.tag = tagNil then some at_ else none, host⟩
  let add (g : Frame) : State := showPend o (modDrive o (fun x => { x with frames := x.frames ++ [g] }) { s with seq := s.seq + 1 })
  if c1.tag = tagNil then add f
  else
    let src := phaseOf c1.tag
    if srcState s src != srcLocked then
      add { f with held := some ((estimate s src).map (fun v => v.1) |>.getD 0) }
    else
      match dueDiff s src c1.data with
      | none => add f
      | some d =>
        if diffPassed 0 d then
          (if bitOf (desc.getD 0 cellVoid).data 10 then missFrame o f (add f) else applyFrame o f s.dtime (add f))
        else add { f with before := d }
/-- POST to queue 0x40; `host`: the host command behind it. -/
def postDrive (who : Agent) (desc : List Cell) (host : Option (Nat × Nat × Nat)) (s : State) : Nat × State :=
  let c (i : Nat) : Cell := desc.getD i cellVoid
  let w := (c 0).data
  let op := bitsOf w 3 0
  let o := bitsOf w 9 4
  let keeper := isKeeper s who
  let part := agentPart s who
  let src := if isPhase (c 1).tag then some (phaseOf (c 1).tag) else none
  if 1 ≤ op && op ≤ 3 && !keeper && (part.isNone || outOwner s o != part) then answerNo 2 s
  else if op = 1 && !keeper && (match src, part with
      | some i, some p => !srcReads s p i
      | _, _ => false) then answerNo 2 s
  else if 4 ≤ op && !keeper && part.isNone then answerNo 2 s
  else if driveBad s desc then answerNo 5 s
  else if op = 1 then
    let p := (outOwner s o).getD 8
    if drvState s o != drvArmed then answerNo 3 s
    else if 8 ≤ (getDrive s o).frames.length || quotaFull s p then answerNo 1 s
    else if bitOf w 11 then
      match admitFrame s p o (src.map (fun i => (i, (c 1).data))) with
      | some code => notAdmitted code s
      | none => (0, queueFrame who o p desc host s)
    else (0, queueFrame who o p desc host s)
  else if op = 2 then (if armOk s o then (0, armOutput o s) else answerNo 3 s)
  else if op = 3 then
    (if drvState s o != drvArmed then answerNo 3 s
     else
       let s1 := startRamp 13 o s
       (0, match outOwner s o with
         | some p => raisePart p 9 s1
         | none => s1))
  else if op = 4 then (0, ownerTrigger 5 part s)
  else if (List.range 64).any (fun q => outOwner s q == part && drvState s q == drvRamping) then answerNo 3 s
  else (0, match part with
    | some p => fset fldDRV_ABT_PART 0 (nput (fget s fldDRV_ABT_PART 0) p p 0) s
    | none => s)
/-- DRIVE_FRAME, DRIVE_ARM, DRIVE_DISARM, DRIVE_ABORT and DRIVE_CLEAR: posts with OP 1 to 5. -/
def execDriveFrame (who : Agent) (desc : List Cell) (s : State) : Host.Outcome State Fault Refusal :=
  let r := postDrive who (specOp 1 desc) none s
  .next (answerStatus r.1 r.2)
def execDriveArm (who : Agent) (desc : List Cell) (s : State) : Host.Outcome State Fault Refusal :=
  let r := postDrive who (specOp 2 desc) none s
  .next (answerStatus r.1 r.2)
def execDriveDisarm (who : Agent) (desc : List Cell) (s : State) : Host.Outcome State Fault Refusal :=
  let r := postDrive who (specOp 3 desc) none s
  .next (answerStatus r.1 r.2)
def execDriveAbort (who : Agent) (desc : List Cell) (s : State) : Host.Outcome State Fault Refusal :=
  let r := postDrive who (specOp 4 desc) none s
  .next (answerStatus r.1 r.2)
def execDriveClear (who : Agent) (desc : List Cell) (s : State) : Host.Outcome State Fault Refusal :=
  let r := postDrive who (specOp 5 desc) none s
  .next (answerStatus r.1 r.2)

/-! ### Resolving and applying (R323) -/

/-- LEAD as it acts. -/
def leadOf (s : State) : Nat := max 2 (fget s fldDRV_GCTL_LEAD 0)
/-- Device time of n grid intervals. -/
def gridSpan (n : Nat) : Nat := n * 2 ^ 64 / 204800
/-- The instant a frame's DUE is reached, on a LOCKED source. -/
def frameInstant (s : State) (f : Frame) : Option Nat :=
  match frSrc f with
  | none => f.resolved
  | some i => if srcState s i == srcLocked && f.held.isNone then dueInstant s i (frCell f 1).data else none
/-- FRAME_RESOLVE: the first unresolved frame of an output whose instant lies within LEAD + 2 grid intervals. -/
def execFrameResolve (o : Fin 64) (s : State) : Host.Outcome State Fault Refusal :=
  let near (f : Frame) : Bool := f.resolved.isNone && (match frameInstant s f with
    | some t => decide (t ≤ s.dtime + gridSpan (leadOf s + 2))
    | none => false)
  match (getDrive s o.val).frames.find? near with
  | none => .next s
  | some f =>
    .next (modDrive o.val (fun x => { x with frames := x.frames.map (fun g =>
      if g.seq == f.seq then { g with resolved := frameInstant s f } else g) }) s)
/-- The application instant of a frame that is due: resolved, or its DUE has been reached. -/
def frameDue (s : State) (f : Frame) : Option Nat :=
  match f.resolved with
  | some t => if t ≤ s.dtime then some t else none
  | none =>
    match frSrc f with
    | none => none
    | some i =>
      if srcState s i == srcLocked && f.held.isNone then
        (match dueDiff s i (frCell f 1).data with
          | some d => if diffPassed 0 d then some s.dtime else none
          | none => none)
      else none
/-- The earliest of the due frames, in post order among equals (R250). -/
def firstDue (s : State) : List Frame → Option (Frame × Nat)
  | [] => none
  | f :: fs =>
    match frameDue s f, firstDue s fs with
    | none, r => r
    | some t, none => some (f, t)
    | some t, some (g, u) => if u < t then some (g, u) else some (f, t)
/-! ### The order of actions (R100, R250, R251) -/

/-- An action that is due: the number of its post, its poster, the source and due phase that order it, the instant it is due. -/
abbrev DueAct := Nat × Nat × Nat × Word × Nat

/-- The frames of ARMED outputs and the alarms that are due. A converted alarm, and a frame without DUE, belong to PS15. -/
def dueActs (s : State) : List DueAct :=
  s.alarms.filterMap (fun a => (alarmDue s a).map (fun r => match a.conv with
    | some t => (a.seq, a.poster, 15, w64 (t / 2 ^ 32), r.2)
    | none => (a.seq, a.poster, a.src, a.due, r.2))) ++
  s.drives.flatMap (fun q => if drvState s q.1 != drvArmed then [] else
    q.2.frames.filterMap (fun f => (frameDue s f).map (fun t => match frSrc f with
      | some i => (f.seq, f.poster, i, (frCell f 1).data, t)
      | none => (f.seq, f.poster, 15, w64 (t / 2 ^ 32), t))))

/-- A FENCE.P of the poster of both lies between the two posts. -/
def fencedApart (s : State) (a b : DueAct) : Bool :=
  s.fences.any (fun f => f.1 == a.2.1 && f.1 == b.2.1 && decide (a.1 < f.2) && decide (f.2 ≤ b.1))

/-- Action a takes effect before b (R100): on one source by due phase in the direction of travel, then by post; on different
sources in one PHASE cycle by post, across a fence. -/
def mustPrecede (s : State) (a b : DueAct) : Bool :=
  if a.2.2.1 = b.2.2.1 then
    let fwd := match estimate s a.2.2.1 with
      | some v => decide (0 ≤ v.2.1)
      | none => true
    let d := (a.2.2.2.1 - b.2.2.2.1).toInt
    if d = 0 then decide (a.1 < b.1) else if fwd then decide (d < 0) else decide (0 < d)
  else a.2.2.2.2 / phaseCycle == b.2.2.2.2 / phaseCycle && fencedApart s a b

/-- The posts of the due actions that no other due action must precede; all of them where each waits for another. -/
def freeActs (s : State) : List Nat :=
  let acts := dueActs s
  match acts.filter (fun b => !acts.any (fun a => a.1 != b.1 && mustPrecede s a b)) with
  | [] => acts.map (fun a => a.1)
  | first => first.map (fun a => a.1)

/-- The alarms that may fire now: among those that no action precedes the PCLASS ones first (R251). -/
def mayFire (s : State) : List Alarm :=
  let free := freeActs s
  let now := s.alarms.filter (fun a => (alarmDue s a).isSome && free.contains a.seq)
  match now.filter (fun a => a.pclass) with
  | [] => now
  | urgent => urgent

/-- ALARM_FIRE (R250): one of the alarms that may fire now; the order among them is free (R100). -/
def execAlarmFire (s : State) : Host.Outcome State Fault Refusal :=
  match mayFire s with
  | [] => .next s
  | [a] => .next (fireIfDue a.seq s)
  | a :: rest =>
    let d := drawNat s
    .next (fireIfDue ((a :: rest)[d.1 % (rest.length + 1)]?.getD a).seq d.2)

/-- DRIVE_FRAME_APPLY: the first due frame of an output takes over its signal, once no action must precede it. -/
def execDriveFrameApply (o : Fin 64) (s : State) : Host.Outcome State Fault Refusal :=
  if drvState s o.val != drvArmed then .next s
  else
    match firstDue s (getDrive s o.val).frames with
    | none => .next s
    | some (f, t) => if (freeActs s).contains f.seq then .next (applyFrame o.val f t s) else .next s

/-! ### Samples (R320, R324) -/

/-- Whether an action is ABORT, and whether it is CLIP. -/
def actAborts (a : Nat) : Bool := decide (2 ≤ a)
def actClips (a : Nat) : Bool := a == 1
/-- The samples over which RMS is taken: samples before the first are zero. -/
def rmsWindow (s : State) (o : Nat) : Nat :=
  let n := fget s fldDRV_OUT_LACT_LOG2W o
  2 ^ (if 6 ≤ n && n ≤ 16 then n else 10)
/-- The outcome of the three checks: the sample to send, the breaches, and whether one aborts. -/
def guardSample (s : State) (o x0 : Nat) (ramp : Bool) : Nat × Nat × Bool :=
  let lim (r : Reg) : Nat := f32Mag (bitsOf (getReg s r o) 31 0)
  let aact := fget s fldDRV_OUT_LACT_AACT o
  let sact := fget s fldDRV_OUT_LACT_SACT o
  let ract := fget s fldDRV_OUT_LACT_RACT o
  let odd := !f32Finite x0
  let x1 := if odd then 0 else x0
  let above := decide (lim .DRV_OUT_AMAX < f32Mag x1)
  let x2 := if above && actClips aact then x1 / 2 ^ 31 * 2 ^ 31 + bitsOf (getReg s .DRV_OUT_AMAX o) 31 0 else x1
  let prev := f32Signed ((getDrive s o).sent.headD 0)
  let jump := f32Signed x2 - prev
  let steep := decide (lim .DRV_OUT_SMAX < jump.natAbs)
  let x3 := if steep && actClips sact then
      f32Of (if jump < 0 then prev - lim .DRV_OUT_SMAX else prev + lim .DRV_OUT_SMAX) else x2
  let w := rmsWindow s o
  let sum := ((x3 :: (getDrive s o).sent).take w).foldl (fun a b => a + f32Mag b * f32Mag b) 0
  let loud := decide (w * lim .DRV_OUT_RMAX * lim .DRV_OUT_RMAX < sum)
  let breaches := (odd || above).toNat + steep.toNat + loud.toNat
  (x3, breaches, !ramp && (((odd || above) && actAborts aact) || (steep && actAborts sact) || (loud && ract != 0)))
/-- Breaches are counted; DRIVE_LIMIT at most once per millisecond. -/
def countBreach (o n : Nat) (s : State) : State :=
  if n = 0 then s
  else
    let s1 := fset fldDRV_OUT_STAT_CLIPPED o 1 (countUp .DRV_OUT_CLIP o n s)
    let soon := match (getDrive s1 o).limitAt with
      | some t => decide (s1.dtime < t + 2 ^ 64 / 1000)
      | none => false
    match outOwner s1 o with
    | some p => if soon then s1 else raisePart p 8 (modDrive o (fun x => { x with limitAt := some s1.dtime }) s1)
    | none => s1
/-- An UNDERRUN is counted, and is a LATE trigger where asked. -/
def underrun (o : Nat) (s : State) : State :=
  lateTrigger o (modDrive o (fun x => { x with underruns := x.underruns + 1 }) s)
/-- The SYNTH job that names an output its partition owns (R15, R279), with the samples of a frame. -/
def synthOf (s : State) (o : Nat) : Option (Job × Nat) :=
  (s.jobs.find? (fun j =>
    let q := specOf j.desc
    let f := bitsOf (jw j 3) 5 0
    decide (8 ≤ j.eng) && q.kind == 5 && outOwner s o == some j.part && decide (f ≤ o) && decide (o < f + q.d))).map (fun j => (j, (specOf j.desc).n / 2))
/-- A RANDOM output takes its next sample: where a frame begins, its SYNTH slot fires; a frame that is not written gives 0 for
its whole length, and is reported LATE. -/
def randomStep (o t : Nat) (s : State) : State :=
  let x := getDrive s o
  if 0 < x.zeros then modDrive o (fun y => { y with zeros := y.zeros - 1 }) s
  else
    match synthOf s o with
    | none => if x.tail.length ≤ x.tailPos then s else modDrive o (fun y => { y with tailPos := y.tailPos + 1 }) s
    | some (j, n) =>
      let first := bitsOf (jw j 3) 5 0 == o
      if x.tail.length ≤ x.tailPos then
        let s1 := modDrive o (fun y => { y with zeros := n - 1 }) s
        if first then reportJob j jLate 0 s1 else s1
      else
        let s1 := modDrive o (fun y => { y with tailPos := y.tailPos + 1 }) s
        if first && (x.tail.length - x.tailPos) % max 1 n = 0 then fireSlot j t s1.seq none { s1 with seq := s1.seq + 1 } else s1
/-- Samples that can no longer be sent again are dropped. -/
def trimTail (o : Nat) (s : State) : State :=
  modDrive o (fun y => { y with
    tail := y.tail.drop (y.tailPos - 256)
    tailPos := min y.tailPos 256 }) s

/-- A product in binary32, rounded to nearest even. -/
def f32Times (a b : Nat) : Nat := fvTo fmt32 (fvMul (fvOf fmt32 a) (fvOf fmt32 b))
/-- A in binary32. -/
def ampOf (x : DriveOut) : Nat := fvTo fmt32 (fvOfFlo x.amp)
/-- sin(2π φ) in binary32 at a device time; its last place is open. -/
def sineAt (s : State) (o t : Nat) : Nat :=
  f32Near 1 (fvTo fmt32 (fvInt (turn ((drivePhase s o t).1 % 2 ^ 96).toNat (2 ^ 96)).2 fxOne)) (Config.driveSample o t 0)
/-- The place in a STREAM ring that an output plays at a device time: the sample index, and the fraction of a sample in 2^-64.
Instants are held to 2^-64 s, so that a fraction below 2^-64 s of the grid is none. -/
def streamPlace (s : State) (o t : Nat) : Nat × Nat :=
  let den := outRdiv s o * 2 ^ 64
  let num := (t - (getDrive s o).applied) * 204800 + 2 * 204800
  ((getDrive s o).ringPos + num / den, if num % den ≤ 4 * 204800 then 0 else num % den * 2 ^ 64 / den)
/-- Sample i of a STREAM ring in 2^-149: 0 before the first one a frame plays and past the ring's end. A cell that cannot be read
or holds no binary32 lanes, and a sample that is not finite, gives an open value. -/
def streamRing (s : State) (o t : Nat) (i : Int) : Int :=
  let x := getDrive s o
  if i < (x.ringPos : Int) || (x.ringLen : Int) ≤ i then 0
  else
    let n := i.toNat
    let free := f32Signed (Config.driveSample o t (n + 2) % 0x7F800000)
    match spaceRead s (outOwner s o) (x.ring + 8 * (n / 2)) with
    | .error _ => free
    | .ok c =>
      let v := bitsOf c.data (32 * (n % 2) + 31) (32 * (n % 2))
      if c.tag = tagF32x2 && f32Finite v then f32Signed v else free
/-- The samples of a STREAM ring at a device time, in binary32: a sample itself where the instant falls on it, else the 16 around
it under the taps of R323. -/
def streamAt (s : State) (o t : Nat) : Nat :=
  let u := streamPlace s o t
  if u.2 = 0 then f32Of (streamRing s o t u.1)
  else f32Frac ((List.range 16).foldl (fun (a : Int) i =>
    a + Config.driveTap u.2 i * streamRing s o t ((u.1 : Int) + i - 7)) 0) (2 ^ 213)
/-- The envelope e(τ) of R326 in binary32 at a device time, from the start `r` of the ramp; its last place is open. -/
def envelope (s : State) (o r t : Nat) : Nat :=
  let n := (t - r) * 1000
  let d := rampMs s o * 2 ^ 64
  if d ≤ n then 0
  else f32Near 1 (fvTo fmt32 (fvInt ((fxOne : Int) + (turn n (2 * d)).1) (2 * fxOne))) (Config.driveSample o t 1)
/-- The sample of an output at a device time, before the envelope: the value and whether it underran. -/
def plainSample (s : State) (o t : Nat) : Nat × Bool :=
  let x := getDrive s o
  match fget s fldDRV_OUT_CFG_MODE o with
  | 0 => (0, false)
  | 1 => (f32Times (ampOf x) (sineAt s o t), false)
  | 2 =>
    if t < x.applied || x.ringLen ≤ (streamPlace s o t).1 then (0, decide (x.applied ≤ t) && decide (0 < x.ringLen))
    else (f32Times (ampOf x) (streamAt s o t), false)
  | _ =>
    match (if 0 < x.zeros then none else x.tail[x.tailPos]?) with
    | none => (0, x.zeros == 0)
    | some v => (f32Times (ampOf x) v, false)
/-- The sample of an output at a device time, before the guard (R320, R326): the value and whether it underran. -/
def rawSample (s : State) (o t : Nat) : Nat × Bool :=
  if drvState s o = drvDisarmed then (0, false)
  else
    let v := plainSample s o t
    match (if drvState s o = drvRamping then (getDrive s o).rampStart else none) with
    | some r => if r ≤ t then (f32Times v.1 (envelope s o r t), v.2) else v
    | none => v
/-- The section of one sample (R298, R304): FIRST = the pod channel, the sample index, and the device time of the sample. -/
def driveSection (s : State) (o v t : Nat) : List Word :=
  [w64 (fget s fldDRV_OUT_MAP_PODCH o + (getDrive s o).sidx % 2 ^ 24 * 2 ^ 40), w64 (t / 2 ^ 32), w64 v]
/-- The instant of a grid interval. -/
def gridInstant (g : Nat) : Nat := (g * 2 ^ 64 + 204799) / 204800
/-- A checked sample leaves; the first of those a ramp sends again goes ahead of every other bundle (R327). -/
def sendChecked (o g v : Nat) (s : State) : State :=
  let t := gridInstant g
  let link := fget s fldDRV_OUT_MAP_LINK o
  let random := fget s fldDRV_OUT_CFG_MODE o == 3 && drvState s o != drvDisarmed
  let s1 := modDrive o (fun x => { x with
    nextG := g + outRdiv s o
    sidx := x.sidx + 1
    urgent := false
    sent := (v :: x.sent).take 65536 }) s
  let s2 := if random then trimTail o (randomStep o t s1) else s1
  if (getDrive s o).urgent then sendFirst link tyDrive (driveSection s o v t) s2
  else sendSeq link tyDrive (driveSection s o v t) s2
/-- The sample of a grid interval is synthesised and checked (R324): the sample to send, or none where it starts the ramp of its
output, by a limit or as late. -/
def checkSample (o g : Nat) (s : State) : Option Nat × State :=
  let raw := rawSample s o (gridInstant g)
  let s1 := if raw.2 then underrun o s else s
  if drvState s o = drvDisarmed then (some 0, s1)
  else
    let chk := guardSample s1 o raw.1 (drvState s1 o == drvRamping)
    let s2 := countBreach o chk.2.1 s1
    let s3 := if chk.2.2 then ownerTrigger 9 (outOwner s2 o) s2 else s2
    if drvState s3 o = drvState s o then (some chk.1, s3) else (none, s3)
/-- The next sample of an output is checked and sent. Where it starts a ramp, the first sample that carries the envelope leaves. -/
def sendSample (o g : Nat) (s : State) : State :=
  match checkSample o g s with
  | (some v, s1) => sendChecked o g v s1
  | (none, s1) =>
    let h := max (getDrive s1 o).nextG (gridFrom s1 o s1.dtime)
    let r := guardSample s1 o (rawSample s1 o (gridInstant h)).1 true
    sendChecked o h r.1 (countBreach o r.2.1 s1)
/-- What reading the ring of a STREAM output does to the caches. -/
def seenRing (o g : Nat) (s : State) : State :=
  let u := streamPlace s o (gridInstant g)
  if drvState s o = drvDisarmed || fget s fldDRV_OUT_CFG_MODE o != 2 || (getDrive s o).ringLen ≤ u.1 then s
  else seenCells (outOwner s o) ((getDrive s o).ring + 8 * ((u.1 - 7) / 2)) 9 s
/-- How far ahead of its instant a sample may leave: LEAD, and the pod's DRVDEPTH samples (R304). -/
def aheadOf (s : State) (o : Nat) : Nat :=
  let lane := (linkLanes s (fget s fldDRV_OUT_MAP_LINK o)).headD 0
  min (leadOf s) (bitsOf (getReg s .SFL_LANE_PCAP lane) 63 48 * outRdiv s o)
/-- The drive sections of an output stopped at a partition reset (R318); a ramp still runs to its end (R331). -/
def sectionsStopped (s : State) (o : Nat) : Bool := (getDrive s o).silent && drvState s o == drvDisarmed
/-- DRIVE_SAMPLE_SEND: the next sample of an output that has a mapping and a link, once its instant is near enough. -/
def execDriveSampleSend (o : Fin 64) (s : State) : Host.Outcome State Fault Refusal :=
  if !fbit s fldDRV_OUT_MAP_EN o.val || !linkUp s (fget s fldDRV_OUT_MAP_LINK o.val) || sectionsStopped s o.val then .next s
  else
    let g := max (getDrive s o.val).nextG (gridFrom s o.val s.dtime)
    if s.dtime + gridSpan (aheadOf s o.val) < g * 2 ^ 64 / 204800 then .next s
    else .next (sendSample o.val g (seenRing o.val g s))

/-! ### Triggers and the end of a ramp (R325, R326) -/

/-- The filter of ABORT_N in PHASE cycles: FILT times 100 ns. -/
def abortFilter (s : State) : Nat := max 1 (fget s fldDRV_GCTL_FILT 0) * 50
/-- ABORT_N_LOW: a level of the ball counts once it has held for the filter; low is then a trigger. -/
def execAbortNLow (level : PinLevel) (s : State) : Host.Outcome State Fault Refusal :=
  if level.held < abortFilter s then .next s
  else if level.high then .next { s with abortN := true }
  else .next (if s.abortN then deviceTrigger 1 { s with abortN := false } else s)
/-- A write of DRV_GCTL: ARMEN under LOCK, FILT, LEAD (which admitted PHASE work holds, R381), LOCK; ABORT = 1 is a SOFT trigger
and reads 0. -/
def writeGctl (who : Agent) (v : Word) (s : State) : State :=
  if !isKeeper s who then s
  else
    let locked := fbit s fldDRV_GCTL_LOCK 0
    let lead := if (List.range 64).any (outAdmitted s) then fget s fldDRV_GCTL_LEAD 0 else bitsOf v 13 6
    let s1 := fset fldDRV_GCTL_FILT 0 (bitsOf v 5 2) (fset fldDRV_GCTL_LEAD 0 lead
      (if locked then s else fset fldDRV_GCTL_ARMEN 0 (bitsOf v 0 0) s))
    let s2 := if bitOf v 14 then fset fldDRV_GCTL_LOCK 0 1 s1 else s1
    if bitOf v 1 then deviceTrigger 4 s2 else s2
/-- DRIVE_SOFT_ABORT: a write with ABORT = 1. -/
def execDriveSoftAbort (who : Agent) (value : BitVec 32) (s : State) : Host.Outcome State Fault Refusal :=
  .next (writeGctl who (putBit (value.zeroExtend 64) 1 true) s)
/-- The instant at which the watchdog of an output ends: WDOG units of 100 µs after its last FRAME, or its ARM. -/
def wdogEnd (s : State) (o : Nat) : Nat := (getDrive s o).applied + fget s fldDRV_OUT_LACT_WDOG o * (2 ^ 64 / 10000)
/-- DRIVE_WDOG_TIMEOUT: no FRAME applied for WDOG. -/
def execDriveWdogTimeout (o : Fin 64) (s : State) : Host.Outcome State Fault Refusal :=
  if fget s fldDRV_OUT_LACT_WDOG o.val != 0 && drvState s o.val == drvArmed && decide (wdogEnd s o.val ≤ s.dtime) then
    .next (ownerTrigger 11 (outOwner s o.val) s)
  else .next s
/-- The instant at which τ = RAMP. On a CLOCK trigger the ramp is timed from FIRC, and may end up to 5 % sooner (R326); while
FIRC_FAIL is set it is timed from SIRC, and may end up to 12 % sooner (R418). -/
def rampOver (s : State) (o : Nat) : Nat :=
  let len := rampMs s o * 2 ^ 64 / 1000
  (getDrive s o).rampStart.getD 0 + (if fbit s fldCLK_STAT_FIRC_FAIL 0 then len * 88 / 100 else if fget s fldDRV_OUT_STAT_CAUSE o = 2 then len * 95 / 100 else len)
/-- RAMP_END: at τ = RAMP the output is DISARMED and sends zeros; a DRIVE source leaves LOCKED with the rate it had. -/
def execRampEnd (o : Fin 64) (s : State) : Host.Outcome State Fault Refusal :=
  if drvState s o.val != drvRamping || decide (s.dtime < rampOver s o.val) then .next s
  else
    let s1 := if sineRuns s o.val then driveRuns o.val false s else s
    .next (modDrive o.val (fun x => { x with rampStart := none })
      (fset fldDRV_OUT_STAT_STATE o.val drvDisarmed (anchorDrive o.val s1.dtime s1)))

/-! ### Register writes (R319) -/

/-- A write of DRV_OUT_CFG: PART and ASSIGNED are the keeper's, the other fields the owner's; nothing is written unless the
output is DISARMED. -/
def writeOutCfg (who : Agent) (o : Nat) (v : Word) (s : State) : State :=
  if drvState s o != drvDisarmed then s
  else
    let own := isKeeper s who || (agentPart s who).isSome && outOwner s o == agentPart s who
    let s1 := if own then setReg .DRV_OUT_CFG o (putBits (putBits (putBits v 3 0 (bitsOf (getReg s .DRV_OUT_CFG o) 3 0)) 31 24 0)
      63 32 0) s else s
    if isKeeper s who then setReg .DRV_OUT_CFG o (putBits (getReg s1 .DRV_OUT_CFG o) 3 0 (bitsOf v 3 0)) s1 else s1
/-- A write of a limit register. -/
def writeOutLim (who : Agent) (r : Reg) (o : Nat) (v : Word) (s : State) : State :=
  let own := isKeeper s who || (agentPart s who).isSome && outOwner s o == agentPart s who
  if drvState s o != drvDisarmed || !own then s
  else setReg r o (if r = .DRV_OUT_LACT then putBits v 63 27 0 else putBits v 63 32 0) s
/-- A write of DRV_OUT_MAP: the keeper's; EN only while DISARMED. -/
def writeOutMap (who : Agent) (o : Nat) (v : Word) (s : State) : State :=
  if !isKeeper s who then s
  else
    let en := if drvState s o = drvDisarmed then bitsOf v 31 31 else fget s fldDRV_OUT_MAP_EN o
    setReg .DRV_OUT_MAP o (putBits (putBits v 31 31 en) 63 32 0) s
/-- A write of DRV_ABT: the keeper's; ABTN stays while ABORT_N is low. A partition clears its latch with CLEAR. -/
def writeAbt (who : Agent) (v : Word) (s : State) : State :=
  if !isKeeper s who then s
  else
    let old := getReg s .DRV_ABT 0
    let drop := if s.abortN then v else putBit v 0 false
    setReg .DRV_ABT 0 (old &&& ~~~ (putBits (putBits drop 7 3 0) 63 16 0)) s

/-- Partition reset (R318, R331): a PRESET trigger; the drive sections of the partition's outputs stop, until the next ARM. -/
def drivePartReset (p : Nat) (s : State) : State :=
  ownerTrigger 12 (some p) (((List.range 64).filter (fun o => outOwner s o == some p)).foldl (fun t o =>
    modDrive o (fun x => { x with silent := true }) t) s)

end Sys2Proof.Machine
end

