-- ==== Sys2Proof/Machine/Larder.lean ====
section
/-!
DEFINITION. Machine/Larder.lean: the larder's banks, their power states and interleave keys (R191 to R194), DARNING (R195,
R196), the memory channels (R198, R201 to R204) of 08_caches_larders_memory.md, and the errors of DDR and larder cells
(R434, R435).
-/

namespace Sys2Proof.Machine

/-! ### Errors of memory cells -/

/-- The cells of a line with those that `bad` selects made POISON; a POISON cell stays as it is. -/
def poisonCells (origin pa : Nat) (bad : Nat → Bool) (cells : List Cell) : List Cell :=
  (List.range 8).map (fun i =>
    let c := cells.getD i cellVoid
    if bad i && c.tag != tagPoison then cellPoison origin pa else c)

/-- The caches that hold a line nearest to memory. -/
def lastHolders (s : State) (line : Nat) : List Nat :=
  if cacheHolds s scCache line then [scCache]
  else (s.lines.filter (fun e => e.line == line && decide (128 ≤ e.cache) && decide (e.cache < 136))).map (fun e => e.cache)

/-- What lies in memory below the caches for a line. -/
def belowCells (s : State) (c line : Nat) : List Cell := if underOf s c line = [] then lineCells s line else underOf s c line

/-- DDR cells become POISON in the memory itself: cached copies still show what they hold (R28, R436). -/
def poisonDdr (pa : Nat) (bad : Nat → Bool) (s : State) : State :=
  let line := pa / 64
  match lastHolders s line with
  | [] => lineRestore line (poisonCells 0x01 (line * 64) bad (lineCells s line)) s
  | cs => cs.foldl (fun t c => underSet c line (poisonCells 0x01 (line * 64) bad (belowCells t c line)) t) s

/-- The cells of a DDR line in memory. -/
def ddrCells (s : State) (line : Nat) : List Cell :=
  match lastHolders s line with
  | [] => lineCells s line
  | c :: _ => belowCells s c line

/-- A DDR error on a line (R434): counted for its subchannel and its page; cells that cannot be corrected become POISON.
A POISON cell is read unchanged and counts nothing (R436); nor does a retired subchannel's line. -/
def ddrError (pa : Nat) (bad : BitVec 8) (corrected : Bool) (s : State) : State :=
  let cells := ddrCells s (pa / 64)
  let fresh (i : Nat) : Bool := bad.getLsbD i && (cells.getD i cellVoid).tag != tagPoison
  let lost := (List.range 8).any fresh
  if subRetired s pa || !(lost || corrected) then s
  else
    let s1 := if lost then poisonDdr pa fresh s else s
    countPage lost pa (faultEvent 3 (208 + subchannel s1 pa) (if lost then 0x01 else 0) 0 (pa / 64 * 64) lost s1)

/-- A larder error at a cell of a bank (R434): counted for the bank; a cell that cannot be corrected becomes POISON. -/
def larderError (b i : Nat) (uncorr : Bool) (s : State) : State :=
  let pa := bankAddr b i
  if (memCell s pa).tag = tagPoison then s
  else
    let s1 := if uncorr then memPut pa (cellPoison 0x04 pa) s else s
    faultEvent 5 (216 + b) (if uncorr then 0x04 else 0) (i / 64) pa uncorr s1

/-! ### Banks (R193, R194) -/

def LarderBank.fresh : LarderBank := { target := none, remap := [], good := [], bad := [], urgent := [], turn := 0 }
def getBank (s : State) (b : Nat) : LarderBank := sparseGet (fun _ => LarderBank.fresh) s.larder b
def modBank (b : Nat) (f : LarderBank → LarderBank) (s : State) : State := { s with larder := recPut b (f (getBank s b)) s.larder }

/-- A bank is the TCB bank of a partition that is not FREE. -/
def isTcbBank (s : State) (b : Nat) : Bool :=
  (List.range 8).any (fun p => fget s fldGLB_PART_CTL_STATE p != 0 && fget s fldGLB_PART_CTL_TCBBANK p == b)

/-- A bank must stay ON. -/
def bankStays (s : State) (b : Nat) : Bool :=
  decide (2 ≤ fget s fldLARD_BANK_CTL_ROLE b) || isTcbBank s b || bankAdmitted s b

/-- The domain of a bank's group is ON (R425). -/
def groupOn (s : State) (b : Nat) : Bool := fget s fldPWR_DOM_CTL_PST (9 + b / 8) == 1

/-- A write of PREQ (R193). -/
def requestBank (b preq : Nat) (s : State) : State :=
  let pst := fget s fldLARD_BANK_CTL_PST b
  let refuse := fset fldLARD_BANK_CTL_REFUSED b 1 s
  if preq = 3 || pst = 3 then refuse
  else if preq = pst then s
  else if (preq != 0 && bankStays s b) || !groupOn s b then refuse
  else modBank b (fun x => { x with target := some preq })
    (fset fldLARD_BANK_CTL_PST b 3 (fset fldLARD_BANK_CTL_PREQ b preq s))

/-- LARDER_POWER_REQUEST (R193). -/
def execLarderPowerRequest (b : Fin 64) (preq : BitVec 2) (s : State) : Host.Outcome State Fault Refusal :=
  .next (requestBank b.val preq.toNat s)

/-- The cells of a bank read VOID. -/
def voidBank (b : Nat) (s : State) : State :=
  let lo := bankAddr b 0 / 8
  { s with mem := s.mem.filter (fun p => decide (p.1 < lo) || decide (lo + 32768 ≤ p.1)) }

/-- A bank goes OFF: its contents and its soft repairs are lost (R193, R196); a spare that has failed stays unused. -/
def bankOff (b : Nat) (s : State) : State :=
  fset fldLARD_BANK_CTL_SPARES b 0 (modBank b (fun x => { LarderBank.fresh with turn := x.turn, bad := x.bad }) (voidBank b s))

/-- LARDER_TRANSITION_DONE (R193): the path from OFF to any state passes through ON, with every cell written VOID. -/
def execLarderTransitionDone (b : Fin 64) (s : State) : Host.Outcome State Fault Refusal :=
  match (getBank s b.val).target with
  | none => .next s
  | some t =>
    let s1 := fset fldLARD_BANK_CTL_PST b.val t (modBank b.val (fun x => { x with target := none }) s)
    .next (if t = 2 then bankOff b.val s1 else s1)

/-- A write of an interleave key takes effect only while the cluster's banks are all POOL. -/
def writeLardKey (c key : Nat) (s : State) : State :=
  if (List.range 8).all (fun i => fget s fldLARD_BANK_CTL_ROLE (8 * c + i) == 0) then fset fldLARD_HASH_KEY_KEY c key s
  else s

/-- LARD_HASH_KEY_WRITE (R194). -/
def execLardHashKeyWrite (c : Fin 8) (key : BitVec 36) (s : State) : Host.Outcome State Fault Refusal :=
  .next (writeLardKey c.val key.toNat s)

/-! ### DARNING (R195, R196) -/

/-- The remap of a row whose step failed (R196): into a good spare, or none is left. -/
def remapRow (b row : Nat) (s : State) : State :=
  let x := getBank s b
  match x.good with
  | g :: rest =>
    let s1 := modBank b (fun y => { y with
      good := rest
      bad := (y.remap.filter (fun p => p.1 == row)).map (fun p => p.2) ++ y.bad
      remap := recPut row g y.remap }) s
    fset fldLARD_BANK_CTL_SPARES b (getBank s1 b).remap.length s1
  | [] => logFault ⟨7, 0, 216 + b, 0, 5, row, bankAddr b (64 * row), fget s fldFLT_WSUM_S (216 + b)⟩
      (fset fldLARD_BANK_CTL_FAILED b 1 s)

/-- The test of a spare: one that passes may be used, one that fails never. A spare in use is tested with its row. -/
def testSpare (b g : Nat) (bad : Bool) (s : State) : State :=
  if (getBank s b).remap.any (fun p => p.2 == g) then s
  else modBank b (fun x => { x with
    good := if bad || x.bad.contains g then x.good.filter (fun i => i != g) else insertNat g x.good
    bad := if bad then insertNat g x.bad else x.bad }) s

/-- DARNING_STEP (R195): the next row or spare of a bank is tested, a row that an action asks for going first. `fixed` and
`lost` are the cells corrected and those that could not be; `bad`: a read of the test returned a wrong bit. -/
def execDarningStep (b : Fin 64) (fixed lost : List (Fin 64)) (bad : Bool) (s : State) : Host.Outcome State Fault Refusal :=
  if !(fbit s fldLARD_DARN_CTL_EN 0 && fbit s fldLARD_BANK_CTL_DARN b.val && bankOn s b.val) then .next s
  else
    let x := getBank s b.val
    let row := x.urgent.headD x.turn
    let s1 := modBank b.val (fun y => if y.urgent.isEmpty then { y with turn := (y.turn + 1) % 520 }
      else { y with urgent := y.urgent.drop 1 }) s
    if 512 ≤ row then .next (testSpare b.val (row - 512) bad s1)
    else
      let s2 := fixed.foldl (fun t i => larderError b.val (64 * row + i.val) false t) s1
      let s3 := lost.foldl (fun t i => larderError b.val (64 * row + i.val) true t) s2
      .next (if bad then remapRow b.val row s3 else s3)

/-! ### Skew (R194, R201) -/

/-- A 1 µs window in which at least 256 lines were served and one of eight places served more than half. -/
def skewed (lines : List Nat) : Bool :=
  let total := (lines.take 8).foldl (fun a n => a + n) 0
  decide (256 ≤ total) && (lines.take 8).any (fun n => decide (total < 2 * n))

/-- Windows of the last second, and whether the event is due: more than TH of them, at most once a second. -/
def skewDue (s : State) (old : List Nat) (last : Option Nat) : List Nat × Bool :=
  let l := s.dtime :: old.filter (fun t => decide (s.dtime < t + 2 ^ 64))
  (l, fbit s fldMEM_SKEW_CTL_EV_EN 0 && decide (fget s fldMEM_SKEW_CTL_TH 0 < l.length) &&
    (match last with
      | none => true
      | some t => decide (t + 2 ^ 64 ≤ s.dtime)))

/-- MEM_SKEW_WINDOW (R201): best-effort lines served by each subchannel. -/
def execMemSkewWindow (lines : List Nat) (s : State) : Host.Outcome State Fault Refusal :=
  if !skewed lines then .next s
  else
    let d := skewDue s s.skews s.skewAt
    let s1 := countUp .MEM_SKEW 0 1 { s with skews := d.1 }
    .next (if d.2 then raiseKeeper 0x18 { s1 with skewAt := some s.dtime } else s1)

/-- LARD_SKEW_WINDOW (R194): lines served by each bank of a cluster through its window, under the rule of R201. -/
def execLardSkewWindow (_c : Fin 8) (lines : List Nat) (s : State) : Host.Outcome State Fault Refusal :=
  if !skewed lines then .next s
  else
    let d := skewDue s s.lardSkews s.lardSkewAt
    let s1 := countUp .LARD_SKEW 0 1 { s with lardSkews := d.1 }
    .next (if d.2 then raiseKeeper 0x19 { s1 with lardSkewAt := some s.dtime } else s1)

/-! ### The memory channels (R202 to R204) -/

@[reducible] def memOff : Nat := 0
@[reducible] def memKeyed : Nat := 1
@[reducible] def memTraining : Nat := 2
@[reducible] def memInit : Nat := 3
@[reducible] def memReady : Nat := 4
@[reducible] def memFailed : Nat := 5

def memState (s : State) : Nat := fget s fldMEM_STAT_STATE 0
def setMem (st : Nat) (s : State) : State := fset fldMEM_STAT_STATE 0 st s

/-- DDR_TRAINING_DONE (R202): with the installed size in units of 32 GiB. -/
def execDdrTrainingDone (ok : Bool) (size : Fin 9) (s : State) : Host.Outcome State Fault Refusal :=
  if memState s != memTraining || s.memRecal || (ok && size.val == 0) then .next s
  else if ok then .next (setMem memInit (fset fldMEM_STAT_SIZE 0 size.val s))
  else .next (setMem memFailed s)

/-- Every cell of DDR reads VOID. -/
def voidDdr (s : State) : State := { s with mem := s.mem.filter (fun p => decide (0x4000000000 / 8 ≤ p.1)) }

/-- DDR_INIT_DONE (R202). -/
def execDdrInitDone (ok : Bool) (s : State) : Host.Outcome State Fault Refusal :=
  if memState s != memInit then .next s
  else if ok then .next (setMem memReady (voidDdr s))
  else .next (setMem memFailed s)

/-- DRAM_REFRESH (R203): contents are kept; only time passes. -/
def execDramRefresh (_sub : Fin 8) (s : State) : Host.Outcome State Fault Refusal := .next s

/-- DRAM_TEMP_ALERT (R203): above 85 °C refresh runs at double rate. -/
def execDramTempAlert (hot : Bool) (s : State) : Host.Outcome State Fault Refusal :=
  .next (fset fldMEM_STAT_HOT 0 hot.toNat s)

/-- PATROL_SCRUB (R204): one line is read and rewritten, corrected, with the cells that cannot be corrected as POISON. -/
def execPatrolScrub (line : BitVec 32) (bad : BitVec 8) (corrected : Bool) (s : State) : Host.Outcome State Fault Refusal :=
  let pa := line.toNat * 64
  if memState s = memReady && fbit s fldMEM_SCRUB_CTL_EN 0 && (regionOf s pa == .ddr) then .next (ddrError pa bad corrected s)
  else .next s

end Sys2Proof.Machine
end

