-- ==== Sys2Proof/Machine/Clocks.lean ====
section
/-!
DEFINITION. Machine/Clocks.lean: PLLs, clock domains, the ratio rules, spread, monitors and coast (R408 to R421) of
17_clocks.md, and the pulses of SYNC_OUT that time brings (R259). Frequencies are counted in 2^-24 Hz.
-/

namespace Sys2Proof.Machine

/-! ### Frequencies (R408, R410, R411) -/

/-- The PLL of a domain; FIRC domains name 6. -/
def domPll (d : Nat) : Nat :=
  [0, 0, 0, 0, 1, 1, 1, 1, 2, 2, 2, 2, 2, 5, 5, 4, 4, 2, 6, 3, 3, 6, 6, 2, 2].getD d 6

/-- The domains a PLL feeds. -/
def pllDomains (k : Nat) : List Nat := (List.range 25).filter (fun d => domPll d == k)

def mega : Nat := 1000000 * 2 ^ 24
def fircFreq : Nat := 320 * mega

/-- A PLL's coast VCO and VCO range (R410). -/
def coastVco (k : Nat) : Nat := [2400, 2400, 3000, 3200, 3000, 3500].getD k 0 * mega
def vcoRange (k : Nat) : Nat × Nat :=
  let r := [(2400, 3600), (2400, 3600), (3000, 4000), (3200, 5600), (3125, 3125), (3500, 4500)].getD k (0, 0)
  (r.1 * mega, r.2 * mega)

/-- The frequency of a reference: XA, or XB as strapped. -/
def refFreq (s : State) (ref : Nat) : Nat := if ref = 1 && fbit s fldCLK_STAT_XB_MODE 0 then 10000000 else 25000000

/-- VCO of a reference and multiplier. -/
def vcoOf (s : State) (ref nint frac : Nat) : Nat := refFreq s ref * (nint * 2 ^ 24 + frac)
/-- VCO as configured, and as it is: in coast the loop is open (R418). -/
def vcoSet (s : State) (k : Nat) : Nat :=
  vcoOf s (fget s fldCLK_PLL_CFG_REF k) (fget s fldCLK_PLL_CFG_NINT k) (fget s fldCLK_PLL_CFG_FRAC k)
def coasts (s : State) (k : Nat) : Bool := fbit s fldCLK_PLL_CFG_COAST k
def vcoNow (s : State) (k : Nat) : Nat := if coasts s k then coastVco k else vcoSet s k

/-- The divider in force (R411, R428). -/
def domDiv (s : State) (d : Nat) : Nat :=
  if d = 15 then 8
  else match s.throttled.find? (fun p => p.1 == d) with
    | some p => max 1 p.2
    | none => max 1 (fget s fldCLK_DOM_SEL_DIV d)
def onFirc (s : State) (d : Nat) : Bool := domPll d == 6 || fget s fldCLK_DOM_SEL_SRC d == 1

/-- The fraction of a PLL's frequency that remains at the lowest instant of its spread, in thousandths (R416). -/
def spreadLow (s : State) (k : Nat) : Nat :=
  if k < 3 && fbit s fldCLK_PLL_SS_SSEN k && !coasts s k then 1000 - min 20 (fget s fldCLK_PLL_SS_DEPTH k) else 1000

/-- Thousandths of the source frequency of a domain, at its highest and at its lowest instant. -/
def srcHigh (s : State) (d : Nat) : Nat := 1000 * (if onFirc s d then fircFreq else vcoNow s (domPll d))
def srcLow (s : State) (d : Nat) : Nat :=
  if onFirc s d then 1000 * fircFreq else spreadLow s (domPll d) * vcoNow s (domPll d)

/-! ### The ratio rules (R412) -/

/-- Domain `a`, times n, never runs slower than domain `b`, times m: domains of one source keep their ratio at every
instant. A domain whose clock is stopped for a switch breaks no rule (R413). -/
def neverBelow (s : State) (a n b m : Nat) : Bool :=
  let same := onFirc s a == onFirc s b && (onFirc s a || domPll a == domPll b)
  (s.switching.any (fun p => p.1 == a || p.1 == b)) ||
  decide (srcHigh s b * m * domDiv s a ≤ (if same then srcHigh s a else srcLow s a) * n * domDiv s b)

/-- The rules the device's behaviour rests on. -/
def ratioOk (s : State) : Bool :=
  (List.range 8).all (fun c => neverBelow s 8 2 c 1) && neverBelow s 8 1 9 1 && neverBelow s 8 1 24 4 &&
  neverBelow s 20 1 19 4 && neverBelow s 19 4 20 1 && neverBelow s 8 1 12 1 && neverBelow s 8 1 11 1

/-- The outcome of a change of clocks: where a rule breaks, the device's behaviour is undefined (R412). -/
def clocked (s : State) : Host.Outcome State Fault Refusal := if ratioOk s then .next s else .fault .ratioRule

/-! ### Domain switches (R411, R413, R414) -/

/-- Maximum frequency of a domain in MHz × 1000 (R411). -/
def domMax (d : Nat) : Nat :=
  ([1600, 1600, 1600, 1600, 1600, 1600, 1600, 1600, 1000, 1000, 1000, 800, 800, 500].map (fun n => n * 1000) ++
   [409600, 390625, 390625, 1000000, 20000, 700000, 2800000, 320000, 40000, 200000, 250000]).getD d 0

/-- A source frequency and a divider exceed a domain's maximum. SAMPLE has the fixed divider 625/64. -/
def tooFast (d freq div : Nat) : Bool :=
  if d = 14 then false else decide (domMax d * (mega / 1000) * max 1 div < freq)

/-- FIRC may not drive these domains. -/
def noFirc (d : Nat) : Bool := [15, 16, 17, 19, 20].contains d

/-- The AVS rail of a CORE domain has failed: its frequency may not be raised (R423). -/
def railBars (s : State) (d src div : Nat) : Bool :=
  let now := if onFirc s d then fircFreq else vcoSet s (domPll d)
  let new := if src = 1 then fircFreq else vcoSet s (domPll d)
  decide (d < 8) && fbit s fldPWR_AVS_FAULT (d / 4) && decide (now * max 1 div < new * domDiv s d)

/-- A write to CLK_DOM_SEL[d] that would change SRC or DIV is refused. -/
def switchRefused (s : State) (d src div : Nat) : Bool :=
  decide (2 ≤ src) || domFixed d || (src == 1 && noFirc d) ||
  ((d == 19 || d == 20) && decide (2 ≤ memState s)) ||
  tooFast d (if src = 1 then fircFreq else vcoSet s (domPll d)) div || domPinned s d || railBars s d src div

/-- A write of SRC and DIV (R413). SAMPLE, SFLTX and SFLRX have no DIV. -/
def switchDomain (who : Agent) (d : Nat) (v : Word) (s : State) : State :=
  let src := bitsOf v 1 0
  let div := if d = 14 || d = 15 || d = 16 then 0 else bitsOf v 7 2
  let old := (fget s fldCLK_DOM_SEL_SRC d, fget s fldCLK_DOM_SEL_DIV d)
  if !isKeeper s who || fbit s fldCLK_CTL_LOCK 0 || fbit s fldCLK_DOM_SEL_SWITCHING d then s
  else if s.throttled.any (fun p => p.1 == d) then s
  else if domFixed d then fset fldCLK_DOM_SEL_REFUSED d 1 s
  else if (src, div) = old then s
  else if switchRefused s d src div then fset fldCLK_DOM_SEL_REFUSED d 1 s
  else fset fldCLK_DOM_SEL_SWITCHING d 1 { s with switching := recPut d (src, div) s.switching }

/-- DOMAIN_SWITCH (R413). -/
def execDomainSwitch (who : Agent) (d : Fin 25) (value : BitVec 32) (s : State) : Host.Outcome State Fault Refusal :=
  .next (switchDomain who d.val (value.zeroExtend 64) s)

/-- DOMAIN_SWITCH_DONE (R413): the clock restarts. -/
def execDomainSwitchDone (d : Fin 25) (s : State) : Host.Outcome State Fault Refusal :=
  match s.switching.find? (fun p => p.1 == d.val) with
  | none => .next s
  | some (_, src, div) =>
    clocked (fset fldCLK_DOM_SEL_SWITCHING d.val 0 (fset fldCLK_DOM_SEL_DIV d.val div (fset fldCLK_DOM_SEL_SRC d.val src
      { s with switching := s.switching.filter (fun p => p.1 != d.val) })))

/-! ### PLLs (R410, R415, R416, R419) -/

/-- A PLL is pinned while a domain it feeds is (R414). -/
def pllPinned (s : State) (k : Nat) : Bool := (pllDomains k).any (domPinned s)
/-- A domain selects the PLL. -/
def pllUsed (s : State) (k : Nat) : Bool := (pllDomains k).any (fun d => !onFirc s d)
def refusePll (k : Nat) (s : State) : State := fset fldCLK_PLL_CFG_REFUSED k 1 s
/-- LOCK of a PLL. -/
def setLockBit (k : Nat) (b : Bool) (s : State) : State := fset fldCLK_STAT_LOCK 0 (nput (fget s fldCLK_STAT_LOCK 0) k k b.toNat) s
def pllLocked (s : State) (k : Nat) : Bool := nbits (fget s fldCLK_STAT_LOCK 0) k k == 1
/-- A PLL relocks: LOCK reads 0 until PLL_LOCK. -/
def startLock (k : Nat) (s : State) : State := setLockBit k false { s with locking := insertNat k s.locking }

/-- A write of REF, NINT and FRAC (R410, R411, R414, R415). PLLF's NINT is read-only, and only PLLA has FRAC. -/
def configPll (who : Agent) (k : Nat) (v : Word) (s : State) : State :=
  let ref := bitsOf v 1 0
  let nint := if k = 4 then fget s fldCLK_PLL_CFG_NINT k else bitsOf v 10 2
  let frac := if k = 5 then bitsOf v 34 11 else 0
  let new := vcoOf s ref nint frac
  if !isKeeper s who || fbit s fldCLK_CTL_LOCK 0 then s
  else if ref = fget s fldCLK_PLL_CFG_REF k && nint = fget s fldCLK_PLL_CFG_NINT k && frac = fget s fldCLK_PLL_CFG_FRAC k then s
  else if 2 ≤ ref || (ref = 1 && k != 5) || new < (vcoRange k).1 || (vcoRange k).2 < new || pllPinned s k ||
      (if k = 3 then decide (2 ≤ memState s) else pllUsed s k) ||
      (pllDomains k).any (fun d => !onFirc s d && tooFast d new (domDiv s d)) then refusePll k s
  else
    let s1 := fset fldCLK_PLL_CFG_FRAC k frac (fset fldCLK_PLL_CFG_NINT k nint (fset fldCLK_PLL_CFG_REF k ref s))
    if pllLocked s k then startLock k s1 else s1

/-- PLL_RECONFIG (R415). -/
def execPllReconfig (who : Agent) (k : Fin 6) (value : Word) (s : State) : Host.Outcome State Fault Refusal :=
  clocked (configPll who k.val value s)

/-- The reference of a PLL reads good at its monitor (R417). -/
def refGood (s : State) (k : Nat) : Bool := !s.clkBad.contains (2 + fget s fldCLK_PLL_CFG_REF k)
/-- Bit k of PLL_FAIL. -/
def pllFailed (s : State) (k : Nat) : Bool := nbits (fget s fldCLK_STAT_PLL_FAIL 0) k k == 1

/-- RELOCK (R419): PLLC0 and PLLC1, when PLLS has forced them, relock with it and no sooner. -/
def relockPll (who : Agent) (k : Nat) (s : State) : State :=
  if !isKeeper s who || !coasts s k then s
  else if !refGood s k || (k < 2 && coasts s 2) then refusePll k s
  else
    let s1 := startLock k s
    if k != 2 then s1
    else ([0, 1].filter (fun j => coasts s j && !pllFailed s j)).foldl (fun t j => startLock j t) s1

/-- PLL_RELOCK (R419). -/
def execPllRelock (who : Agent) (k : Fin 6) (_value : Word) (s : State) : Host.Outcome State Fault Refusal :=
  .next (relockPll who k.val s)

/-- A PLL locks (R410, R419): LOCK reads 1 and coast ends. -/
def pllLocks (k : Nat) (s : State) : State :=
  if s.locking.contains k then
    fset fldCLK_PLL_CFG_COAST k 0 (setLockBit k true { s with locking := s.locking.filter (fun j => j != k) })
  else s

/-- A write of CLK_PLL_SS (R416): a change that touches a pinned PLL is refused. -/
def writeSpread (who : Agent) (k : Nat) (v : Word) (s : State) : State :=
  let new := putBits (getReg s .CLK_PLL_SS k) 11 0 (bitsOf v 11 0)
  if !isKeeper s who || fbit s fldCLK_CTL_LOCK 0 || 3 ≤ k || new = getReg s .CLK_PLL_SS k then s
  else if pllPinned s k then refusePll k s
  else setReg .CLK_PLL_SS k new s

/-- SPREAD_CONFIG (R416). -/
def execSpreadConfig (who : Agent) (k : Fin 6) (value : BitVec 32) (s : State) : Host.Outcome State Fault Refusal :=
  clocked (writeSpread who k.val (value.zeroExtend 64) s)

/-! ### Monitors and coast (R417, R418, R420) -/

/-- A PLL runs: locked, on its way to lock, or in coast. -/
def pllRuns (s : State) (k : Nat) : Bool := pllLocked s k || coasts s k || s.locking.contains k

/-- A PLL's loop opens. -/
def coastPll (k : Nat) (s : State) : State :=
  fset fldCLK_PLL_CFG_COAST k 1 (setLockBit k false { s with locking := s.locking.filter (fun j => j != k) })

/-- PLLD: the DRAM enters self-refresh until relock and recalibration; PLLF: every lane fails; PLLA: device time counts
FIRC, and every ENC, MAINS and SYNC source becomes LOST. -/
def coastEffects (k : Nat) (s : State) : State :=
  if k = 2 then [0, 1].foldl (fun t j => if pllRuns t j then coastPll j t else t) s
  else if k = 3 then (if memState s = memReady then setMem memTraining { s with memRecal := true } else s)
  else if k = 4 then (List.range 8).foldl (fun t l => if laneState t l = laneOff then t else setLane l laneFailed t) s
  else if k = 5 then
    (List.range 15).foldl (fun t i =>
      if srcOn t i && decide (srcType t i ≤ typSync) then setSrcState i srcLost t else t) (setDstate 3 s)
  else s

/-- A flag of CLK_STAT sets: CLK_FAIL, and the CLOCK trigger for PLLS, PLLA, PLLF and what feeds them (R325, R417). -/
def setClkFlag (i : Nat) (s : State) : State :=
  let old := bitsOf (getReg s .CLK_STAT 0) i i
  if old = 1 then s
  else
    let s1 := raiseKeeper 0x10 (setReg .CLK_STAT 0 (putBits (getReg s .CLK_STAT 0) i i 1) s)
    if i = 2 || (i = 3 && fget s fldCLK_PLL_CFG_REF 5 = 1) || i = 6 || i = 8 || i = 9 then deviceTrigger 2 s1 else s1

/-- A PLL fails: its flag, coast, and what follows. -/
def failPll (k : Nat) (s : State) : State :=
  if !pllRuns s k then s
  else
    let s1 := setClkFlag (4 + k) s
    if coasts s1 k && !s1.locking.contains k then s1 else coastEffects k (coastPll k s1)

/-- The PLLs a failed source feeds. -/
def fedBy (s : State) (m : Nat) : List Nat :=
  if m = 2 || m = 3 then (List.range 6).filter (fun k => fget s fldCLK_PLL_CFG_REF k == m - 2)
  else if 4 ≤ m then [m - 4] else []

/-- CLOCK_MONITOR_FAIL (R417, R418): monitor m (0 FIRC, 1 SIRC, 2 XA, 3 XB, 4 + k PLL k) finds its clock out of band, or
good again. A flag stays until the keeper clears it. -/
def execClockMonitorFail (m : Fin 10) (bad : Bool) (s : State) : Host.Outcome State Fault Refusal :=
  if !bad then .next { s with clkBad := s.clkBad.filter (fun i => i != m.val) }
  else if 4 ≤ m.val && !pllRuns s (m.val - 4) then .next s
  else
    let s1 := { s with clkBad := insertNat m.val s.clkBad }
    let s2 := if m.val < 4 then setClkFlag m.val s1 else s1
    clocked ((fedBy s2 m.val).foldl (fun t k => failPll k t) s2)

/-- The flags of CLK_STAT that a W1C may clear: a condition that persists, or a PLL in coast, keeps its flag (R417). -/
def clearableFlags (s : State) : Nat :=
  (List.range 10).foldl (fun a i =>
    if s.clkBad.contains i || (decide (4 ≤ i) && coasts s (i - 4)) then a else a + 2 ^ i) 0

/-! ### Device time (R246, R420) -/

/-- The frequency of the PHASE clock, or of FIRC while PLLA coasts, in 2^-24 Hz, with its divider. -/
def phaseClock (s : State) : Nat × Nat :=
  (if onFirc s 13 || coasts s 5 then fircFreq else vcoSet s 5, domDiv s 13)

/-- What one PHASE cycle adds to device time, in 2^-64 s: the rate divided by the clock's nominal frequency. -/
def phaseTick (s : State) : Nat :=
  let c := phaseClock s
  (((2 ^ 64 + s.dtRate * 500000000) * (c.2 : Int) * 2 ^ 24) / (max 1 c.1 : Nat)).toNat

/-! ### Pulses of SYNC_OUT by time and phase (R259) -/

/-- The distance a source of phase `y` goes before it reaches the next phase k/DIV in the direction of its rate, in
2^-96 / DIV rev. -/
def toNextMark (y rate : Int) (div : Nat) : Nat :=
  let r := (y * (div : Int)) % 2 ^ 96
  if r = 0 then 0 else if 0 < rate then (2 ^ 96 - r).toNat else r.toNat

/-- The instant of a DIVIDED pulse in the present PHASE cycle: SRC is LOCKED and reaches a phase k/DIV in it. -/
def dividedAt (s : State) : Option Nat :=
  let i := fget s fldPHASE_SYNCOUT_CTL_SRC 0
  let div := max 1 (fget s fldPHASE_SYNCOUT_DIV_DIV 0)
  match (if srcState s i = srcLocked then estimate s i else none) with
  | none => none
  | some (y, rate, _) =>
    let dt := toNextMark y rate div / (div * max 1 rate.natAbs)
    if rate = 0 || phaseTick s ≤ dt then none else some (s.dtime + dt)

/-- The instant of a PPS pulse in the present PHASE cycle: a whole second of device time. -/
def ppsAt (s : State) : Option Nat :=
  let t := (s.dtime + 2 ^ 64 - 1) / 2 ^ 64 * 2 ^ 64
  if t < s.dtime + phaseTick s then some t else none

/-- SYNC_OUT_PULSE (R259): the pulse of DIVIDED or PPS mode that is due in the present PHASE cycle. -/
def execSyncOutPulse (s : State) : Host.Outcome State Fault Refusal :=
  let mode := fget s fldPHASE_SYNCOUT_CTL_MODE 0
  match (if mode = 2 then dividedAt s else if mode = 3 then ppsAt s else none) with
  | some t => .next (syncPulse t s)
  | none => .next s

end Sys2Proof.Machine
end

