-- ==== Sys2Proof/Machine/ClusterReset.lean ====
section
/-!
DEFINITION. Machine/ClusterReset.lean: what a cluster reset does (R140, R190, R430, R432), the load of the control stores of
a cluster (R395), and which registers a reset scope clears (R430, R464).
-/

namespace Sys2Proof.Machine

/-! ### Registers by scope (R8, R430) -/

/-- The register a key of `State.regs` belongs to, and its index. -/
def keyReg (key : Nat) : Reg × Nat := (Reg.all.getD (key / 65536) .GLB_ID, key % 65536)

/-- A register's value where its RWS fields are kept and the others return to reset (R8). -/
def keepRws (r : Reg) (i : Nat) (v : Word) : Word :=
  r.desc.fields.foldl (fun w f => if f.acc = .rws then putBits w f.hi f.lo (bitsOf v f.hi f.lo) else w) (regReset r i)

/-- The registers that `pick` selects return to their reset values; `rws`: their RWS fields are kept. -/
def clearRegs (pick : Reg → Nat → Bool) (rws : Bool) (s : State) : State :=
  { s with regs := s.regs.foldl (fun m p =>
      let r := keyReg p.1
      if pick r.1 r.2 then sparsePut regDefault p.1 (if rws then keepRws r.1 r.2 p.2 else regDefault p.1) m else m) s.regs }

/-- The registers of cluster scope of cluster `cl`. -/
def clusterReg (cl : Nat) (r : Reg) (i : Nat) : Bool :=
  match r with
  | .CLU_DISP_BLOST => i == cl
  | .CLU_CORE_BOOT => i / 8 == cl
  | _ => false

/-! ### Cluster reset -/

/-- The cores of a cluster stop at once. -/
def stopCluster (cl : Nat) (s : State) : State :=
  (List.range 8).foldl (fun t i => modCore (8 * cl + i) (fun c => { c with run := false }) t) s

/-- The effect of a cluster reset (R140, R190, R432): the messages in the cluster's slots are lost and counted, every core is
reset, the L2 is cleaned and invalidated; its locks and owners stay. -/
def clusterReset (cl : Nat) (s : State) : State :=
  let s1 := clearRegs (clusterReg cl) false s
  let n := (s1.mail.filter (fun m => m.cluster == cl)).length
  let s2 := countUp .CLU_DISP_BLOST cl n { s1 with mail := s1.mail.filter (fun m => m.cluster != cl) }
  let s3 := (List.range 8).foldl (fun t i => resetCore (8 * cl + i) t) s2
  cleanCaches (fun c => c == l2Of cl) s3

/-! ### Control stores (R395) -/

/-- The bytes of a SHA-256 value. -/
def sha (m : List (BitVec 8)) : List (BitVec 8) := (List.range 32).map (Config.sha256 m)

/-- A number from bytes, least significant first. -/
def bytesLe : List (BitVec 8) → Nat
  | [] => 0
  | b :: l => b.toNat + 256 * bytesLe l

/-- A SHA-256 value goes into the four words of a register, byte 0 in the low byte of the first. -/
def putHash (r : Reg) (i : Nat) (h : List (BitVec 8)) (s : State) : State :=
  (List.range 4).foldl (fun t j => setReg r (4 * i + j) (w64 (bytesLe ((h.drop (8 * j)).take 8))) t) s

/-- MCVER of an image: bytes 0 to 3 of PHASH, byte 0 on top, and the version. -/
def mcverOf (g : Image) : Word :=
  w64 (bytesLe ((g.phash.take 4).reverse) + g.version / 2 ^ 16 % 2 ^ 16 * 2 ^ 32 + g.version / 2 ^ 8 % 2 ^ 8 * 2 ^ 48 +
    g.version % 2 ^ 8 * 2 ^ 56)

/-- SEC_MEAS_MC: over the PHASH of the microcode of clusters 0 to 7, in order (R404). -/
def measureMc (s : State) : State :=
  putHash .SEC_MEAS_MC 0 (sha ((List.range 8).flatMap (fun cl => sparseGet (fun _ => []) s.boot.loaded cl))) s

/-- The control stores of a cluster are loaded from an image (R395). -/
def loadMicro (g : Image) (cl : Nat) (s : State) : State :=
  let s1 := (List.range 8).foldl (fun t i => modCore (8 * cl + i) (fun c => { c with mcver := mcverOf g }) t) s
  measureMc { s1 with boot := { s1.boot with loaded := sparsePut (fun _ => []) cl g.phash s1.boot.loaded } }

/-- The current microcode image, where there is one, goes into a cluster. -/
def reloadMicro (cl : Nat) (s : State) : State :=
  match s.boot.mcode with
  | some g => loadMicro g cl s
  | none => s

end Sys2Proof.Machine
end

