-- ==== Sys2Proof/Machine/Control.lean ====
section
/-!
DEFINITION. Machine/Control.lean: branches and jumps (R66 to R71, R98), TRAP and RETX (R98, R107, R120), and the
register windows (R55 to R58).
-/

namespace Sys2Proof.Machine

/-! ### Conditional branches (R67, R70) -/

/-- The target of a B or T branch: its own address plus 4 * displacement (R67). -/
def branchTarget (s : State) (k : CoreId) {n : Nat} (disp : BitVec n) : Word :=
  (front s k.val).pc + 4 * sext disp

/-- A conditional branch that retires trains its predictor, after what a wrong prediction of it leaves (R73, R74, R77); a
taken one with a = 1 annuls its slot (R70). -/
def condBranch (s : State) (k : CoreId) (annul hint taken : Bool) {n : Nat} (disp : BitVec n) :
    Except Trap (State × Flow) :=
  let wrong := predictsTaken (getCore s k.val) disp.toInt hint != taken
  .ok (trainDir k.val taken (redirect k.val wrong s), .branch taken (!(annul && taken)) (branchTarget s k disp))

/-- BTAG and BNTAG compare the tag of ra, or its class when m = 1; not a use (R66, R89). -/
def tagBranch (k : CoreId) (annul hint : Bool) (ra : Gpr) (m : Bool) (tag : BitVec 8) (disp : BitVec 10) (want : Bool) :
    Body := fun s =>
  let t := (readReg s k.val ra).tag
  let same := if m then tagClass t == tagClass tag else t == tag
  notInSlot s k (condBranch s k annul hint (same == want) disp)

/-- A use of ra by a branch condition: any tag (0x2, 0x3), or a number or measurand (0x4 to 0xA). -/
def condOpnd (s : State) (k : CoreId) (ra : Gpr) (value : Bool) : Opnd :=
  opTags s k.val ra (fun t => !value || isNumber t || isMeas t)

/-- The value a condition compares with zero. -/
def condValue (c : Cell) : FV := if isMeas c.tag then fvOfMeas c.data else numVal c

/-- A B branch under a condition on the cell of ra. -/
def regBranch (k : CoreId) (annul hint : Bool) (ra : Gpr) (disp : BitVec 15) (value : Bool) (cond : Cell → Bool) :
    Body := fun s =>
  notInSlot s k (withOps [condOpnd s k ra value]
    (condBranch s k annul hint (cond (readReg s k.val ra)) disp))

/-- The order of a value and zero; none for a NaN. -/
def cmpZero (c : Cell) : Option Ordering := fvCmp (condValue c) (fvInt 0 1)

def execBtag (k : CoreId) (annul hint : Bool) (ra : Gpr) (m : Bool) (tag : BitVec 8) (disp : BitVec 10) (s : State) :
    Host.Outcome State Fault Refusal :=
  runInstr k (tagBranch k annul hint ra m tag disp true) s
def execBntag (k : CoreId) (annul hint : Bool) (ra : Gpr) (m : Bool) (tag : BitVec 8) (disp : BitVec 10) (s : State) :
    Host.Outcome State Fault Refusal :=
  runInstr k (tagBranch k annul hint ra m tag disp false) s
/-- BA: always taken; with a = 1 its slot is annulled. It trains nothing (R70, R73). -/
def execBa (k : CoreId) (annul _hint : Bool) (_ra : Gpr) (disp : BitVec 15) (s : State) :
    Host.Outcome State Fault Refusal :=
  runInstr k (fun s => notInSlot s k (.ok (s, .branch true (!annul) (branchTarget s k disp)))) s
/-- BN: never taken; its slot executes (R70). -/
def execBn (k : CoreId) (_annul _hint : Bool) (_ra : Gpr) (disp : BitVec 15) (s : State) :
    Host.Outcome State Fault Refusal :=
  runInstr k (fun s => notInSlot s k (.ok (s, .branch false true (branchTarget s k disp)))) s
def execBnil (k : CoreId) (annul hint : Bool) (ra : Gpr) (disp : BitVec 15) (s : State) :
    Host.Outcome State Fault Refusal :=
  runInstr k (regBranch k annul hint ra disp false (fun c => c.tag == tagNil)) s
def execBnnil (k : CoreId) (annul hint : Bool) (ra : Gpr) (disp : BitVec 15) (s : State) :
    Host.Outcome State Fault Refusal :=
  runInstr k (regBranch k annul hint ra disp false (fun c => c.tag != tagNil)) s
def execBz (k : CoreId) (annul hint : Bool) (ra : Gpr) (disp : BitVec 15) (s : State) :
    Host.Outcome State Fault Refusal :=
  runInstr k (regBranch k annul hint ra disp true (fun c => cmpZero c == some .eq)) s
def execBnz (k : CoreId) (annul hint : Bool) (ra : Gpr) (disp : BitVec 15) (s : State) :
    Host.Outcome State Fault Refusal :=
  runInstr k (regBranch k annul hint ra disp true (fun c => cmpZero c != some .eq)) s
def execBltz (k : CoreId) (annul hint : Bool) (ra : Gpr) (disp : BitVec 15) (s : State) :
    Host.Outcome State Fault Refusal :=
  runInstr k (regBranch k annul hint ra disp true (fun c => cmpZero c == some .lt)) s
def execBgez (k : CoreId) (annul hint : Bool) (ra : Gpr) (disp : BitVec 15) (s : State) :
    Host.Outcome State Fault Refusal :=
  runInstr k (regBranch k annul hint ra disp true (fun c => cmpZero c == some .gt || cmpZero c == some .eq)) s
def execBlez (k : CoreId) (annul hint : Bool) (ra : Gpr) (disp : BitVec 15) (s : State) :
    Host.Outcome State Fault Refusal :=
  runInstr k (regBranch k annul hint ra disp true (fun c => cmpZero c == some .lt || cmpZero c == some .eq)) s
def execBgtz (k : CoreId) (annul hint : Bool) (ra : Gpr) (disp : BitVec 15) (s : State) :
    Host.Outcome State Fault Refusal :=
  runInstr k (regBranch k annul hint ra disp true (fun c => cmpZero c == some .gt)) s
/-- BNAN: taken for a FLO or MEAS NaN. -/
def execBnan (k : CoreId) (annul hint : Bool) (ra : Gpr) (disp : BitVec 15) (s : State) :
    Host.Outcome State Fault Refusal :=
  runInstr k (regBranch k annul hint ra disp true (fun c => (condValue c).isNaN)) s

/-! ### Jumps and calls (R71, R98) -/

/-- The return address of a CALL or linking JMPL: the next cell (R53, R71). -/
def linkCell (s : State) (k : CoreId) : Cell :=
  ⟨tagRetaddr, w64 ((front s k.val).pc.toNat / 8 * 8 + 8)⟩

/-- x0 receives the link, whatever CKMAP holds (R121). -/
def writeLink (s : State) (k : CoreId) : State :=
  modCore k.val (fun c => writeLoc (x0Loc c.front) (linkCell s k) c) s

/-- A jump through a register: what a wrong prediction leaves, then the training (R73, R75, R77). DESIGN CHOICE (log): every
JMP and JMPL trains the table, and a RET where the table predicts it, whether or not the prediction was right. -/
def indirect (k : Nat) (target : Word) (s : State) : State :=
  trainTarget k target (redirect k (wrongTarget (predictsTarget (getCore s k)) target) s)

/-- The target operand of JMP and JMPL. -/
def jumpOpnd (s : State) (k : CoreId) (ra : Gpr) : Opnd :=
  opObject s k.val ra (fun t => t == tagCodeptr || t == tagRetaddr)

/-- A link in slot 1 is illegal (R71); the delay-slot rule comes first. -/
def noSlot1Link (s : State) (k : CoreId) (next : Except Trap (State × Flow)) : Except Trap (State × Flow) :=
  notInSlot s k (guardTrap (bitOf (front s k.val).pc 2) (illegalOp 5) next)

def execNop (k : CoreId) (s : State) : Host.Outcome State Fault Refusal :=
  runInstr k (fun s => .ok (s, .seq)) s
def execJmp (k : CoreId) (ra : Gpr) (s : State) : Host.Outcome State Fault Refusal :=
  runInstr k (fun s =>
    let o := jumpOpnd s k ra
    notInSlot s k (withOps [o] (.ok (indirect k.val o.cell.data s, .branch true true o.cell.data)))) s
def execJmpl (k : CoreId) (ra : Gpr) (s : State) : Host.Outcome State Fault Refusal :=
  runInstr k (fun s =>
    let o := jumpOpnd s k ra
    noSlot1Link s k (withOps [o]
      (.ok (pushReturn k.val (linkCell s k).data (indirect k.val o.cell.data (writeLink s k)),
        .branch true true o.cell.data)))) s
/-- RET reads x0 of the frame, which must be RETADDR (R53, R98, R121). It is predicted from the return stack, and from
the indirect-target table when that is empty (R73). -/
def execRet (k : CoreId) (s : State) : Host.Outcome State Fault Refusal :=
  runInstr k (fun s =>
    let x := front s k.val
    let c := readAt s k.val (x0Loc x)
    let o : Opnd := ⟨18, c, if isReservedTag c.tag then some 3
      else if c.tag = tagRetaddr then (if ptrOk c.data then none else some 2) else some 1⟩
    notInSlot s k (withOps [o]
      (let s1 := if x.rstack.isEmpty then indirect k.val c.data s
        else popReturn k.val (redirect k.val (wrongTarget (predictsReturn (getCore s k.val)) c.data) s)
       .ok (s1, .branch true true c.data)))) s
def execCall (k : CoreId) (disp : BitVec 26) (s : State) : Host.Outcome State Fault Refusal :=
  runInstr k (fun s =>
    let here := w64 ((front s k.val).pc.toNat / 8 * 8)
    noSlot1Link s k
      (.ok (pushReturn k.val (linkCell s k).data (writeLink s k), .branch true true (here + 8 * sext disp)))) s

/-! ### TRAP and RETX -/

/-- TRAP (R98, R107): KCALL at level S or K with detail bit 9, else SOFTWARE. -/
def execTrap (k : CoreId) (detail : BitVec 10) (s : State) : Host.Outcome State Fault Refusal :=
  runInstr k (fun s => notInSlot s k
    (.error (trapOf (if plOf (front s k.val) != 0 && detail.getLsbD 9 then vKcall else vSoftware) detail.toNat))) s

/-- RETX (R120): the checks of step 1, then the return. -/
def execRetx (k : CoreId) (s : State) : Host.Outcome State Fault Refusal :=
  runInstr k (fun s => notInSlot s k
    (match retxCheck (getCore s k.val) with
      | some t => .error t
      | none => .ok (doRetx k.val s, .placed))) s

/-! ### Windows (R55 to R58) -/

/-- The number of valid windows. -/
def validCount (wstat : Word) : Nat := popcount 16 (bitsOf wstat 31 16)

/-- The first window of the run of valid windows that ends at CWP (R57). -/
def bottomWindow (wstat : Word) : Nat :=
  (bitsOf wstat 3 0 + 17 - validCount wstat) % 16

/-- R57: 1 to 15 valid windows forming one run that ends at CWP, and no invalid window dirty. -/
def wstatOk (v : Word) : Bool :=
  let n := validCount v
  let cwp := bitsOf v 3 0
  decide (1 ≤ n) && decide (n ≤ 15) &&
  (List.range n).all (fun i => bitOf v (16 + (cwp + 16 - i) % 16)) &&
  (List.range 16).all (fun i => bitOf v (16 + i) || !bitOf v (32 + i))

/-- The bits of WSTAT that hold something; the others read 0. -/
def wstatMask (v : Word) : Word := putBits (putBits v 63 48 0) 15 4 0

/-- The 12 home cells and the 6 incoming cells of a window, as physical cells. -/
def homeCells (w : Nat) : List Nat := (List.range 12).map (fun i => 8 + 18 * w + 6 + i)
def incomingCells (w : Nat) : List Nat := (List.range 6).map (fun i => 8 + 18 * w + i)

/-- A frame image: incoming, then home (R57). -/
def frameCells (w : Nat) : List Nat := incomingCells w ++ homeCells w

/-- Physical cells take values without touching a dirty bit. -/
def putCells (cs : List (Nat × Cell)) (x : Ctx) : Ctx :=
  { x with cells := cs.foldl (fun m p => sparsePut (fun _ => cellVoid) p.1 p.2 m) x.cells }

/-- The cells of a window frame. -/
def frameOf (x : Ctx) (w : Nat) : List Cell :=
  (frameCells w).map (fun p => sparseGet (fun _ => cellVoid) x.cells p)

/-- ENTER (R55). -/
def execEnter (k : CoreId) (s : State) : Host.Outcome State Fault Refusal :=
  runInstr k (fun s =>
    let x := front s k.val
    let n := (cwpOf x + 1) % 16
    guardTrap (wvalid x n || wvalid x ((n + 1) % 16)) (trapOf vWovf 0)
      (.ok (modFront k.val (fun x =>
        putCells ((homeCells n ++ incomingCells ((n + 1) % 16)).map (fun p => (p, cellVoid)))
          { x with wstat := putBit (putBit (putBits x.wstat 3 0 n) (16 + n) true) (32 + n) true }) s, .seq))) s

/-- LEAVE (R56). -/
def execLeave (k : CoreId) (s : State) : Host.Outcome State Fault Refusal :=
  runInstr k (fun s =>
    let x := front s k.val
    let cwp := cwpOf x
    let w := (cwp + 15) % 16
    guardTrap (!wvalid x w) (trapOf vWunf 0)
      (.ok (modFront k.val (fun x =>
        { x with wstat := putBits (putBit (putBit x.wstat (16 + cwp) false) (32 + cwp) false) 3 0 w }) s, .seq))) s

/-- Whole-cell stores of consecutive cells through translation: the state so far, with the trap of one that faults
(R58). A cell that leaves the heap rules of 09_laundry.md is plain data here: the CELLAR lies outside every rack. -/
def storeFrame (k : Nat) : Word → List Cell → State → State × Option Trap
  | _, [], s => (s, none)
  | va, c :: cs, s =>
    match xlate k (plOf (front s k)) .store va s with
    | .error f => (s, some (xTrap f .store va))
    | .ok (x, s1) => storeFrame k (va + 8) cs (coreStore k x (wholeCell c) s1)

/-- Whole-cell loads of consecutive cells through translation. -/
def loadFrame (k : Nat) : Nat → Word → State → Except (Trap × State) (List Cell × State)
  | 0, _, s => .ok ([], s)
  | n + 1, va, s =>
    match xlate k (plOf (front s k)) .load va s with
    | .error f => .error (xTrap f .load va, s)
    | .ok (x, s1) =>
      let r := coreLoad k x s1
      match loadFrame k n (va + 8) r.2 with
      | .error e => .error e
      | .ok (cs, s') => .ok (r.1 :: cs, s')

/-- CELLAR_LIMIT, which reports CSP (R108). -/
def cellarLimit (detail : Nat) (csp : Word) : Trap := { vec := vCellarLimit, detail := detail, addr := some csp }

/-- SPILLW (R58). The units of the window it stores are scanned first (R218). A store that faults leaves the image cells
already stored and nothing else. -/
def execSpillw (k : CoreId) (s0 : State) : Host.Outcome State Fault Refusal :=
  if canRun s0 k.val then
    let b := bottomWindow (front s0 k.val).wstat
    match scanUnits k.val true (frameUnits (front s0 k.val) ++ [2 + b, 18 + b]) s0 with
    | .error f => .next (takeTrap k.val (xTrap f .load (w64 f.ipa)) s0)
    | .ok s =>
      let x := front s k.val
      if b = cwpOf x then .next (takeTrap k.val (illegalOp 2) s)
      else if x.clim.toNat < x.csp.toNat + 144 then .next (takeTrap k.val (cellarLimit 0 x.csp) s)
      else
        match storeFrame k.val x.csp (frameOf x b) s with
        | (s1, some t) => .next (takeTrap k.val t s1)
        | (s1, none) =>
          .next (finish k.val .seq (modFront k.val (fun y =>
            { y with csp := x.csp + 144
                     wstat := putBit (putBit y.wstat (16 + b) false) (32 + b) false }) s1))
  else .next s0

/-- FILLW (R58). While a cycle runs, the units it writes become unscanned (R218). -/
def execFillw (k : CoreId) (s : State) : Host.Outcome State Fault Refusal :=
  runInstr k (fun s =>
    let x := front s k.val
    let f := (bottomWindow x.wstat + 15) % 16
    guardTrap (validCount x.wstat == 15) (illegalOp 2)
      (guardTrap (decide (x.csp.toNat < x.cbase.toNat + 144)) (cellarLimit 1 x.csp)
        (match loadFrame k.val 18 (x.csp - 144) s with
          | .error e => .error e.1
          | .ok (cs, s1) =>
            .ok (modFront k.val (fun y =>
              markUnits [2 + f, 18 + f] (cycleOn s1 k.val) (putCells ((frameCells f).zip cs)
                { y with csp := x.csp - 144
                         wstat := putBit (putBit y.wstat (16 + f) true) (32 + f) false })) s1, .seq)))) s

end Sys2Proof.Machine
end

