-- ==== Sys2Proof/Machine/Laundry.lean ====
section
/-!
DEFINITION. Machine/Laundry.lean: allocation (R213, R214), SHADE and the root sweep (R218, R219), LAUNDRY's queue (R231)
and its cycles: flips, work, phase ends and the wiping of racks (R208, R215 to R217, R227 to R229).
LAUNDRY works by pieces: a slice does one root, card, rack or object.
-/

namespace Sys2Proof.Machine

/-! ### ALLOC, SHADE, the root sweep -/

/-- PTR tags ALLOC may give (R213). -/
def allocTag (n : Nat) : Bool := (0x40 ≤ n && n ≤ 0x48) || (0x50 ≤ n && n ≤ 0x5F)

/-- A header (R25), with LAUNDRY's bits clear. -/
def headerCell (tag n : Nat) : Cell := ⟨tagHeader, w64 (tag * 2 ^ 56 + n % 2 ^ 32)⟩

/-- The partition's heap window exists and is managed. -/
def heapOn (s : State) (p : Nat) : Bool :=
  fbit s fldLNDR_PART_CTL_EN p && fget s fldLNDR_PART_HEAP_RCOUNT p != 0

/-- The buffer of core `k` holds `size` cells, after a refill if it must; none: no buffer could be had. -/
def allocRoom (k p size : Nat) (s : State) : Option State :=
  let c := getCore s k
  if c.abcur.toNat + 8 * size ≤ c.abend.toNat then some s
  else
    match takeNursery p s with
    | none => none
    | some (a, s1) =>
      some (modCore k (fun c => { c with abcur := w64 a, abend := w64 (a + 8 * 4096) })
        (retireBuffer k p c.abcur.toNat c.abend.toNat s1))

/-- LAUNDRY records the task that takes NURSERY_EMPTY (R214). -/
def recordWaiting (k p : Nat) (s : State) : State :=
  match ctxTask (front s k) with
  | none => s
  | some (_, t) => modLaundry p (fun l => { l with waiting := insertNat t l.waiting }) s

/-- The allocation itself (R213), after the operand checks: the trap with the state it leaves, or the state after. -/
def allocate (k : CoreId) (rd : Gpr) (tag : Nat) (n : Int) (s : State) : Except (Trap × State) State :=
  match partOf s k.val with
  | none => .error (trapOf vAlloc 3, s)
  | some p =>
    if !heapOn s p then .error (trapOf vAlloc 3, s)
    else if tag != 0x40 && (decide (n < 0) || decide (1024 < n)) then .error (trapOf vAlloc 2, s)
    else
      let size := if tag = 0x40 then 2 else n.toNat + 1
      match allocRoom k.val p size s with
      | none => .error (trapOf vAlloc 1, recordWaiting k.val p s)
      | some s1 =>
        let a := (getCore s1 k.val).abcur
        let wrote := if tag = 0x40 then .ok s1 else heapWrite (some k.val) p a.toNat (headerCell tag n.toNat) s1
        match wrote with
        | .error f => .error (xTrap f .store a, s)
        | .ok s2 =>
          .ok (writeReg k.val rd ⟨BitVec.ofNat 8 tag, a⟩
            (modCore k.val (fun c => { c with abcur := a + w64 (8 * size) }) s2))

/-- ALLOC (R213, R214). -/
def execAlloc (k : CoreId) (rd ra rb : Gpr) (s0 : State) : Host.Outcome State Fault Refusal :=
  if canRun s0 k.val then
    match preScan k.val s0 with
    | .error f => .next (takeTrap k.val (xTrap f .load (w64 f.ipa)) s0)
    | .ok s =>
      let a := opTags s k.val ra tagIsFix
      let tag := a.cell.data.toNat
      let a' : Opnd := ⟨a.reg, a.cell, if a.bad.isNone && !allocTag tag then some 1 else a.bad⟩
      let ops := if a'.bad.isNone && tag = 0x40 then [a'] else [a', opTags s k.val rb tagIsFix]
      match checkOps ops with
      | .error t => .next (takeTrap k.val t s)
      | .ok _ =>
        match allocate k rd tag (readReg s k.val rb).data.toInt s with
        | .error (t, s1) => .next (takeTrap k.val t s1)
        | .ok s1 => .next (finish k.val .seq s1)
  else .next s0

/-- SHADE (R219): the register action of the phase on a copy of ra. -/
def execShade (k : CoreId) (rd ra : Gpr) (s : State) : Host.Outcome State Fault Refusal :=
  runInstr k (fun s =>
    let c := readReg s k.val ra
    match partOf s k.val with
    | none => done k rd c s
    | some p =>
      match unitAction (some k.val) p c s with
      | .error f => .error (xTrap f .load c.data)
      | .ok (c', s1) => done k rd c' s1) s

/-- ROOT_SWEEP (R218): one unscanned unit of either context is scanned. -/
def execRootSweep (k : CoreId) (inFront : Bool) (unit : Fin 34) (s : State) : Host.Outcome State Fault Refusal :=
  match scanUnit k.val inFront unit.val s with
  | .error _ => .next s
  | .ok s1 => .next s1

/-! ### Parsing racks (R209) -/

/-- A cell at an IPA as LAUNDRY reads it. -/
def laundryRead (s : State) (p a : Nat) : Cell :=
  match heapRead none p a s with
  | .ok (c, _) => c
  | .error _ => cellPoison 0 0

def laundryWrite (p a : Nat) (c : Cell) (s : State) : State :=
  match heapWrite none p a c s with
  | .ok t => t
  | .error _ => s

/-- The span of the object that starts with a cell (R209). -/
def spanOf (s : State) (p : Nat) (c : Cell) : Nat :=
  if c.tag = tagFiller then max 1 (hdrLen c.data)
  else if c.tag = tagHeader then (if bitsOf c.data 63 56 = 0x40 then 2 else 1 + hdrLen c.data)
  else if c.tag = tagFwd then
    let d := laundryRead s p c.data.toNat
    if d.tag = tagHeader then 1 + hdrLen d.data else 2
  else 2

/-- The objects of a rack: start cell and span, up to TOP; a POISON start ends the walk (R229). -/
def parseRack (s : State) (p i : Nat) : Nat → Nat → List (Nat × Nat)
  | 0, _ => []
  | fuel + 1, c =>
    if (getRack s p i).top ≤ c then []
    else
      let first := laundryRead s p (rackBase s p i + 8 * c)
      if first.tag = tagPoison then []
      else (c, spanOf s p first) :: parseRack s p i fuel (c + spanOf s p first)

def objectsOf (s : State) (p i : Nat) : List (Nat × Nat) := parseRack s p i ((getRack s p i).top) 0

/-- A rack found DAMAGED while it is parsed: partition event 3 with FAIL = DAMAGED (R229). -/
def checkDamage (p i : Nat) (s : State) : State :=
  let r := getRack s p i
  let starts := parseRack s p i r.top 0
  let fin := match starts.getLast? with
    | some (c, n) => c + n
    | none => 0
  if fin < r.top then
    raisePart p 3 (fset fldLNDR_PART_STAT_FAIL p 2 (setRack p i { r with damaged := true } s))
  else s

/-- Objects whose contents are never scanned (R25, R212). -/
def rawObject (n : Nat) : Bool := n == 0x42 || n == 0x46 || n == 0x47 || n == 0x48 || n == 0x49

/-- The cells of a rack that LAUNDRY may scan, as ranges: its objects up to TOP or a POISON start, of a raw object the
header alone. -/
def scannable (s : State) (p i : Nat) : List (Nat × Nat) :=
  (objectsOf s p i).map (fun o =>
    let first := laundryRead s p (rackBase s p i + 8 * o.1)
    (o.1, if first.tag = tagHeader && rawObject (bitsOf first.data 63 56) then 1 else o.2))

/-! ### Scanning -/

/-- A pointer into a CONDEMNED rack is healed: what is neither forwarded nor abandoned becomes VOID (R228). -/
def remapCell (p : Nat) (c : Cell) (s : State) : Cell × State :=
  if isPtr c.tag && filterOf s p c.data.toNat = 3 then
    let first := laundryRead s p c.data.toNat
    if first.tag = tagFwd then (⟨c.tag, first.data⟩, s)
    else if first.tag = tagPoison then (c, damage p c.data.toNat s)
    else if first.tag = tagHeader && hdrAbandon first.data then (c, s)
    else (cellVoid, s)
  else (c, s)

/-- What LAUNDRY does with a cell in a phase (R224, R228). -/
def laundryAction (p : Nat) (c : Cell) (s : State) : Cell × State :=
  if phaseOfPart s p = 4 then remapCell p c s
  else
    match unitAction none p c s with
    | .ok r => r
    | .error _ => (c, s)

/-- One cell of memory, by IPA, takes an action. -/
def actIpa (act : Nat → Cell → State → Cell × State) (p a : Nat) (s : State) : State :=
  let c := laundryRead s p a
  let r := act p c (match fabricXlate s p .load a with
    | .ok pa => agentRead (pa / 64) s
    | .error _ => s)
  if r.1 = c then r.2 else laundryWrite p a r.1 r.2

def scanRange (p a : Nat) (n : Nat) (s : State) : State :=
  (List.range n).foldl (fun t i => actIpa laundryAction p (a + 8 * i) t) s

/-- One cell of memory, by physical address (a TCB). -/
def scanPa (p pa : Nat) (s : State) : State :=
  let c := physRead s pa
  let r := laundryAction p c (agentRead (pa / 64) s)
  if r.1 = c then r.2 else cohPut pa r.1 r.2

/-- The cells of an object, by its first cell's address. -/
def scanObject (p a : Nat) (s : State) : State :=
  let first := laundryRead s p a
  if first.tag = tagFiller || first.tag = tagFwd || first.tag = tagPoison then s
  else if first.tag = tagHeader then
    (if rawObject (bitsOf first.data 63 56) then s else scanRange p (a + 8) (hdrLen first.data) s)
  else scanRange p a 2 s

/-- The messages of a partition: cells 1 to 3 of each (R217). -/
def scanMail (p : Nat) (s : State) : State :=
  (List.range s.mail.length).foldl (fun t i =>
    match t.mail[i]? with
    | none => t
    | some m =>
      if m.part != p then t
      else
        let r := m.cells.drop 1 |>.foldl (fun (acc : List Cell × State) c =>
          let x := laundryAction p c acc.2
          (acc.1 ++ [x.1], x.2)) ([], t)
        { r.2 with mail := r.2.mail.set i { m with cells := m.cells.take 1 ++ r.1 } }) s

/-- The end of a task's CELLAR in use: its CSP, or that of a context that holds it (R217). -/
def cellarEnd (s : State) (p t : Nat) : Nat :=
  (coresOf s p).foldl (fun m k =>
    let c := getCore s k
    let m1 := if ctxTask c.front == some (p, t) then max m c.front.csp.toNat else m
    if ctxTask c.back == some (p, t) then max m1 c.back.csp.toNat else m1) (tcbWord s p t 8).toNat

/-- A dirty card: its bit is cleared, its cells are scanned but for the contents of raw objects, and the bit is set again
for a pointer into a YOUNG rack. -/
def scanCard (p i card : Nat) (s : State) : State :=
  let spans := scannable s p i
  let cells := (List.range 64).filter (fun j =>
    spans.any (fun o => decide (o.1 ≤ 64 * card + j) && decide (64 * card + j < o.1 + o.2)))
  let a := rackBase s p i + card * 512
  let s1 := cells.foldl (fun t j => actIpa laundryAction p (a + 8 * j) t) (sideSet p i 0x8000 card false s)
  let young := cells.any (fun j =>
    let c := laundryRead s1 p (a + 8 * j)
    isPtr c.tag && filterOf s1 p c.data.toNat == 1)
  if young then sideSet p i 0x8000 card true s1 else s1

/-- A rack: in EVAC its marked objects are copied; in REMAP every object is scanned. -/
def scanRack (p i : Nat) (s : State) : State :=
  let s1 := checkDamage p i s
  (objectsOf s1 p i).foldl (fun t o =>
    let a := rackBase t p i + 8 * o.1
    let first := laundryRead t p a
    if phaseOfPart t p = 3 then
      if markBit t p a && first.tag != tagFwd && first.tag != tagFiller then
        match resolve none p ⟨if first.tag = tagHeader then BitVec.ofNat 8 (bitsOf first.data 63 56) else tagCons, w64 a⟩ t with
        | .ok r => r.2
        | .error _ => t
      else t
    else scanObject p a t) s1

/-- One piece of a phase's work. -/
def scanRoot (p : Nat) (r : LaundryRoot) (s : State) : State :=
  match r with
  | .tcb t => (6 :: (List.range 14).map (fun i => 18 + i)).foldl (fun q i => scanPa p (tcbAddr q p t i) q) s
  | .cellar t =>
    if stOf s p t = stFree then s
    else
      let base := (tcbWord s p t 9).toNat
      scanRange p base ((cellarEnd s p t - base) / 8) s
  | .mail => scanMail p s
  | .region i =>
    if fbit s fldLNDR_PART_ROOT_V (8 * p + i) then
      scanRange p (fget s fldLNDR_PART_ROOT_BASE (8 * p + i) * 512) (64 * fget s fldLNDR_PART_ROOT_CARDS (8 * p + i)) s
    else s
  | .card i c => scanCard p i c s
  | .rack i => scanRack p i s

/-- Whether LAUNDRY runs for a partition. -/
def laundryRuns (s : State) (p : Nat) : Bool := fbit s fldLNDR_CTL_EN 0 && fbit s fldLNDR_PART_CTL_EN p

/-- The partition's unit scans are done: no context of its cores has an unscanned unit (R215). -/
def unitsDone (s : State) (p : Nat) : Bool :=
  (coresOf s p).all (fun k => (getCore s k).front.unscanned == 0 && (getCore s k).back.unscanned == 0)

/-- LNDR_PART_STAT.ROOTS. -/
def showRoots (p : Nat) (s : State) : State :=
  fset fldLNDR_PART_STAT_ROOTS p (phaseOfPart s p != 0 && (getLaundry s p).roots.isEmpty && unitsDone s p).toNat s

/-- LAUNDRY_SLICE (R227). -/
def execLaundrySlice (p : Fin 8) (s : State) : Host.Outcome State Fault Refusal :=
  let l := getLaundry s p.val
  if !laundryRuns s p.val || phaseOfPart s p.val = 0 then .next s
  else
    match l.roots with
    | r :: rest => .next (showRoots p.val (scanRoot p.val r (modLaundry p.val (fun l => { l with roots := rest }) s)))
    | [] =>
      match s.markq.find? (fun e => e.2.1 == p.val) with
      | some e => .next (showRoots p.val (scanObject p.val e.2.2 { s with markq := s.markq.erase e }))
      | none =>
        match l.queue with
        | a :: rest => .next (showRoots p.val (scanObject p.val a (modLaundry p.val (fun l => { l with queue := rest }) s)))
        | [] =>
          match (racksOf s p.val).find? (fun i => (getRack s p.val i).rescan) with
          | none => .next (showRoots p.val s)
          | some i =>
            let s1 := setRack p.val i { getRack s p.val i with rescan := false } s
            .next ((objectsOf s1 p.val i).foldl (fun t o =>
              let a := rackBase t p.val i + 8 * o.1
              if markBit t p.val a then scanObject p.val a t else t) s1)

/-! ### Flips (R215, R216) -/

/-- The memory roots of R217. -/
def memoryRoots : List LaundryRoot :=
  (List.range 1024).map LaundryRoot.tcb ++ (List.range 1024).map LaundryRoot.cellar ++ [.mail] ++
  (List.range 8).map LaundryRoot.region

/-- Every card that is dirty at the flip. -/
def dirtyCards (s : State) (p : Nat) : List LaundryRoot :=
  (racksOf s p).flatMap (fun i =>
    if filterOf s p (rackBase s p i) = 2 then
      ((List.range 4096).filter (fun c => sideBit s p i 0x8000 c)).map (fun c => LaundryRoot.card i c)
    else [])

/-- The racks a flip needs for `c` cells of copies (R216). -/
def reserveRacks (c : Nat) : Nat := (c + 131072 + 262143) / 262144

/-- The first `n` FREE racks become copy targets. -/
def reserve (p n : Nat) (s : State) : State :=
  ((freeRacks s p).take n).foldl (fun t i =>
    setRack p i { Rack.unused with state := rackMature, part := p, tospace := true, wiped := true } t) s

/-- Racks become CONDEMNED. -/
def condemn (p : Nat) (is : List Nat) (s : State) : State :=
  is.foldl (fun t i => setRack p i { getRack t p i with state := rackCondemned, abandoned := false } t) s

/-- The handshake on every core of the partition. -/
def handshakes (p : Nat) (s : State) : State := (coresOf s p).foldl (fun t k => handshake p k t) s

/-- A phase begins with its work. -/
def beginPhase (p phase : Nat) (roots : List LaundryRoot) (s : State) : State :=
  modLaundry p (fun l => { l with ended := false, roots := roots, queue := [], flipAt := if phase < 4 then some s.dtime else l.flipAt })
    (fset fldLNDR_PART_STAT_ROOTS p 0 (fset fldLNDR_PART_STAT_PHASE p phase s))

/-- What the end of every cycle does: TOSPACE is cleared, the phase is IDLE, and where the cycle freed a rack the recorded
tasks are woken (R207, R214). -/
def leaveCycle (p : Nat) (s : State) : State :=
  let l := getLaundry s p
  let s1 := ((racksOf s p).filter (fun i => (getRack s p i).tospace)).foldl (fun t i =>
    setRack p i { getRack t p i with tospace := false } t) s
  let s2 := fset fldLNDR_PART_STAT_ROOTS p 0 (fset fldLNDR_PART_STAT_PHASE p 0 s1)
  modLaundry p (fun l => { l with
      mature := false
      ended := false
      freed := false
      roots := []
      queue := []
      waiting := if l.freed then [] else l.waiting })
    (if l.freed then l.waiting.foldl (fun t x => setWake p x 4 t) s2 else s2)

/-- A flip that cannot reserve its racks (R216): the cycle does not go on. -/
def noReserve (p : Nat) (s : State) : State :=
  raisePart p 3 (modLaundry p (fun l => { l with want := none }) (leaveCycle p (fset fldLNDR_PART_STAT_FAIL p 1 s)))

/-- The entry into NCOPY. -/
def flipNcopy (p : Nat) (mature : Bool) (s : State) : State :=
  let ns := nurseries s p
  let need := reserveRacks (ns.foldl (fun a i => a + (getRack s p i).top) 0)
  if (freeRacks s p).length < need + 1 then noReserve p s
  else
    let cards := dirtyCards s p
    let s1 := condemn p ns (handshakes p s)
    let s2 := modLaundry p (fun l => { l with want := none, mature := mature, freed := false }) (reserve p need s1)
    beginPhase p 1 (memoryRoots ++ cards) s2

/-- The mark bitmap of a rack is cleared (R228). -/
def clearMarks (p i : Nat) (s : State) : State :=
  (List.range 4096).foldl (fun t j => laundryWrite p (sideAddr t p i 0 (64 * j)) (cellRaw 0) t) s

/-- The entry into MARK. -/
def flipMark (p : Nat) (s : State) : State :=
  beginPhase p 2 memoryRoots ((racksOf s p).foldl (fun t i => clearMarks p i t) (handshakes p s))

/-- MATURE racks sparse enough to condemn, and LARGE racks whose object is unmarked (R207). -/
def sparseRacks (s : State) (p : Nat) : List Nat :=
  (racksOf s p).filter (fun i =>
    let r := getRack s p i
    r.state == rackMature && !r.damaged && !r.tospace && r.live ≤ fget s fldLNDR_PART_CTL_SPARSE p * 1024)
def deadLarge (s : State) (p : Nat) : List Nat :=
  ((racksOf s p).filter (fun i => (getRack s p i).state == rackLarge && !markBit s p (rackBase s p i))).flatMap
    (fun i => (List.range (max 1 (getRack s p i).span)).map (fun j => i + j))

/-- The entry into EVAC. -/
def flipEvac (p : Nat) (s : State) : State :=
  let sp := sparseRacks s p
  let need := reserveRacks (sp.foldl (fun a i => a + (getRack s p i).live) 0)
  if (freeRacks s p).length < need then noReserve p s
  else
    let dead := deadLarge s p
    beginPhase p 3 (memoryRoots ++ sp.map LaundryRoot.rack) (condemn p (sp ++ dead) (reserve p need (handshakes p s)))

/-- Free 4,096-cell buffers left in the nurseries. -/
def buffersLeft (s : State) (p : Nat) : Nat :=
  (nurseries s p).foldl (fun a i => a + (262144 - (getRack s p i).top) / 4096) 0

/-- A nursery cycle is due without a command (R215). -/
def cycleDue (s : State) (p : Nat) : Bool :=
  nmaxOf s p ≤ (nurseries s p).length && buffersLeft s p < fget s fldLNDR_PART_CTL_NTRIG p

/-- FLIPGAP × 100 µs have passed since the partition's last flip (GLB_ADM_PART). -/
def flipSpaced (s : State) (p : Nat) : Bool :=
  match (getLaundry s p).flipAt with
  | some t => decide (t + fget s fldGLB_ADM_PART_FLIPGAP p * (2 ^ 64 / 10000) ≤ s.dtime)
  | none => true

/-- LAUNDRY_FLIP (R215): the next flip that is due. -/
def execLaundryFlip (p : Fin 8) (s : State) : Host.Outcome State Fault Refusal :=
  let l := getLaundry s p.val
  let ph := phaseOfPart s p.val
  if !laundryRuns s p.val || !flipSpaced s p.val then .next s
  else if ph = 0 then
    match l.want with
    | some m => .next (flipNcopy p.val m s)
    | none => .next (if cycleDue s p.val then flipNcopy p.val false s else s)
  else if l.ended && ph = 1 then .next (flipMark p.val s)
  else if l.ended && ph = 2 then .next (flipEvac p.val s)
  else .next s

/-! ### Phase ends (R215, R228) -/

/-- The pointers in the objects that survive in a CONDEMNED rack are healed (R228). -/
def healKept (p i : Nat) (s : State) : State :=
  (objectsOf s p i).foldl (fun t o =>
    let a := rackBase t p i + 8 * o.1
    let first := laundryRead t p a
    if first.tag = tagHeader && hdrAbandon first.data && !rawObject (bitsOf first.data 63 56) then
      (List.range (o.2 - 1)).foldl (fun q j => actIpa remapCell p (a + 8 * (j + 1)) q) t
    else t) s

/-- A CONDEMNED rack that stays is walked: FWD and dead spans become FILLER and VOID, ABANDON is cleared (R228). -/
def walkKept (p i : Nat) (s : State) : State :=
  (objectsOf s p i).foldl (fun t o =>
    let a := rackBase t p i + 8 * o.1
    let first := laundryRead t p a
    if first.tag = tagHeader && hdrAbandon first.data then
      laundryWrite p a ⟨tagHeader, putBit first.data 47 false⟩ t
    else
      (List.range (o.2 - 1)).foldl (fun q j => laundryWrite p (a + 8 * (j + 1)) cellVoid q)
        (laundryWrite p a (cellFiller o.2) t)) s

/-- The CONDEMNED racks at the end of their phase: FREE and unwiped, or kept as MATURE (R207, R228). What is kept is parsed
and healed while every condemned rack still stands. -/
def releaseCondemned (p : Nat) (s : State) : State :=
  let racks := (racksOf s p).filter (fun i => (getRack s p i).state == rackCondemned)
  let keeps (t : State) (i : Nat) : Bool := (getRack t p i).abandoned || (getRack t p i).damaged
  let s1 := racks.foldl (fun t i => if keeps t i then healKept p i (checkDamage p i t) else t) s
  let s2 := racks.foldl (fun t i => if keeps t i then walkKept p i t else t) s1
  racks.foldl (fun t i =>
    if keeps t i then setRack p i { getRack t p i with state := rackMature, abandoned := false, span := 0 } t
    else modLaundry p (fun l => { l with freed := true })
      (setRack p i { Rack.unused with state := rackFree, part := p } t)) s2

/-- Reserve racks without a copy return to FREE (R216). -/
def releaseReserve (p : Nat) (s : State) : State :=
  ((racksOf s p).filter (fun i => (getRack s p i).tospace && (getRack s p i).top == 0)).foldl (fun t i =>
    setRack p i { Rack.unused with state := rackFree, part := p, wiped := true } t) s

/-- The live cells of each rack, from its mark bitmap (R215). -/
def setLive (p : Nat) (s : State) : State :=
  (racksOf s p).foldl (fun t i =>
    let live := (objectsOf t p i).foldl (fun a o => if markBit t p (rackBase t p i + 8 * o.1) then a + o.2 else a) 0
    setRack p i { getRack t p i with live := live } t) s

/-- Mature occupancy above MTRIG / 256 (R215). -/
def matureFull (s : State) (p : Nat) : Bool :=
  let ms := (racksOf s p).filter (fun i => (getRack s p i).state == rackMature)
  let top := ms.foldl (fun a i => a + (getRack s p i).top) 0
  fget s fldLNDR_PART_CTL_MTRIG p * 262144 * ms.length < 256 * top

/-- The end of a cycle: it is counted, LAUNDRY_DONE is raised, and a full mature heap asks for a mature cycle (R215,
R231). -/
def endCycle (p : Nat) (s : State) : State :=
  let l := getLaundry s p
  let s1 := countUp .LNDR_PART_CYCLES p (if l.mature then 2 ^ 32 else 1) (leaveCycle p s)
  let next := if !l.mature && l.want.isNone && matureFull s1 p then some true else l.want
  raisePart p 2 (modLaundry p (fun l => { l with want := next }) s1)

/-- A phase may end (R215). -/
def phaseDone (s : State) (p : Nat) : Bool :=
  let l := getLaundry s p
  phaseOfPart s p != 0 && !l.ended && l.roots.isEmpty && l.queue.isEmpty && unitsDone s p &&
  !s.markq.any (fun e => e.2.1 == p) &&
  (phaseOfPart s p != 2 || !(racksOf s p).any (fun i => (getRack s p i).rescan))

/-- LAUNDRY_PHASE_END (R215, R228). -/
def execLaundryPhaseEnd (p : Fin 8) (s : State) : Host.Outcome State Fault Refusal :=
  if !laundryRuns s p.val || !phaseDone s p.val then .next s
  else
    let stop (t : State) : State := modLaundry p.val (fun l => { l with ended := true }) t
    match phaseOfPart s p.val with
    | 1 =>
      let s1 := releaseReserve p.val (releaseCondemned p.val s)
      .next (if (getLaundry s p.val).mature then stop s1 else endCycle p.val s1)
    | 2 => .next (stop (setLive p.val s))
    | 3 =>
      let s1 := releaseReserve p.val s
      let walk := (racksOf s1 p.val).filter (fun i =>
        let st := (getRack s1 p.val i).state
        st == rackNursery || st == rackMature || st == rackLarge)
      .next (beginPhase p.val 4 (memoryRoots ++ walk.map LaundryRoot.rack) s1)
    | _ => .next (endCycle p.val (releaseCondemned p.val s))

/-! ### Wiping (R208) -/

/-- Every cell of a 4 KiB page reads VOID. -/
def voidPage (pa : Nat) (s : State) : State :=
  let s1 := s.lines.foldl (fun t e => if e.line * 64 / 4096 == pa / 4096 then leaveLine recallLine e.cache e.line t else t) s
  { s1 with mem := s1.mem.filter (fun q => q.1 * 8 / 4096 != pa / 4096) }

/-- Every cell of rack `i` is written VOID. -/
def wipeRack (p i : Nat) (s : State) : State :=
  (List.range 512).foldl (fun t j =>
    match fabricXlate t p .store (rackBase t p i + 4096 * j) with
    | .ok pa => voidPage pa t
    | .error _ => t) s

/-- RACK_WIPE_DONE (R208): an unwiped FREE rack becomes usable while the partition's heap is enabled. -/
def execRackWipeDone (p : Fin 8) (rack : BitVec 16) (s : State) : Host.Outcome State Fault Refusal :=
  let r := getRack s p.val rack.toNat
  if fbit s fldLNDR_PART_CTL_EN p.val && r.part == p.val && r.state == rackFree && !r.wiped then
    .next (setRack p.val rack.toNat { r with wiped := true, top := 0 } (wipeRack p.val rack.toNat s))
  else .next s

/-! ### The queue (R231) -/

/-- A range of racks lies in the window. -/
def inWindow (s : State) (p first n : Nat) : Bool := first + n ≤ fget s fldLNDR_PART_HEAP_RCOUNT p

def rackAddOp (p first n : Nat) (s : State) : State :=
  (List.range n).foldl (fun t j =>
    let r := getRack t p (first + j)
    if r.state == rackOffline then setRack p (first + j) { Rack.unused with state := rackFree, part := p } t else t) s

def rackRemoveOp (p first n : Nat) (s : State) : State :=
  (List.range n).foldl (fun t j => setRack p (first + j) { Rack.unused with part := p } t) s

/-- The first run of `n` contiguous FREE racks. -/
def contiguous (s : State) (p n : Nat) : Option Nat :=
  (freeRacks s p).find? (fun i => (List.range n).all (fun j => (freeRacks s p).contains (i + j)))

/-- ALLOC_LARGE: the result cell receives the pointer or NIL; wake code 3 of TASK. -/
def allocLargeOp (p tag n result : Nat) (s : State) : State :=
  let need := (n + 1 + 262143) / 262144
  match contiguous s p need with
  | none => laundryWrite p result cellNil s
  | some i =>
    let s1 := (List.range need).foldl (fun t j =>
      setRack p (i + j) { Rack.unused with
        state := if j = 0 then rackLarge else rackTail
        part := p
        top := min 262144 (n + 1 - 262144 * j)
        span := if j = 0 then need else 0
        wiped := true } t) s
    laundryWrite p result ⟨BitVec.ofNat 8 tag, w64 (rackBase s1 p i)⟩
      (laundryWrite p (rackBase s1 p i) (headerCell tag n) s1)

/-- A POST to queue 0x18: the status of R231 and the state after. -/
def postLaundry (who : Agent) (desc : List Cell) (s : State) : Nat × State :=
  let c0 := desc.getD 0 cellVoid
  let c1 := desc.getD 1 cellVoid
  let c2 := desc.getD 2 cellVoid
  let op := bitsOf c0.data 3 0
  match agentPart s who with
  | none => (2, s)
  | some p =>
    let first := bitsOf c1.data 16 0
    let n := bitsOf c1.data 33 17
    let racks := op == 1 || op == 2
    if !fbit s fldLNDR_PART_CTL_EN p then (2, s)
    else if c0.tag != tagRaw64 || bitsOf c0.data 31 14 != 0 || op = 0 || 5 < op then (5, s)
    else if (racks || op = 5) && c1.tag != tagRaw64 then (5, s)
    else if op = 5 && (c2.tag != tagRaw64 || !allocTag (bitsOf c1.data 7 0) || bitsOf c1.data 7 0 == 0x40) then (5, s)
    else if racks && !inWindow s p first n then (2, s)
    else if op = 1 then (0, rackAddOp p first n s)
    else if op = 2 then
      (if (List.range n).all (fun j => (getRack s p (first + j)).state == rackFree) then (0, rackRemoveOp p first n s)
       else (3, s))
    else if op = 5 then
      (0, wakeTask p (bitsOf c0.data 13 4) (bitsOf c0.data 63 32) 3 desc
        (allocLargeOp p (bitsOf c1.data 7 0) (bitsOf c1.data 39 8) c2.data.toNat s))
    else if phaseOfPart s p != 0 then (3, s)
    else (0, modLaundry p (fun l => { l with want := some (op == 4) }) s)

/-- A descriptor with its OP field set to what a command names. -/
def withOp (hi op : Nat) : List Cell → List Cell
  | [] => []
  | c :: cs => ⟨c.tag, putBits c.data hi 0 op⟩ :: cs

/-- The outcome of a post: its status to the poster. -/
def posted (r : Nat × State) : Host.Outcome State Fault Refusal := .next (answerStatus r.1 r.2)

def execRackAdd (who : Agent) (desc : List Cell) (s : State) : Host.Outcome State Fault Refusal :=
  posted (postLaundry who (withOp 3 1 desc) s)
def execRackRemove (who : Agent) (desc : List Cell) (s : State) : Host.Outcome State Fault Refusal :=
  posted (postLaundry who (withOp 3 2 desc) s)
def execNcycle (who : Agent) (desc : List Cell) (s : State) : Host.Outcome State Fault Refusal :=
  posted (postLaundry who (withOp 3 3 desc) s)
def execMcycle (who : Agent) (desc : List Cell) (s : State) : Host.Outcome State Fault Refusal :=
  posted (postLaundry who (withOp 3 4 desc) s)
def execAllocLarge (who : Agent) (desc : List Cell) (s : State) : Host.Outcome State Fault Refusal :=
  posted (postLaundry who (withOp 3 5 desc) s)

/-- A partition reset (R207, R230): the cycle stops, EN is 0, the racks become FREE and unwiped, and the buffers of the
partition's cores are empty. -/
def laundryReset (p : Nat) (s : State) : State :=
  let s0 := (coresOf s p).foldl (fun t k => modCore k (fun c => { c with abcur := 0, abend := 0, copyCur := 0, copyEnd := 0 }) t) s
  let s1 := (racksOf s0 p).foldl (fun t i => setRack p i { Rack.unused with state := rackFree, part := p } t) s0
  let s2 := fset fldLNDR_PART_STAT_ROOTS p 0 (fset fldLNDR_PART_STAT_PHASE p 0 (fset fldLNDR_PART_CTL_EN p 0 s1))
  { modLaundry p (fun _ => LaundryPart.idle) s2 with markq := s.markq.filter (fun e => e.2.1 != p) }

end Sys2Proof.Machine
end

