-- ==== Sys2Proof/Machine/Dispatcher.lean ====
section
/-!
DEFINITION. Machine/Dispatcher.lean: events and budgets (R115, R116), WAIT and YIELD (R133, R135), the control commands
(R130, R131), the choice of tasks (R134, R136), loads, drains and switches (R137 to R139), and the faults of fetch and
decoding (R68, R111) of chapters 05 and 06.
-/

namespace Sys2Proof.Machine

/-! ### Events and budgets -/

/-- EVENT_ENTRY (R115): the event that goes first among those the core can take. TPROG receives the latch at
the first instruction after a return (R95). -/
def execEventEntry (k : CoreId) (s : State) : Host.Outcome State Fault Refusal :=
  if going s k.val then
    match eventChoice s k.val with
    | none => .next s
    | some e => .next (takeEvent k.val e (progOf (front s k.val)) s)
  else .next s

/-- NIB_EXPIRY (R116): a running budget reaches 0. -/
def execNibExpiry (k : CoreId) (s : State) : Host.Outcome State Fault Refusal :=
  if nibRunOf (front s k.val) then
    .next (modFront k.val (fun x =>
      { x with pstat := putBit (putBits x.pstat 19 7 0) 2 true
               tstat := putBit x.tstat 6 true }) s)
  else .next s

/-! ### Faults of fetch and decoding -/

/-- What a fetch at PC meets (R111): a translation fault, or a cell that is not INSN2. -/
def fetchTrap (s : State) (k : Nat) : Option Trap :=
  let x := front s k
  match translate s k (plOf x) .fetch x.pc with
  | .error f => some (xTrap f .fetch x.pc)
  | .ok l =>
    let c := corePeek s k (l.pa / 8 * 8)
    if c.tag = tagInsn2 then none else some (trapAt vFetchTag 0 x.pc c.tag)

/-- FETCH_FAULT (R111): the fault of the instruction that would execute next. -/
def execFetchFault (k : CoreId) (s : State) : Host.Outcome State Fault Refusal :=
  if canRun s k.val then
    match fetchTrap s k.val with
    | some t => .next (takeTrap k.val t s)
    | none => .next s
  else .next s

/-- UNASSIGNED_OPCODE (R68): ILLEGAL_OP with detail ENCODING. -/
def execUnassignedOpcode (k : CoreId) (s : State) : Host.Outcome State Fault Refusal :=
  runInstr k (fun _ => .error (illegalOp 0)) s

/-! ### Ranking (R134) -/

/-- DEADLINE of a task; none for UNBOUND. -/
def deadlineOf (s : State) (p t : Nat) : Option Int :=
  let c := tcbCell s p t 1
  if c.tag = tagPhase15 then some c.data.toInt else none

/-- Task `a` ranks strictly above task `b`: band, deadline, ready time. -/
def ranksAbove (s : State) (p a b : Nat) : Bool :=
  let seq (t : Nat) : Nat := sparseGet (fun _ => 0) s.readySeq (1024 * p + t)
  let ba := effBand s p a
  let bb := effBand s p b
  if ba != bb then decide (ba < bb)
  else
    match deadlineOf s p a, deadlineOf s p b with
    | some x, some y => if x != y then decide (x < y) else decide (seq a < seq b)
    | some _, none => true
    | none, some _ => false
    | none, none => decide (seq a < seq b)

/-- The highest-ranking of some tasks. -/
def bestOf (s : State) (p : Nat) : List Nat → Option Nat
  | [] => none
  | t :: ts =>
    match bestOf s p ts with
    | none => some t
    | some u => if ranksAbove s p u t then some u else some t

/-- The READY tasks of a core's partition, homed in its cluster, whose AFFINITY includes it. -/
def candidates (s : State) (k p : Nat) : List Nat :=
  (List.range 1024).filter (fun t =>
    stOf s p t == stReady && tcbCluster s p t == k / 8 && tcbAffinity s p t k)

/-- Where a task's context is: the core, and whether it is the front one. -/
def contextOf (s : State) (p t : Nat) : Option (Nat × Bool) :=
  (coresOf s p).findSome? (fun k =>
    let c := getCore s k
    if ctxTask c.front == some (p, t) then some (k, true)
    else if ctxTask c.back == some (p, t) then some (k, false) else none)

/-- The front context of a core may be taken from it: R126, and it does not execute above level T. -/
def mayTake (s : State) (k : Nat) : Bool :=
  let x := front s k
  !cbOf x && !mbOf x && plOf x == 0

/-- A task can be brought to core `k`: no handler runs in the front context of another core that holds it (R126). DESIGN CHOICE
(log): until then the core takes the best of the other candidates. -/
def movable (s : State) (k p t : Nat) : Bool :=
  match contextOf s p t with
  | some (j, true) => j == k || mayTake s j
  | _ => true

/-- A task in another core's front context. -/
def frontElsewhere (s : State) (k p t : Nat) : Bool :=
  (coresOf s p).any (fun j => j != k && ctxTask (getCore s j).front == some (p, t))

/-! ### Contexts -/

/-- The two contexts of a core in the other order, as the dispatcher works on the back one. -/
def otherSide (k : Nat) (s : State) : State := modCore k (fun c => { c with front := c.back, back := c.front }) s

/-- The contexts of a core exchange their roles; pending products complete first (R60, R64). -/
def swapCtx (k : Nat) (s : State) : State := otherSide k (modFront k flushMul s)

/-- A context without a task (CTXID.IDLE). DESIGN CHOICE (log): a load's shadow (R63) does not outlive its context, so a task
that is loaded again reads the loaded value. -/
def idleCtx (x : Ctx) : Ctx := { x with ctxid := 0x10000, pstat := pstatTask, ran := false, latch := cellVoid, shadow := none }

/-- A context of a core becomes IDLE. -/
def idleSide (k : Nat) (fr : Bool) (s : State) : State := modCtx k fr idleCtx s

/-- A context loses its task; a handler that runs in it goes on. -/
def unbind (x : Ctx) : Ctx := { x with ctxid := 0x10000, ran := false }

/-- Stores one frame image with store barriers (R138): the state, and the syndrome of a failure. A POISON cell at the
target fails with syndrome 0. -/
def drainImage (k p : Nat) : Nat → List Cell → State → State × Option Nat
  | _, [], s => (s, none)
  | va, c :: cs, s =>
    match xlate k 0 .store (w64 va) s with
    | .error f => (s, some (syndrome f .store))
    | .ok (x, s1) =>
      let old := corePeek s1 k x.pa
      if old.tag = tagPoison then (s1, some 0)
      else
        match storeBarrier k va old c s1 with
        | .error f => (s1, some (syndrome f .store))
        | .ok (c', s2) => drainImage k p (va + 8) cs (coreStore k x (wholeCell (c'.getD c)) s2)

/-- The images of the dirty valid windows of the front context. -/
def drainWindows (k p : Nat) : List Nat → State → State × Option Nat
  | [], s => (s, none)
  | w :: ws, s =>
    let x := front s k
    if wvalid x w && wdirty x w then
      match scanUnits k true [2 + w, 18 + w] s with
      | .error f => (s, some (syndrome f .load))
      | .ok s1 =>
        let y := front s1 k
        match drainImage k p (y.csp.toNat + 144 * ((w + 16 - bottomWindow y.wstat) % 16)) (frameOf y w) s1 with
        | (s2, some e) => (s2, some e)
        | (s2, none) => drainWindows k p ws s2
    else drainWindows k p ws s

/-- The TCB cells a drain writes (R138). -/
def drainTcb (k p t : Nat) (s : State) : State :=
  let x := front s k
  let raw (i : Nat) (v : Word) (s : State) : State := tcbPut p t i (cellRaw v) s
  let s1 := raw 4 x.pc (raw 5 x.npc (raw 7 (putBits x.wstat 47 32 0) (raw 8 x.csp (raw 9 x.cbase (raw 10 x.clim s)))))
  let s2 := raw 11 x.mh (raw 12 x.ml (raw 13 (w64 x.predStatic.toNat) (raw 14 x.s1ttb (raw 16 x.vbrS s1))))
  let s3 := tcbPut p t 17 (if x.latch.tag = tagCont then x.latch else cellVoid) s2
  let s4 := (List.range 8).foldl (fun q i => tcbPut p t (18 + i) (ctxCell x i) q) s3
  ((incomingCells ((cwpOf x + 1) % 16)).zip (List.range 6)).foldl
    (fun q e => tcbPut p t (26 + e.2) (ctxCell x e.1) q) s4

/-- The lazy spill of the front context's task (R138): its context becomes IDLE. -/
def drainFront (k : Nat) (s : State) : State :=
  match ctxTask (front s k) with
  | none => s
  | some (p, t) =>
    let us := [0, 2 + (cwpOf (front s k) + 1) % 16]
    let s0 := match scanUnits k true us s with
      | .ok q => q
      | .error _ => s
    match drainWindows k p (List.range 16) (modFront k flushMul s0) with
    | (s1, some e) => idleSide k true (faultTask p t 6 (lastCore s1 p t) e s1)
    | (s1, none) => idleSide k true (drainTcb k p t s1)

/-- The drain of a context. -/
def drainSide (k : Nat) (fr : Bool) (s : State) : State :=
  if fr then drainFront k s else otherSide k (drainFront k (otherSide k s))

/-- The first cell of a TCB that R128 finds wrong. -/
def tcbBad (s : State) (p t : Nat) : Option Nat :=
  let badAddr (w : Word) : Bool := bitsOf w 1 0 != 0 || bitsOf w 63 48 != 0
  ([0, 3, 4, 5, 7, 8, 9, 10, 11, 12, 13, 14, 15, 16]).find? (fun i =>
    (tcbCell s p t i).tag != tagRaw64 || ((i == 4 || i == 5) && badAddr (tcbWord s p t i)) ||
    (i == 7 && !wstatOk (tcbWord s p t 7)))

/-- The cells of the current frame's image, with the load barrier (R137, R220). -/
def loadImage (k : Nat) : Nat → Nat → State → Except Trap (List Cell × State)
  | 0, _, s => .ok ([], s)
  | n + 1, va, s =>
    match xlate k 0 .load (w64 va) s with
    | .error f => .error (xTrap f .load (w64 va))
    | .ok (x, s1) =>
      let r := coreLoad k x s1
      match loadBarrier k (some x.pa) (w64 va) r.1 r.2 with
      | .error t => .error t
      | .ok (c, s2) =>
        match loadImage k n (va + 8) s2 with
        | .error t => .error t
        | .ok (cs, s3) => .ok (c :: cs, s3)

/-- Barriers on the cells at physical addresses of a TCB (R220). -/
def barrierCells (k : Nat) : List (Nat × Cell) → State → List Cell × State
  | [], s => ([], s)
  | (pa, c) :: cs, s =>
    let r := match loadBarrier k (some pa) 0 c s with
      | .ok x => x
      | .error _ => (c, s)
    let rest := barrierCells k cs r.2
    (r.1 :: rest.1, rest.2)

/-- The partition's CMODE and ATTRPAL (R137, R148). -/
def partCmode (s : State) (p : Nat) : Word :=
  w64 (fget s fldGLB_PART_CTL_LDX p + 2 * fget s fldGLB_PART_CTL_MULX p)
def partPal (s : State) (p : Nat) : Word := getReg s .GLB_PART_ATTRPAL p &&& 0x0F0F0F0F0F0F0F0F

/-- Loads a task into the front context, which holds none (R137). -/
def loadFront (k p t : Nat) (s : State) : State :=
  match tcbBad s p t with
  | some i => faultTask p t 7 (lastCore s p t) i s
  | none =>
    let w (i : Nat) : Word := tcbWord s p t i
    let wstat := w 7
    let cwp := bitsOf wstat 3 0
    let csp := (w 8).toNat + 144 * ((cwp + 16 - bottomWindow wstat) % 16)
    let prog := tcbCell s p t 17
    let rel := bitsOf (w 0) 7 5
    let s1 := modFront k (fun x => { x with
      pc := w 4
      npc := w 5
      dslot := (w 5 != w 4 + 4)
      wstat := wstatMask (putBits (putBits wstat 47 32 0) 31 16 (2 ^ cwp))
      csp := keepBits (w64 csp) 47 3
      cbase := keepBits (w 9) 47 3
      clim := keepBits (w 10) 47 3
      mh := w 11
      ml := w 12
      predStatic := bitOf (w 13) 0
      s1ttb := keepBits (w 14) 43 12 ||| keepBits (w 14) 63 48
      vbrS := keepBits (w 16) 47 10
      pstat := pstatTask
      cmode := partCmode s p
      attrpal := partPal s p
      latch := if prog.tag = tagCont then prog else cellVoid
      fresh := true
      shadow := none
      history := 0
      rstack := []
      ran := false
      ctxid := w64 (t + p * 2 ^ 10 + rel * 2 ^ 13 + tcbEpoch s p t * 2 ^ 32) }) s
    match loadImage k 18 csp s1 with
    | .error _ => idleSide k true (faultTask p t 7 (lastCore s p t) 8 s1)
    | .ok (img, s2) =>
      let regs := barrierCells k ((List.range 14).map (fun i => (tcbAddr s2 p t (18 + i), tcbCell s2 p t (18 + i)))) s2
      let places := List.range 8 ++ incomingCells ((cwp + 1) % 16)
      modFront k (fun x => markUnits [0, 2 + (cwp + 1) % 16, 2 + cwp, 18 + cwp] (cycleOn regs.2 k)
        (putCells (places.zip regs.1 ++ (frameCells cwp).zip img) x)) regs.2

/-- Loads a task into a context that holds none. -/
def loadSide (k p t : Nat) (fr : Bool) (s : State) : State :=
  if fr then loadFront k p t s else otherSide k (loadFront k p t (otherSide k s))

/-! ### Switches (R134, R139) -/

/-- A switch of the front context of a running core may take effect (R126). -/
def switchOk (s : State) (k : Nat) : Bool := mayTake s k && going s k

/-- A READY task goes into the front context of a core, from wherever it is; the outgoing task stays in the back
context. -/
def switchTo (k p t : Nat) (s : State) : State :=
  let out := ctxTask (front s k)
  let run (q : State) : State := tcbStatePut p t 2 0 stRunning (modCore k (fun c => { c with lastOut := out.map (·.2) }) q)
  match contextOf s p t with
  | some (j, fr) =>
    if j = k then (if fr then tcbStatePut p t 2 0 stRunning s else run (swapCtx k s))
    else
      let s1 := loadSide k p t false (drainSide k false (drainSide j fr s))
      if ctxTask (getCore s1 k).back == some (p, t) then run (swapCtx k s1) else s1
  | none =>
    let s1 := loadSide k p t false (drainSide k false s)
    if ctxTask (getCore s1 k).back == some (p, t) then run (swapCtx k s1) else s1

/-- A task loses its context without a drain. A handler that interrupted it keeps the context until it returns (R126). -/
def dropContext (p t : Nat) (s : State) : State :=
  match contextOf s p t with
  | some (k, true) => if mayTake s k then idleSide k true s else modFront k unbind s
  | some (k, false) => idleSide k false s
  | none => s

/-- A role epoch increments; a loaded context shows it; queued messages are compared again (R130, R145). -/
def bumpEpoch (p t : Nat) (s : State) : State :=
  let e := (tcbEpoch s p t + 1) % 2 ^ 32
  let s1 := tcbStatePut p t 63 32 e s
  let s2 := match contextOf s1 p t with
    | some (k, fr) => modCtx k fr (fun x => { x with ctxid := putBits x.ctxid 63 32 e }) s1
    | none => s1
  rebounce s2

/-- KILL takes effect: FREE, EPOCH + 1, the register state discarded (R130). -/
def killTask (p t : Nat) (s : State) : State :=
  bumpEpoch p t (tcbStatePut p t 2 0 stFree (tcbExit p t 8 (lastCore s p t) 0 (dropContext p t s)))

/-- A task becomes HELD with PRIOR. -/
def holdTask (p t prior : Nat) (s : State) : State :=
  tcbStatePut p t 2 0 stHeld (tcbStatePut p t 26 24 prior s)

/-- HOLD or KILL of task `t`, which waits at core `k`, takes effect: on a RUNNING task and on one that has left that state
since (R130, R131). -/
def ctlEffect (k t op : Nat) (s : State) : State :=
  let s1 := modCore k (fun c => { c with ctl := none }) s
  match partOf s1 k with
  | none => s1
  | some p =>
    let st := stOf s1 p t
    if op = 4 then (if st = stFree then s1 else killTask p t s1)
    else if st = stRunning then holdTask p t stReady (tcbExit p t 4 k 0 s1)
    else if st = stReady || st = stWaiting then holdTask p t st s1
    else s1

/-- A HOLD or KILL waits at core `k` for the point where R126 permits a switch; a KILL that waits stays. -/
def deferCtl (k t op : Nat) (s : State) : State :=
  modCore k (fun c => { c with ctl := if c.ctl == some (t, 4) then c.ctl else some (t, op) }) s

/-- The front context of a core runs a task. -/
def runningTask (s : State) (k : Nat) : Option (Nat × Nat) :=
  match ctxTask (front s k) with
  | some (p, t) => if stOf s p t = stRunning then some (p, t) else none
  | none => none

/-- A task that yielded does not preempt the one it yielded to (R135). -/
def yieldBars (s : State) (k t u : Nat) : Bool := (getCore s k).yielded == some (t, u)

/-- The best task for a core, of those that can be brought to it now. -/
def bestFor (s : State) (k p : Nat) : Option Nat := bestOf s p ((candidates s k p).filter (movable s k p))

/-- The core that a candidate preempts: among those it ranks above and no better candidate takes, the one whose task ranks
lowest, then the lowest number (R134). -/
def preemptCore (s : State) (p t cl : Nat) (taken : List Nat) : Option Nat :=
  let qual := (coresIn s p cl).filter (fun k => !taken.contains k && tcbAffinity s p t k && movable s k p t &&
    match runningTask s k with
    | some (_, u) => ranksAbove s p t u && !yieldBars s k t u
    | none => false)
  qual.foldl (fun b k =>
    match b with
    | none => some k
    | some j =>
      match runningTask s j, runningTask s k with
      | some (_, u), some (_, v) => if ranksAbove s p u v then some k else some j
      | _, _ => some j) none

/-- A RUNNING task is preempted: READY, with its DEADLINE and ready time kept (R133, R134). -/
def preemptTask (k : Nat) (s : State) : State :=
  match runningTask s k with
  | some (p, u) => tcbStatePut p u 2 0 stReady (tcbExit p u 2 k 0 s)
  | none => s

/-- The preemptions that partition `p` owes in a cluster, best candidate first: core and task. A core has one. -/
def preemptions (s : State) (p cl : Nat) : Nat → List Nat → List Nat → List (Nat × Nat)
  | 0, _, _ => []
  | fuel + 1, cands, taken =>
    match bestOf s p (cands.filter (fun t => (preemptCore s p t cl taken).isSome)) with
    | none => []
    | some t =>
      match preemptCore s p t cl taken with
      | none => []
      | some k => (k, t) :: preemptions s p cl fuel (cands.filter (fun u => u != t)) (k :: taken)

/-- The preemptions a cluster's dispatcher owes: core, partition and task. -/
def owedPreemptions (s : State) (cl : Nat) : List (Nat × Nat × Nat) :=
  (List.range 8).flatMap (fun p =>
    if (coresIn s p cl).isEmpty then []
    else (preemptions s p cl 8 ((List.range 1024).filter (fun t => stOf s p t == stReady && tcbCluster s p t == cl)) []).map
      (fun e => (e.1, p, e.2)))

/-- The next switch a cluster's dispatcher owes and can make: a waiting HOLD or KILL; an idle core with a candidate; a
preemption. -/
def dispatchStep (cl : Nat) (s : State) : State :=
  let cores := (List.range 8).map (fun i => 8 * cl + i)
  let waiting := cores.findSome? (fun k => if mayTake s k then (getCore s k).ctl.map (fun e => (k, e)) else none)
  match waiting with
  | some (k, t, op) => ctlEffect k t op s
  | none =>
    let idle := cores.findSome? (fun k =>
      match partOf s k with
      | none => none
      | some p =>
        if switchOk s k && (runningTask s k).isNone then
          (bestFor s k p).map (fun t => (k, p, t))
        else none)
    match idle with
    | some (k, p, t) => modCore k (fun c => { c with yielded := none }) (switchTo k p t s)
    | none =>
      match (owedPreemptions s cl).find? (fun e => switchOk s e.1) with
      | some (k, p, t) => modCore k (fun c => { c with yielded := none }) (switchTo k p t (preemptTask k s))
      | none => s

/-- DISPATCH_SWITCH (R130, R134). -/
def execDispatchSwitch (cl : Fin 8) (s : State) : Host.Outcome State Fault Refusal := .next (dispatchStep cl.val s)

/-! ### Back contexts (R136) -/

/-- The core whose back context takes candidate `t`: the one that holds it; else the lowest-numbered free one of the running
cores its AFFINITY names; else the one that holds the lowest-ranked task (R136). -/
def backTaker (s : State) (p t cl : Nat) : Option Nat :=
  let cores := (coresIn s p cl).filter (fun j => (getCore s j).run && tcbAffinity s p t j)
  match cores.find? (fun j => ctxTask (getCore s j).back == some (p, t)) with
  | some j => some j
  | none =>
    match cores.find? (fun j => (ctxTask (getCore s j).back).isNone) with
    | some j => some j
    | none =>
      (cores.foldl (fun (b : Option (Nat × Nat)) j =>
        match ctxTask (getCore s j).back, b with
        | some (_, v), none => some (j, v)
        | some (_, v), some (i, u) => if ranksAbove s p u v then some (j, v) else some (i, u)
        | none, b => b) none).map (·.1)

/-- The task core `k`'s back context should hold, by the order of R136: the best candidate that runs nowhere and is held
in no other back context, of those this core takes; the task last switched out; the best pinned WAITING task. -/
def backChoice (s : State) (k p : Nat) : Option Nat :=
  let held (t : Nat) : Bool := (coresOf s p).any (fun j => j != k && ctxTask (getCore s j).back == some (p, t))
  let cands := (candidates s k p).filter (fun t => !held t &&
    !(coresOf s p).any (fun j => ctxTask (getCore s j).front == some (p, t)) && backTaker s p t (k / 8) == some k)
  match bestOf s p cands with
  | some t => some t
  | none =>
    let last := match (getCore s k).lastOut with
      | some t => if (stOf s p t = stReady || stOf s p t = stWaiting) && !frontElsewhere s k p t && !held t then some t
          else none
      | none => none
    match last with
    | some t => some t
    | none =>
      let pins := (List.range 1024).filter (fun t => stOf s p t == stWaiting && tcbCluster s p t == k / 8 &&
        bitOf (tcbWord s p t 0) 19 && bitsOf (tcbWord s p t 0) 18 16 == k % 8 && !frontElsewhere s k p t && !held t)
      pins.foldl (fun b t => match b with
        | none => some t
        | some u => if effBand s p t < effBand s p u then some t else some u) none

/-- BACK_CONTEXT_LOAD (R136, R137): the chosen task, when the back context holds none. -/
def execBackContextLoad (k : CoreId) (s : State) : Host.Outcome State Fault Refusal :=
  match partOf s k.val with
  | none => .next s
  | some p =>
    if (ctxTask (getCore s k.val).back).isSome || !(getCore s k.val).run then .next s
    else
      match backChoice s k.val p with
      | none => .next s
      | some t => .next (if ctxTask (front s k.val) == some (p, t) then s else loadSide k.val p t false s)

/-- CONTEXT_DRAIN (R136, R138): the occupant of the back context, when another task is chosen for it. -/
def execContextDrain (k : CoreId) (s : State) : Host.Outcome State Fault Refusal :=
  match partOf s k.val, ctxTask (getCore s k.val).back with
  | some p, some (_, t) =>
    .next (if backChoice s k.val p == some t then s else drainSide k.val false s)
  | _, _ => .next s

/-! ### WAIT and YIELD -/

/-- WAIT (R132, R133): the lowest pending code that the mask selects, or code 4; else the task becomes WAITING, and the
instruction is executed again when it next runs. DESIGN CHOICE (log): in a context that holds no task WAIT has no effect and
PC stays at it. -/
def waitBody (k : CoreId) (rd ra : Gpr) : Body := fun s =>
  let m := (readReg s k.val ra).data.toNat
  withOps [opTags s k.val ra tagIsFix] (guardTrap (decide (64 ≤ m)) (illegalOp 0)
    (match ctxTask (front s k.val) with
      | none => .ok (s, .placed)
      | some (p, t) =>
        let s := { s with
          overran := s.overran.filter (fun x => x != 1024 * p + t)
          activations := s.activations.filter (fun x => x.1 != 1024 * p + t) }
        match wakeCode s p t m with
        | some i =>
          done k rd (cellFix (w64 i))
            (if i = 1 then s else tcbKeep p t 3 (putBits (tcbWord s p t 3) i i 0) s)
        | none =>
          .ok (tcbStatePut p t 2 0 stWaiting (tcbExit p t 1 k.val 0
            (tcbKeep p t 3 (putBits (tcbWord s p t 3) 13 8 m) s)), .placed)))

def execWait (k : CoreId) (rd ra : Gpr) (s : State) : Host.Outcome State Fault Refusal :=
  runInstr k (waitBody k rd ra) s

/-- The task YIELD offers the core to. -/
def yieldTo (s : State) (k p t : Nat) : Option Nat :=
  bestOf s p ((candidates s k p).filter (fun u => u != t && effBand s p u ≤ effBand s p t))

/-- YIELD (R135): to the best candidate of an equal or higher band; else it returns. -/
def execYieldCore (k : CoreId) (s0 : State) : Host.Outcome State Fault Refusal :=
  if canRun s0 k.val then
    match preScan k.val s0 with
    | .error f => .next (takeTrap k.val (xTrap f .load (w64 f.ipa)) s0)
    | .ok s =>
      let s1 := finish k.val .seq s
      match ctxTask (front s k.val) with
      | none => .next s1
      | some (p, t) =>
        match yieldTo s k.val p t with
        | none => .next s1
        | some u =>
          let s2 := tcbStatePut p t 2 0 stReady (tcbExit p t 3 k.val 0 s1)
          let s3 := modCore k.val (fun c => { c with yielded := some (t, u) })
            { s2 with readySeq := recPut (1024 * p + t) s2.seq s2.readySeq, seq := s2.seq + 1 }
          .next (match (getCore s3 k.val).ctl with
            | some _ => s3
            | none => if switchOk s3 k.val && movable s3 k.val p u then switchTo k.val p u s3 else s3)
  else .next s0

/-! ### Control commands (R130) -/

/-- The outcome of a control command on a task whose epoch matches: status and state. -/
def control (op p t : Nat) (s : State) : Nat × State :=
  let st := stOf s p t
  let clear : State := tcbKeep p t 3 (putBits (tcbWord s p t 3) 5 0 0) s
  if op = 1 then
    (if st = stFree then (0, becomeReady p t clear) else if st = stFaulted then (0, becomeReady p t s) else (3, s))
  else if op = 2 then
    (if st = stHeld then (0, s)
     else if st = stReady then (0, holdTask p t stReady s)
     else if st = stWaiting then (0, holdTask p t stWaiting s)
     else if st = stRunning then
       (0, match contextOf s p t with
         | some (k, _) => if mayTake s k then ctlEffect k t 2 s else deferCtl k t 2 s
         | none => holdTask p t stReady s)
     else (3, s))
  else if op = 3 then
    (if st = stHeld then
      (0, if bitsOf (tcbWord s p t 0) 26 24 = stWaiting then wakeCheck p t (tcbStatePut p t 2 0 stWaiting s)
          else becomeReady p t s)
     else (3, s))
  else if op = 4 then
    (if st = stFree then (3, s)
     else if st = stRunning then
       (0, match contextOf s p t with
         | some (k, _) => if mayTake s k then ctlEffect k t 4 s else deferCtl k t 4 s
         | none => killTask p t s)
     else (0, killTask p t s))
  else if op = 5 then (if st = stFree then (3, s) else (0, bumpEpoch p t s))
  else (if st = stFree || st = stFaulted then (3, s) else (0, setWake p t 5 s))

/-- Whether an agent executes at level T. -/
def atLevelT (s : State) : Agent → Bool
  | .host _ => false
  | .core k => plOf (front s k.val) == 0

/-- A POST to the control queue of a cluster (R130, R146). -/
def postControl (who : Agent) (cl : Nat) (desc : List Cell) (s : State) : Nat × State :=
  let c := desc.getD 0 cellVoid
  let op := bitsOf c.data 3 0
  let t := bitsOf c.data 13 4
  let epoch := bitsOf c.data 63 32
  match agentPart s who with
  | none => (2, s)
  | some p =>
    if atLevelT s who || (coresIn s p cl).isEmpty then (2, s)
    else if c.tag != tagRaw64 || bitsOf c.data 31 14 != 0 || op = 0 || 6 < op then (5, s)
    else if tcbEpoch s p t != epoch then (0, bounceRecord (tcbCluster s p t) p (false, t) epoch desc s)
    else control op p t s

def execTaskStart (who : Agent) (cl : Fin 8) (desc : List Cell) (s : State) : Host.Outcome State Fault Refusal :=
  posted (postControl who cl.val (withOp 3 1 desc) s)
def execTaskHold (who : Agent) (cl : Fin 8) (desc : List Cell) (s : State) : Host.Outcome State Fault Refusal :=
  posted (postControl who cl.val (withOp 3 2 desc) s)
def execTaskRelease (who : Agent) (cl : Fin 8) (desc : List Cell) (s : State) : Host.Outcome State Fault Refusal :=
  posted (postControl who cl.val (withOp 3 3 desc) s)
def execTaskKill (who : Agent) (cl : Fin 8) (desc : List Cell) (s : State) : Host.Outcome State Fault Refusal :=
  posted (postControl who cl.val (withOp 3 4 desc) s)
def execTaskRerole (who : Agent) (cl : Fin 8) (desc : List Cell) (s : State) : Host.Outcome State Fault Refusal :=
  posted (postControl who cl.val (withOp 3 5 desc) s)
def execTaskWake (who : Agent) (cl : Fin 8) (desc : List Cell) (s : State) : Host.Outcome State Fault Refusal :=
  posted (postControl who cl.val (withOp 3 6 desc) s)

end Sys2Proof.Machine
end

