-- ==== Sys2Proof/Machine/Boot.lean ====
section
/-!
DEFINITION. Machine/Boot.lean: the boot sequencer (16_boot_trust.md): the full boot (R383, R384, R409), the bundle and its
checks (R385 to R390), OTP (R391 to R394), the keeper's cold entry and GO (R398, R399), the service queue (R401) and quotes
(R402 to R406). SHA-256 and HSS are uninterpreted functions of their exact inputs.
-/

namespace Sys2Proof.Machine

def modBoot (f : Boot → Boot) (s : State) : State := { s with boot := f s.boot }
def bootState (s : State) : Nat := fget s fldSEC_BOOT_STAT_STATE 0
def setBootState (n : Nat) (s : State) : State := fset fldSEC_BOOT_STAT_STATE 0 n s

@[reducible] def btStart : Nat := 0
@[reducible] def btHold : Nat := 1
@[reducible] def btWait : Nat := 2
@[reducible] def btLoad : Nat := 3
@[reducible] def btRun : Nat := 4
@[reducible] def btFailed : Nat := 5
@[reducible] def btWarm : Nat := 6

/-! ### OTP as registers (R391, R392) -/

/-- SEC_EPOCH and SEC_OTP_POL show the OTP. -/
def showOtp (s : State) : State :=
  let e (i : Nat) : Nat := s.otp.epochs.getD i 0
  setReg .SEC_EPOCH 0 (w64 (e 0 + e 1 * 2 ^ 8 + e 2 * 2 ^ 16 + e 3 * 2 ^ 24))
    (setReg .SEC_OTP_POL 0 (w64 (s.otp.prog + s.otp.revoked * 2 ^ 8 + s.otp.pol * 2 ^ 16)) s)

/-- The boot counter (R394, R406): bits are tried until one reads back, at most 8; every bit tried counts as used. The
boot number, and ATT_STAT: 0 PREPARING, 2 EXHAUSTED, 3 UNAVAILABLE. -/
def countBoot (blown fails : Nat) : Nat × Nat :=
  let left := 65536 - blown
  if left ≤ fails && left < 8 then (65536, 2)
  else if 8 ≤ fails then (blown + 8, 3)
  else (blown + fails + 1, 0)

/-! ### The full boot (R383, R409) -/

/-- The PLLs start. -/
def startPlls (s : State) : State :=
  modBoot (fun b => { b with stage := 2 }) { s with locking := [0, 1, 2, 3, 4, 5] }

/-- A monitor finds its clock bad. -/
def monitorBad (m : Nat) (s : State) : State :=
  let s1 := setClkFlag m { s with clkBad := insertNat m s.clkBad }
  (fedBy s1 m).foldl (fun t k => failPll k t) s1

/-- FULL_BOOT (R383): the straps, whether OTP can be read, how many counter bits fail their readback, and what the
monitors of XA and XB read at the end of the XDLY delay. -/
def execFullBoot (xbMode : Bool) (xdly : BitVec 3) (bootWait otpOk : Bool) (fails : Fin 9) (xaGood xbGood : Bool) (s : State) :
    Host.Outcome State Fault Refusal :=
  if s.boot.stage != 0 || bootState s != btStart then .next s
  else
    let s1 := fset fldCLK_STAT_XB_MODE 0 xbMode.toNat (fset fldCLK_STAT_XDLY 0 xdly.toNat
      (fset fldCLK_PLL_CFG_REF 5 xbMode.toNat (fset fldCLK_PLL_CFG_NINT 5 (if xbMode then 400 else 160)
        (modBoot (fun b => { b with stage := 1, bootWait := bootWait }) s))))
    if !otpOk then .next (bootFail 0x01 0 s1)
    else
      let c := countBoot s1.otp.boots fails.val
      let d := drawNat (showOtp { s1 with otp := { s1.otp with boots := c.1 } })
      let s2 := fset fldSEC_BOOT_CNT_BOOT 0 c.1 (fset fldSEC_ATT_STAT_STATE 0 c.2
        ((List.range 9).foldl (fun t f => fset fldHIF_FN_RSTGEN_BOOT f c.1 t)
          (modBoot (fun b => { b with attSeed := d.1 }) d.2)))
      let s3 := if xaGood then startPlls s2 else monitorBad 2 s2
      .next (if xbGood then s3 else monitorBad 3 s3)

/-- XA_RETEST (R409): XA is tested again, and the PLLs start once it reads good. -/
def execXaRetest (good : Bool) (s : State) : Host.Outcome State Fault Refusal :=
  if s.boot.stage = 1 && bootState s == btStart && good then
    .next (startPlls { s with clkBad := s.clkBad.filter (fun i => i != 2) })
  else .next s

/-- KEYED is released: DDR training runs, and the sequencer waits for GO. -/
def releaseKeyed (s : State) : State := setBootState btWait (setMem memTraining s)

/-- Step 4 of R383: once PLLS, PLLD and PLLF are locked the hash keys are drawn and the memory reads KEYED. -/
def keyMemory (s : State) : State :=
  if s.boot.stage = 2 && bootState s == btStart && memState s == memOff && [2, 3, 4].all (pllLocked s) then
    let d := drawWord s
    let s1 := setReg .MEM_HASH_KEY 0 d.1 d.2
    let s2 := (List.range 8).foldl (fun t c =>
      let e := drawWord t
      fset fldLARD_HASH_KEY_KEY c e.1.toNat e.2) s1
    let s3 := setMem memKeyed s2
    if s3.boot.bootWait then setBootState btHold s3 else releaseKeyed s3
  else s

/-- PLL_LOCK (R410, R383). -/
def execPllLock (k : Fin 6) (s : State) : Host.Outcome State Fault Refusal :=
  if s.locking.contains k.val then clocked (keyMemory (pllLocks k.val s)) else .next s

/-- RELEASE (R384): it ends HOLD. -/
def bootRelease (who : Agent) (s : State) : State :=
  if pfOrK s who && bootState s == btHold then releaseKeyed s else s

/-- GO (R385), ignored while Bus Master Enable is 0 and outside WAIT. -/
def bootGo (who : Agent) (bme : Bool) (s : State) : State :=
  if pfOrK s who && bme && bootState s == btWait then setBootState btLoad s else s

def execBootRelease (who : Agent) (value : BitVec 32) (s : State) : Host.Outcome State Fault Refusal :=
  .next (if value.getLsbD 0 then bootRelease who s else s)
def execBootGo (who : Agent) (value : BitVec 32) (bme : Bool) (s : State) : Host.Outcome State Fault Refusal :=
  .next (if value.getLsbD 1 then bootGo who bme s else s)

/-! ### Images (R386 to R390) -/

/-- `n` bytes from offset `o`, as a number with the least significant byte first, and as bytes. -/
def leAt (l : List (BitVec 8)) (o n : Nat) : Nat := bytesLe ((l.drop o).take n)
def beAt (l : List (BitVec 8)) (o n : Nat) : Nat := bytesLe ((l.drop o).take n).reverse
def cut (l : List (BitVec 8)) (o n : Nat) : List (BitVec 8) := (l.drop o).take n

def imPlen (h : List (BitVec 8)) : Nat := leAt h 0x18 4
def imSiglen (h : List (BitVec 8)) : Nat := leAt h 0x1C 4
def imType (h : List (BitVec 8)) : Nat := leAt h 5 1
def imEpoch (h : List (BitVec 8)) : Nat := leAt h 7 1
def imDest (h : List (BitVec 8)) : Nat := leAt h 0x20 8

/-- What later paths keep of an accepted header. -/
def imageOf (h : List (BitVec 8)) : Image :=
  ⟨imType h, imEpoch h, leAt h 8 4, imPlen h, imDest h, w64 (leAt h 0x28 8), w64 (leAt h 0x30 8), leAt h 0x38 8, cut h 0x40 32⟩

/-- The form of an image of `len` bytes (R386, R395, R407). -/
def formatOk (h payload : List (BitVec 8)) (len : Nat) : Bool :=
  let ty := imType h
  decide (h.length = 160) && leAt h 0 4 == 0x4D494B53 && leAt h 4 1 == 1 && decide (1 ≤ ty) && decide (ty ≤ 4) &&
  decide (imEpoch h ≤ 64) && leAt h 0x0D 3 == 0 && leAt h 0x9C 4 == 0 && imPlen h % 8 == 0 &&
  decide (160 + imPlen h + imSiglen h = len) &&
  (ty == 2 || (imDest h == 0 && leAt h 0x28 8 == 0 && leAt h 0x30 8 == 0)) &&
  (ty != 1 || (imPlen h == 32768 && (List.range 2048).all (fun i => leAt payload (16 * i + 14) 2 == 0))) &&
  (ty != 4 || imPlen h == 16)

/-- LM-OTS p and LMS height of the type codes R388 admits. -/
def otsP (t : Nat) : Option Nat := if t = 1 then some 265 else if t = 2 then some 133 else if t = 3 then some 67 else
  if t = 4 then some 34 else none
def lmsH (t : Nat) : Option Nat := if t = 5 then some 5 else if t = 6 then some 10 else if t = 7 then some 15 else none

/-- Bytes of an LMS signature of a key with these types. -/
def lmsSigLen (lms ots : Nat) : Option Nat :=
  match lmsH lms, otsP ots with
  | some h, some p => some (8 + 32 + 32 * p + 4 + 32 * h)
  | _, _ => none

/-- The rest of a signature has the length its type fields imply, for `n` levels under a key of these types. -/
def levelsOk : Nat → Nat → Nat → List (BitVec 8) → Bool
  | 0, _, _, _ => false
  | n + 1, lms, ots, l =>
    match lmsSigLen lms ots with
    | none => false
    | some k => if n = 0 then decide (l.length = k)
      else levelsOk n (beAt l k 4) (beAt l (k + 4) 4) (l.drop (k + 56))

/-- The parameters of a signature (R388). -/
def paramOk (pub sig : List (BitVec 8)) : Bool :=
  let lv := beAt pub 0 4
  decide (1 ≤ lv) && decide (lv ≤ 3) && beAt sig 0 4 == lv - 1 && levelsOk lv (beAt pub 4 4) (beAt pub 8 4) (sig.drop 4)

/-- A key slot is programmed, not revoked, holds the key's hash, and may sign the type (R387). -/
def slotLive (o : Otp) (slot : Nat) : Bool := nbits o.prog slot slot == 1 && nbits o.revoked slot slot == 0
def slotOk (s : State) (slot ty : Nat) (pub : List (BitVec 8)) : Bool :=
  let o := s.otp
  decide (slot < 6) && slotLive o slot && sparseGet (fun _ => []) o.hash slot == sha pub &&
  (match ty with
    | 1 => decide (slot < 4)
    | 2 => decide (slot < 4) || nbits o.pol 0 0 == 1
    | 3 => decide (4 ≤ slot) || nbits o.prog 5 4 == 0
    | _ => decide (slot < 4) || nbits o.pol 2 2 == 0)

/-- A keeper's destination (R390): in DDR, or in larder bank 0 above cell 8,191; KTAB lies inside the payload. -/
def destOk (s : State) (h : List (BitVec 8)) : Bool :=
  let d := imDest h
  let n := imPlen h
  d % 8 == 0 && leAt h 0x38 8 % 4096 == 0 && decide (leAt h 0x38 8 + 4096 ≤ n) &&
  (decide (d + n ≤ fget s fldMEM_STAT_SIZE 0 * 2 ^ 35) ||
   (decide (larderBase + 8 * 8192 ≤ d) && decide (d + n ≤ larderBase + 0x40000)))

/-- The first check that fails, in the order of R390; 0 when none does. -/
def imageCode (s : State) (h payload sig : List (BitVec 8)) (len : Nat) : Nat :=
  let ty := imType h
  let step := leAt h 0x0C 1
  let serial := leAt h 0x10 8
  let own := (getReg s .SEC_SERIAL 0).toNat
  let pub := cut h 0x60 60
  if !formatOk h payload len then 0x03
  else if !paramOk pub sig then 0x04
  else if !slotOk s (leAt h 6 1) ty pub then 0x05
  else if !Config.hssOk pub h sig then 0x06
  else if sha payload != cut h 0x40 32 then 0x07
  else if imEpoch h < s.otp.epochs.getD (ty - 1) 0 then 0x08
  else if step != bitsOf (getReg s .GLB_ID 0) 11 4 && (step != 0xFF || ty == 1) then 0x09
  else if (serial != 0 || ty == 4) && serial != own then 0x0A
  else if ty = 4 && leAt payload 0 8 != own then 0x0A
  else if ty = 2 && memState s == memFailed then 0x0B
  else if ty = 2 && !destOk s h then 0x0C
  else 0

/-- The image of a type that was last accepted (R391). -/
def noteVerified (ty epoch : Nat) (s : State) : State :=
  modBoot (fun b => { b with verified := recPut ty epoch b.verified }) s

/-! ### The bundle (R385) -/

/-- Payload words in the device's memory. The spec states no tags for them: each is a free tag. -/
def placeWords : Nat → List Word → State → State
  | _, [], s => s
  | pa, w :: ws, s =>
    let d := drawCell s
    placeWords (pa + 8) ws (cohPut pa ⟨d.1.tag, w⟩ d.2)

/-- Bytes as words. -/
def wordsOf : Nat → List (BitVec 8) → List Word
  | 0, _ => []
  | n + 1, l => w64 (bytesLe (l.take 8)) :: wordsOf n (l.drop 8)

/-- Cells are written VOID. -/
def voidCells (pa n : Nat) (s : State) : State := cohPuts pa (List.replicate n cellVoid) s

/-- Offset and length of an entry of the bundle. -/
def entryOf (b : List (BitVec 8)) (i : Nat) : Nat × Nat := (leAt b (0x10 + 8 * i) 4, leAt b (0x14 + 8 * i) 4)
def entryHeader (b : List (BitVec 8)) (i : Nat) : List (BitVec 8) := cut b (entryOf b i).1 160

/-- The form of a bundle: exactly one MCODE, one KEEPER and at most one DEBUG image. -/
def bundleOk (s : State) (b : List (BitVec 8)) : Bool :=
  let n := leAt b 6 2
  let len := leAt b 8 4
  let types := (List.range n).map (fun i => imType (entryHeader b i))
  leAt b 0 4 == 0x4E424B53 && leAt b 4 2 == 1 && (n == 2 || n == 3) && leAt b 0x0C 4 == 0 && decide (len = b.length) &&
  decide (len = fget s fldSEC_BOOT_LEN_LEN 0) && decide (len ≤ 64 * 2 ^ 20) &&
  (List.range n).all (fun i => (entryOf b i).1 % 8 == 0 && decide (0x10 + 8 * n ≤ (entryOf b i).1) &&
    decide ((entryOf b i).1 + (entryOf b i).2 ≤ len)) &&
  types.count 1 == 1 && types.count 2 == 1 && types.count 4 == n - 2

/-- One image of the bundle: it is placed and checked; memory that a failed image was copied into is written VOID. -/
def takeImage (b : List (BitVec 8)) (i : Nat) (s : State) : State :=
  if bootState s != btLoad then s
  else
    let e := entryOf b i
    let h := entryHeader b i
    let pl := cut b (e.1 + 160) (imPlen h)
    let code := imageCode s h pl (cut b (e.1 + 160 + imPlen h) (imSiglen h)) e.2
    let ty := imType h
    let g := imageOf h
    if code != 0 then
      bootFail code i (if code = 3 then s else if ty = 1 then voidCells larderBase 4096 s
        else if ty = 2 && destOk s h && memState s != memFailed then voidCells (imDest h) (imPlen h / 8) s else s)
    else
      let s1 := noteVerified ty g.epoch s
      if ty = 1 then modBoot (fun x => { x with mcode := some g }) (placeWords larderBase (wordsOf 4096 pl) s1)
      else if ty = 2 then
        putHash .SEC_MEAS_KP 0 g.phash (modBoot (fun x => { x with keeper := some g })
          (placeWords g.dest (wordsOf (g.plen / 8) pl) s1))
      else fset fldDBG_PERM_PERM 0 (leAt pl 8 8 % 8) (modBoot (fun x => { x with debug := leAt pl 8 8 % 8 }) s1)

/-- The bundle names a destination in DDR, which is read only once the memory is READY (R385). -/
def awaitsMemory (s : State) (b : List (BitVec 8)) : Bool :=
  (List.range (leAt b 6 2)).any (fun i => imType (entryHeader b i) == 2 && decide (imDest (entryHeader b i) < 0x4000000000)) &&
  memState s != memReady && memState s != memFailed

/-- BUNDLE_VERIFY_DONE (R390): `bytes` is the bundle as host memory holds it; `bad`: a read of it failed. -/
def execBundleVerifyDone (bytes : List (BitVec 8)) (bad : Bool) (s : State) : Host.Outcome State Fault Refusal :=
  if bootState s != btLoad || s.boot.accepted then .next s
  else if bad then .next (bootFail 0x02 0 s)
  else if !bundleOk s bytes then .next (bootFail 0x03 0 s)
  else if awaitsMemory s bytes then .next s
  else
    let s1 := (List.range (leAt bytes 6 2)).foldl (fun t i => takeImage bytes i t) s
    if bootState s1 != btLoad then .next s1
    else .next (modBoot (fun x => { x with accepted := true }) ((List.range 8).foldl (fun t cl => reloadMicro cl t) s1))

/-- KEEPER_COLD_ENTRY (R383, R398): step 9; BAR0 opens fully. -/
def execKeeperColdEntry (s : State) : Host.Outcome State Fault Refusal :=
  if bootState s != btLoad || !s.boot.accepted then .next s
  else if memState s = memFailed then .next (bootFail 0x0B 0 s)
  else if memState s != memReady then .next s
  else .next (keeperEnter 0 (setBootState btRun (modBoot (fun b => { b with barOpen := true }) s)))

/-- ATT_KEY_READY (R403). -/
def execAttKeyReady (s : State) : Host.Outcome State Fault Refusal :=
  if s.boot.stage = 0 || fget s fldSEC_ATT_STAT_STATE 0 != 0 then .next s
  else .next (fset fldSEC_ATT_STAT_STATE 0 1 s)

/-! ### GO (R399) and launch addresses (R400) -/

/-- A core of a cluster that is ON and in no reset, and not taken offline. -/
def coreUsable (s : State) (k : Nat) : Bool :=
  fget s fldPWR_DOM_CTL_PST (k / 8) == 1 && !fbit s fldCLU_RESET_BUSY (k / 8) &&
  nbits (fget s fldFLT_CORE_OFF_OFF 0) k k == 0

/-- A write of CLU_CORE_BOOT (R399): ENTRY, and GO. -/
def writeCoreBoot (k : Nat) (v : Word) (s : State) : State :=
  let s1 := fset fldCLU_CORE_BOOT_ENTRY k (bitsOf v 47 2) s
  if !bitOf v 0 || fbit s1 fldCLU_CORE_BOOT_RUN k || !coreUsable s1 k || fbit s1 fldCLU_CORE_PART_MOVING k then s1
  else if fbit s1 fldCLU_CORE_PART_ASSIGNED k then
    fset fldCLU_CORE_BOOT_RUN k 1 (modCore k (fun c => { c with
      run := true
      front := idleCtx c.front
      back := idleCtx c.back }) s1)
  else runAtEntry k 0 (w64 (fget s1 fldCLU_CORE_BOOT_ENTRY k * 4)) s1

/-- CORE_GO (R399). -/
def execCoreGo (k : CoreId) (value : Word) (s : State) : Host.Outcome State Fault Refusal :=
  .next (writeCoreBoot k.val (putBit value 0 true) s)

/-- A write of GLB_PART_ENTRY (R400) clears VERIFIED. -/
def writePartEntry (p : Nat) (v : Word) (s : State) : State :=
  fset fldGLB_PART_ENTRY_VERIFIED p 0 (fset fldGLB_PART_ENTRY_PADDR p (bitsOf v 43 6) s)

/-- PART_ENTRY_WRITE (R400). -/
def execPartEntryWrite (p : Fin 8) (value : Word) (s : State) : Host.Outcome State Fault Refusal :=
  .next (writePartEntry p.val value s)

/-! ### Programming OTP (R393) -/

def otpErr (s : State) : State := fset fldSEC_OTP_CMD_ERR 0 1 s
/-- SEC_OTP_DATA as bytes. -/
def otpData (s : State) : List (BitVec 8) :=
  (List.range 32).map (fun i => BitVec.ofNat 8 (bytesOf (getReg s .SEC_OTP_DATA (i / 8)) (i % 8) 1))
/-- Fuses only add bits: a slot's hash field after bits are blown. -/
def blowHash (slot : Nat) (bits : List (BitVec 8)) (s : State) : State :=
  let old := sparseGet (fun _ => []) s.otp.hash slot
  { s with otp := { s.otp with
      hash := recPut slot ((List.range 32).map (fun i => old.getD i 0 ||| bits.getD i 0)) s.otp.hash } }

/-- The operations of SEC_OTP_CMD (R393). `good`: the readback; where it fails, how many bits were blown is open. -/
def otpProgram (slot : Nat) (good : Bool) (s : State) : State :=
  if !(slot == 4 || slot == 5) || nbits s.otp.prog slot slot = 1 then otpErr s
  else if good then
    showOtp (let t := blowHash slot (otpData s) s
      { t with otp := { t.otp with prog := Nat.lor t.otp.prog (2 ^ slot) } })
  else
    let d := drawNat s
    otpErr (blowHash slot ((otpData s).map (fun b => b &&& BitVec.ofNat 8 d.1)) d.2)

/-- Vendor slots that are programmed and not revoked. -/
def liveVendors (o : Otp) : List Nat := (List.range 4).filter (slotLive o)

def otpRevoke (slot : Nat) (good : Bool) (s : State) : State :=
  if 6 ≤ slot || liveVendors s.otp = [slot] || !good then otpErr s
  else showOtp { s with otp := { s.otp with revoked := Nat.lor s.otp.revoked (2 ^ slot) } }

def otpPolicy (bit : Nat) (good : Bool) (s : State) : State :=
  if 3 ≤ bit || !good then otpErr s
  else showOtp { s with otp := { s.otp with pol := Nat.lor s.otp.pol (2 ^ bit) } }

def execOtpProgramSlot (who : Agent) (slot : Fin 8) (good : Bool) (s : State) : Host.Outcome State Fault Refusal :=
  .next (if pfOrK s who then otpProgram slot.val good s else s)
def execOtpRevokeSlot (who : Agent) (slot : Fin 8) (good : Bool) (s : State) : Host.Outcome State Fault Refusal :=
  .next (if pfOrK s who then otpRevoke slot.val good s else s)
def execOtpBlowPol (who : Agent) (bit : Fin 8) (good : Bool) (s : State) : Host.Outcome State Fault Refusal :=
  .next (if pfOrK s who then otpPolicy bit.val good s else s)

/-! ### The service queue (R401) -/

/-- The clusters a mask names. -/
def maskClusters (m : Nat) : List Nat := (List.range 8).filter (fun c => nbits m c c == 1)
def clusterAssigned (s : State) (cl : Nat) : Bool := (List.range 8).any (fun i => fbit s fldCLU_CORE_PART_ASSIGNED (8 * cl + i))

/-- A malformed request. -/
def serviceBad (desc : List Cell) : Bool :=
  let c (i : Nat) : Cell := desc.getD i cellVoid
  let w := (c 0).data
  (c 0).tag != tagRaw64 || bitsOf w 3 0 == 0 || decide (4 < bitsOf w 3 0) || bitsOf w 63 18 != 0 ||
  (c 1).tag != tagRaw64 || bitsOf (c 1).data 2 0 != 0 || (c 2).tag != tagRaw64 || bitsOf (c 2).data 2 0 != 0 || !wakeOk (c 3)

/-- Requests refused for the present state. -/
def serviceRefused (s : State) (w : Word) : Bool :=
  let op := bitsOf w 3 0
  let st := fget s fldGLB_PART_CTL_STATE (bitsOf w 6 4)
  (op == 1 && decide (2 ≤ st)) || (op == 4 && (maskClusters (bitsOf w 15 8)).any (fun c => c == 0 || clusterAssigned s c))

/-- A POST to queue 0x58. -/
def postService (who : Agent) (desc : List Cell) (s : State) : Nat × State :=
  let w := (desc.getD 0 cellVoid).data
  let keeper := isKeeper s who
  let part := agentPart s who
  if serviceBad desc then (5, s)
  else if !keeper && (part.isNone || atLevelT s who || bitsOf w 3 0 != 2 || bitOf w 7 || part != some (bitsOf w 6 4)) then (2, s)
  else if serviceRefused s w then (3, s)
  else if 8 ≤ s.boot.services.length then (1, s)
  else (0, modBoot (fun b => { b with services := b.services ++ [⟨desc, if keeper then none else part, false⟩] }) s)

def execVerify (who : Agent) (desc : List Cell) (s : State) : Host.Outcome State Fault Refusal :=
  posted (postService who (withOp 3 1 desc) s)
def execQuote (who : Agent) (desc : List Cell) (s : State) : Host.Outcome State Fault Refusal :=
  posted (postService who (withOp 3 2 desc) s)
def execEpochAdv (who : Agent) (desc : List Cell) (s : State) : Host.Outcome State Fault Refusal :=
  posted (postService who (withOp 3 3 desc) s)
def execMcLoad (who : Agent) (desc : List Cell) (s : State) : Host.Outcome State Fault Refusal :=
  posted (postService who (withOp 3 4 desc) s)

/-! ### What the sequencer does (R397, R401 to R406) -/

/-- An address a request gives: an IPA of a partition, or a PA. -/
def serviceAddr (s : State) (part : Option Nat) (acc : Access) (a : Nat) : Option Nat :=
  match part with
  | none => some a
  | some p => match fabricXlate s p acc a with
    | .ok pa => some pa
    | .error _ => none

/-- The bytes of memory from a physical address, as they lie in the cells' payloads. -/
def memBytes (s : State) (pa n : Nat) : List (BitVec 8) :=
  (List.range n).map (fun i => BitVec.ofNat 8 (bytesOf (physRead s ((pa + i) / 8 * 8)).data ((pa + i) % 8) 1))
/-- A range of memory holds POISON. -/
def hasPoison (s : State) (pa n : Nat) : Bool :=
  (List.range ((n + 7) / 8)).any (fun i => (physRead s (pa + 8 * i)).tag == tagPoison)

/-- The check of an image where it lies. A POISON cell counts as a failure of the part it lies in. -/
def memImageCode (s : State) (pa : Nat) : Nat :=
  let h := memBytes s pa 160
  let n := imPlen h
  let g := imSiglen h
  if hasPoison s pa 160 then 0x03
  else
    let code := imageCode s h (memBytes s (pa + 160) n) (memBytes s (pa + 160 + n) g) (160 + n + g)
    if (code = 0 || 0x06 ≤ code) && hasPoison s (pa + 160 + n) g then 0x06
    else if (code = 0 || 0x07 ≤ code) && hasPoison s (pa + 160) n then 0x07
    else code

/-- VERIFY (R400): the image is checked where it lies; a SUPER image is recorded for its partition. -/
def serveVerify (w : Word) (pa : Nat) (s : State) : Nat × State :=
  let code := memImageCode s pa
  let g := imageOf (memBytes s pa 160)
  let p := bitsOf w 6 4
  if code != 0 then (code, s)
  else
    let s1 := noteVerified g.type g.epoch s
    (0, if g.type = 3 then putHash .SEC_MEAS_SV p g.phash (fset fldGLB_PART_ENTRY_VERIFIED p 1 s1) else s1)

/-- What reading an image does to the caches: its header, then the length that names. -/
def seenImage (pa : Nat) (s : State) : State := seenBytes pa (160 + (imageOf (memBytes s pa 160)).plen) s

/-- EPOCH_ADV (R391): the OTP epoch rises to that of the image last verified in this boot, never beyond. -/
def serveEpoch (w : Word) (s : State) : Nat × State :=
  let i := bitsOf w 17 16
  let v := sparseGet (fun _ => 0) s.boot.verified (i + 1)
  (0, showOtp { s with otp := { s.otp with
      epochs := (List.range 4).map (fun j => let o := s.otp.epochs.getD j 0; if j = i then max o v else o) } })

/-- MC_LOAD (R397): the image is staged in cells 4,096 to 8,191 of bank 0, verified, loaded into the named clusters, which
are reset, and becomes the current image. -/
def serveMcode (w : Word) (pa : Nat) (s : State) : Nat × State :=
  let h := memBytes s pa 160
  let code := if imType h != 1 then 0x03 else memImageCode s pa
  let words := wordsOf 4096 (memBytes s (pa + 160) 32768)
  if code != 0 then (code, if code = 0x03 then s else voidCells (larderBase + 8 * 4096) 4096 s)
  else
    let g := imageOf h
    let s1 := placeWords larderBase words (placeWords (larderBase + 8 * 4096) words (noteVerified 1 g.epoch s))
    (0, (maskClusters (bitsOf w 15 8)).foldl (fun t cl => loadMicro g cl (clusterReset cl t))
      (modBoot (fun b => { b with mcode := some g }) s1))

/-- Bytes of a number, least significant first. -/
def leBytes (n v : Nat) : List (BitVec 8) := (List.range n).map (fun i => BitVec.ofNat 8 (v / 256 ^ i))
def regBytesOf (s : State) (r : Reg) (i : Nat) : List (BitVec 8) := leBytes 8 (getReg s r i).toNat
def hashBytes (s : State) (r : Reg) (i : Nat) : List (BitVec 8) := (List.range 4).flatMap (fun j => regBytesOf s r (4 * i + j))

/-- The 76-byte message the identity key signs, and a signature or key as bytes (R402, R403). -/
def attKey (seed : Option Nat) : List (BitVec 8) := (List.range 60).map (Config.hssKey seed)
def attSign (seed : Option Nat) (leaf : Nat) (m : List (BitVec 8)) : List (BitVec 8) :=
  (List.range 5076).map (Config.hssSign seed leaf m)
def identityMessage (s : State) : List (BitVec 8) :=
  leBytes 4 0x54414B53 ++ leBytes 4 (fget s fldSEC_BOOT_CNT_BOOT 0) ++ regBytesOf s .SEC_SERIAL 0 ++ attKey (some s.boot.attSeed)

/-- The 208 signed bytes of a quote (R404). -/
def quoteHead (s : State) (w : Word) (nonce user : List (BitVec 8)) : List (BitVec 8) :=
  let scope := if bitOf w 7 then 8 else bitsOf w 6 4
  let sv := if scope = 8 then sha ((List.range 8).flatMap (fun p => hashBytes s .SEC_MEAS_SV p)) else hashBytes s .SEC_MEAS_SV scope
  leBytes 4 0x54514B53 ++ [1, BitVec.ofNat 8 scope, 0, 0] ++ leBytes 4 (getReg s .GLB_ID 0).toNat ++
  leBytes 4 (fget s fldSEC_BOOT_CNT_BOOT 0) ++ regBytesOf s .SEC_SERIAL 0 ++ leBytes 4 (fget s fldSEC_ATT_STAT_QUSED 0) ++
  leBytes 4 (fget s fldHIF_FN_RSTGEN_WARM 8) ++ nonce ++ hashBytes s .SEC_MEAS_MC 0 ++ hashBytes s .SEC_MEAS_KP 0 ++ sv ++
  leBytes 4 (getReg s .SEC_EPOCH 0).toNat ++ leBytes 4 (getReg s .SEC_OTP_POL 0).toNat ++ leBytes 4 s.boot.debug ++ leBytes 4 0 ++
  user

/-- A quote (R404). -/
def quoteBytes (s : State) (w : Word) (nonce user : List (BitVec 8)) : List (BitVec 8) :=
  let head := quoteHead s w nonce user
  head ++ attSign (some s.boot.attSeed) (fget s fldSEC_ATT_STAT_QUSED 0) head ++ attKey (some s.boot.attSeed) ++
  attSign none (fget s fldSEC_BOOT_CNT_BOOT 0 - 1) (identityMessage s) ++ attKey none

/-- RAW64 words at an address of a requester; false where one could not be written. -/
def serviceWrites (part : Option Nat) : Nat → List Word → State → Bool × State
  | _, [], s => (true, s)
  | a, w :: ws, s =>
    match serviceAddr s part .store a with
    | none => (false, s)
    | some pa => match cohWrite pa (cellRaw w) s with
      | .ok s' => serviceWrites part (a + 8) ws s'
      | .error _ => (false, s)

/-- The 64 bytes a QUOTE names: nonce and USERDATA. -/
def quoteInput (s : State) (part : Option Nat) (a : Nat) : Option (List (BitVec 8)) :=
  let cells := (List.range 8).map (fun i => (serviceAddr s part .load (a + 8 * i)).map (physRead s))
  if cells.all (fun c => match c with
      | some x => x.tag != tagPoison
      | none => false) then
    some (cells.flatMap (fun c => match c with
      | some x => leBytes 8 x.data.toNat
      | none => []))
  else none

/-- QUOTE (R404 to R406): its status code; the quote follows the status cell by 64 bytes. -/
def serveQuote (part : Option Nat) (w : Word) (nonce result : Nat) (mute : Bool) (s : State) : Nat × State :=
  let st := fget s fldSEC_ATT_STAT_STATE 0
  let q := fget s fldSEC_ATT_STAT_QUSED 0
  if 2 ≤ st then (0x21, s)
  else if st = 0 then (0x20, s)
  else if 1048576 ≤ q then (0x22, s)
  else
    match quoteInput s part nonce with
    | none => (0x24, s)
    | some inp =>
      let bytes := quoteBytes s w (inp.take 32) (inp.drop 32)
      let s1 := fset fldSEC_ATT_STAT_QUSED 0 (q + 1) s
      if mute then (0, s1)
      else
        let r := serviceWrites part (result + 64) (wordsOf 1310 bytes) s1
        (if r.1 then 0 else 0x24, r.2)

/-- SERVICE_REQUEST_DONE (R401): the oldest request is served, its status cell written and its target woken. -/
def execServiceRequestDone (s : State) : Host.Outcome State Fault Refusal :=
  match s.boot.services with
  | [] => .next s
  | q :: rest =>
    let w := (q.desc.getD 0 cellVoid).data
    let src := (q.desc.getD 1 cellVoid).data.toNat
    let res := (q.desc.getD 2 cellVoid).data.toNat
    let s0 := modBoot (fun b => { b with services := rest }) s
    let op := bitsOf w 3 0
    let r := if op = 1 then serveVerify w src (seenImage src s0)
      else if op = 2 then serveQuote q.part w src res q.mute s0
      else if op = 3 then serveEpoch w s0
      else serveMcode w src (seenImage src s0)
    if q.mute then .next r.2
    else .next (wakeTarget q.part (q.desc.getD 3 cellVoid) 3 q.desc (serviceWrites q.part res [w64 r.1] r.2).2)

/-- A partition reset discards the partition's requests; one under way completes without a result. -/
def servicesPartReset (p : Nat) (s : State) : State :=
  modBoot (fun b => { b with services := match b.services with
    | [] => []
    | q :: rest => { q with mute := q.mute || q.part == some p } :: rest.filter (fun x => x.part != some p) }) s

end Sys2Proof.Machine
end

