-- ==== Sys2Proof/Machine/Tlb.lean ====
section
/-!
DEFINITION. Machine/Tlb.lean: table walks that fill the TLBs and walk caches (R156, R160, R161), TLB invalidation
(R164, R165), and XPROBE (R170) of 07_translation.md.
-/

namespace Sys2Proof.Machine

/-! ### Walks (R156, R161) -/

/-- The stage-2 leaf of an IPA on a core, whatever its permissions. -/
def leaf2Of (s : State) (k ipa : Nat) : Except XFault Leaf :=
  if s2On s k then
    stage2Walk s (coreSpace s k) (getCore s k).walk2 (bitsOf (getCore s k).s2ttb 43 12 * 4096) ipa false
  else .ok ⟨ipa, s2OffLeaf, 0, []⟩

/-- The addresses of the entries a walk reads, given the pointers it used: one for each level from where it begins, but for
the level that a walk cache gave. -/
def entriesRead (w : List WalkEntry) (sp : Space) (asid a base : Nat) (used : List (Nat × Word)) : List Nat :=
  let place (lvl table : Nat) : Nat := table + 8 * (a / 2 ^ lvlShift lvl % 512)
  (if (walkHit w sp asid (walkStart w sp asid a) a).isSome then [] else [place 0 base]) ++
  (used.filter (fun p => entTp p.2)).map (fun p => place (p.1 + 1) (entOa p.2))

/-- What reading entries by physical address does to the caches. -/
def readEntries (pas : List Nat) (s : State) : State := pas.foldl (fun t pa => agentRead (pa / 64) t) s

/-- The stage-2 walk cache takes the entries that the walk of an IPA used; a walk that faults leaves nothing (R156). -/
def fillStage2 (k ipa : Nat) (s : State) : State :=
  match leaf2Of s k ipa with
  | .error _ => s
  | .ok l =>
    if s2On s k then
      let sp := coreSpace s k
      let c := getCore s k
      modCore k (fun c => l.used.foldl (fun c p => walkFill true ⟨0, sp, 0, p.1, ipa / 2 ^ lvlShift p.1, p.2⟩ c) c)
        (readEntries (entriesRead c.walk2 sp 0 ipa (bitsOf c.s2ttb 43 12 * 4096) l.used) s)
    else s

/-- The stage-1 walk cache takes the pointers that a walk used. -/
def fillStage1 (k va : Nat) (sp : Space) (asid : Nat) (used : List (Nat × Word)) (s : State) : State :=
  modCore k (fun c => used.foldl (fun c p => walkFill false ⟨0, sp, asid, p.1, va / 2 ^ lvlShift p.1, p.2⟩ c) c) s

/-- A stage-1 table entry is read at an IPA: through stage 2, which takes what it used. -/
def readStage1 (k ipa : Nat) (s : State) : State :=
  match coreStage2 s k ipa .load true with
  | .error _ => s
  | .ok l => agentRead (l.out / 64) (fillStage2 k ipa s)

/-- The walk caches take what a walk of a lower-half address used: the stage-1 pointers, and the stage-2 entries of every
table address it read and of the final IPA. -/
def fillWalk (k va : Nat) (s : State) : State :=
  match coreStage1 s k va with
  | .error _ => s
  | .ok l =>
    let c := getCore s k
    let sp := coreSpace s k
    let asid := bitsOf c.front.s1ttb 63 48
    let reads := entriesRead c.walk1 sp asid va (bitsOf c.front.s1ttb 43 12 * 4096) l.used
    fillStage2 k l.out (fillStage1 k va sp asid l.used (reads.foldl (fun t ipa => readStage1 k ipa t) s))

/-- The stage-1 walk cache takes the K-space pointers of a walk. -/
def fillKspace (k va : Nat) (s : State) : State :=
  match kspaceWalk s k va with
  | .error _ => s
  | .ok l =>
    fillStage1 k va .kernel 0 (l.used.filter (fun p => entTp p.2))
      (readEntries (entriesRead (getCore s k).walk1 .kernel 0 va (fget s fldGLB_KTTB_BASE 0 * 4096) l.used) s)

/-- The size of a leaf as it is cached: with CONT = 1 at level 2 or 3 the whole group of 16 may be (R160). -/
def leafSize (e : Word) (lvl : Nat) (group : Bool) : Nat :=
  lvlShift lvl + (if entCont e && 2 ≤ lvl && group then 4 else 0)

/-- The TLB entry of a lower-half translation. -/
def leafEntry (s : State) (k va : Nat) (group : Bool) : Option TlbEntry :=
  match coreStage1 s k va with
  | .error _ => none
  | .ok l1 =>
    match leaf2Of s k l1.out with
    | .error _ => none
    | .ok l2 =>
      let size2 := if s2On s k then leafSize l2.entry l2.level group else 44
      let size := min (leafSize l1.entry l1.level group) size2
      some ⟨0, coreSpace s k, bitsOf (front s k).s1ttb 63 48, bitOf l1.entry 10, size, va / 2 ^ size, l2.out / 2 ^ size,
        l1.entry.toNat, l1.level, l2.entry.toNat, l2.level⟩

/-- The TLB entry of a K-space translation. -/
def kspaceEntry (s : State) (k va : Nat) (group : Bool) : Option TlbEntry :=
  match kspaceWalk s k va with
  | .error _ => none
  | .ok l =>
    let size := leafSize l.entry l.level group
    some ⟨0, .kernel, 0, true, size, va / 2 ^ size, l.out / 2 ^ size, 0, 0, l.entry.toNat, l.level⟩

/-- A walk for an access of a core (R156, R161, R163), where no TLB answers it: when the access succeeds, the TLBs take the leaf
and the walk caches the entries it used; one that faults leaves nothing. Whether a CONT group is cached whole is open
(R160): a free choice. -/
def walkFor (k pl : Nat) (acc : Access) (va : Word) (s0 : State) : State :=
  if bitsOf va 63 48 != 0 then s0
  else
    let d := drawBit s0
    let s := d.2
    let kernel := decide (pl = 2) && bitOf va 47
    let e := if kernel then kspaceEntry s k va.toNat d.1 else leafEntry s k va.toNat d.1
    match translate s k pl acc va, e with
    | .ok _, some t =>
      if (tlbHit (tlbsFor (getCore s k) acc) t.space t.asid va.toNat).isSome then s
      else modCore k (fun c => l1TlbFill acc t (l2TlbFill t c)) (if kernel then fillKspace k va.toNat s else fillWalk k va.toNat s)
    | _, _ => s

/-- A walk of the fabric translation unit (R171): its 512 entries, 8 ways. The set is the model's choice. -/
def fabricWalk (p ipa : Nat) (s : State) : State :=
  if 2 ^ 44 ≤ ipa then s
  else
    match stage2Walk s (.part p) [] (fget s fldGLB_PART_S2TTB_BASE p * 4096) ipa false with
    | .error _ => s
    | .ok l =>
      let size := lvlShift l.level
      let set := ipa / 2 ^ size % 64
      let here (x : TlbEntry) : Bool := x.va % 64 == set
      let f := slotFor 3 8 (sparseGet (fun _ => 0) s.fabricLru set) (fun w => s.fabricTlb.any (fun x => x.slot == w && here x))
      { s with
        fabricTlb := ⟨f.1, .part p, 0, true, size, ipa / 2 ^ size, l.out / 2 ^ size, 0, 0, l.entry.toNat, l.level⟩ ::
          s.fabricTlb.filter (fun x => !(x.slot == f.1 && here x))
        fabricLru := sparsePut (fun _ => 0) set f.2 s.fabricLru }

/-- TABLE_WALK (R156, R161, R171). -/
def execTableWalk (w : Walker) (s : State) : Host.Outcome State Fault Refusal :=
  match w with
  | .core k acc va => .next (walkFor k.val (plOf (front s k.val)) acc va s)
  | .fabric p ipa => .next (fabricWalk p.val ipa.toNat s)

/-! ### TLBI instructions (R164, R165) -/

/-- A TLBI is sent; a ninth waits until one completes (R165). -/
def tlbiSend (k : Nat) (op : TlbiOp) (s : State) : State :=
  let s1 := if 8 ≤ (getCore s k).tlbis.length then tlbiOldest k s else s
  modCore k (fun c => { c with tlbis := c.tlbis ++ [op] }) s1

/-- A TLBI instruction: the level, the operands, the value check, then the broadcast. -/
def tlbiBody (k : CoreId) (pl : Nat) (ops : State → List Opnd) (bad : State → Bool) (op : State → TlbiOp) : Body :=
  fun s => needLevel s k pl (withOps (ops s) (guardTrap (bad s) (illegalOp 0)
    (.ok (tlbiSend k.val (op s) s, .seq))))

def opFix (s : State) (k : CoreId) (r : Gpr) : Opnd := opTags s k.val r tagIsFix
def regWord (s : State) (k : CoreId) (r : Gpr) : Word := (readReg s k.val r).data

def execTlbiVa (k : CoreId) (ra rb : Gpr) (s : State) : Host.Outcome State Fault Refusal :=
  runInstr k (tlbiBody k 1 (fun s => [opAddr s k.val ra, opFix s k rb]) (fun _ => false)
    (fun s => .va (coreSpace s k.val) (if bitOf (regWord s k rb) 16 then none else some (bitsOf (regWord s k rb) 15 0))
      (regWord s k ra).toNat)) s
def execTlbiAsid (k : CoreId) (rb : Gpr) (s : State) : Host.Outcome State Fault Refusal :=
  runInstr k (tlbiBody k 1 (fun s => [opFix s k rb]) (fun _ => false)
    (fun s => .asid (coreSpace s k.val) (bitsOf (regWord s k rb) 15 0))) s
def execTlbiSpace (k : CoreId) (s : State) : Host.Outcome State Fault Refusal :=
  runInstr k (tlbiBody k 1 (fun _ => []) (fun _ => false) (fun s => .space (coreSpace s k.val))) s
def execTlbiIpa (k : CoreId) (ra rb : Gpr) (s : State) : Host.Outcome State Fault Refusal :=
  runInstr k (tlbiBody k 2 (fun s => [opAddr s k.val ra, opFix s k rb]) (fun s => bitsOf (regWord s k rb) 63 3 != 0)
    (fun s => .ipa (bitsOf (regWord s k rb) 2 0) (regWord s k ra).toNat)) s
def execTlbiPart (k : CoreId) (rb : Gpr) (s : State) : Host.Outcome State Fault Refusal :=
  runInstr k (tlbiBody k 2 (fun s => [opFix s k rb]) (fun s => bitsOf (regWord s k rb) 63 3 != 0)
    (fun s => .part (bitsOf (regWord s k rb) 2 0))) s
def execTlbiKs (k : CoreId) (ra : Gpr) (s : State) : Host.Outcome State Fault Refusal :=
  runInstr k (tlbiBody k 2 (fun s => [opAddr s k.val ra]) (fun _ => false) (fun s => .ks (regWord s k ra).toNat)) s
def execTlbiAll (k : CoreId) (s : State) : Host.Outcome State Fault Refusal :=
  runInstr k (tlbiBody k 2 (fun _ => []) (fun _ => false) (fun _ => .all)) s

/-- TLBI_COMPLETE (R165): the oldest TLBI of the core has completed everywhere. -/
def execTlbiComplete (k : CoreId) (s : State) : Host.Outcome State Fault Refusal := .next (tlbiOldest k.val s)

/-! ### XPROBE (R170) -/

/-- A probe's answer: output address, AI, kind, permissions; or the fault. -/
abbrev Probe := Except XFault (Nat × Nat × Nat × Nat)

def permBits (r w x : Bool) : Nat := r.toNat + 2 * w.toNat + 4 * x.toNat

/-- Stage 1 only (modes 0 and 1). -/
def probe1 (s : State) (k pl : Nat) (va : Word) : Probe :=
  if bitsOf va 63 48 != 0 then .error ⟨xAddrSize, 0, false, false, false, none, 0⟩
  else
    match coreStage1 s k va.toNat with
    | .error f => .error f
    | .ok l =>
      let ai := bitsOf l.entry 4 2
      let kd := palKind (front s k).attrpal ai
      .ok (l.out, ai, kd, permBits (perm1 l.entry pl .load) (perm1 l.entry pl .store)
        (perm1 l.entry pl .fetch && kd != 0))

/-- Both stages with the permissions of level T (mode 2). -/
def probe2 (s : State) (k : Nat) (va : Word) : Probe :=
  if bitsOf va 63 48 != 0 then .error ⟨xAddrSize, 0, false, false, false, none, 0⟩
  else
    match coreStage1 s k va.toNat with
    | .error f => .error f
    | .ok l1 =>
      match leaf2Of s k l1.out with
      | .error f => .error f
      | .ok l2 =>
        let ai := bitsOf l1.entry 4 2
        let kd := min (palKind (front s k).attrpal ai) (kind2 l2.entry)
        let p (a : Access) : Bool := perm1 l1.entry 0 a && perm2 l2.entry a
        .ok (l2.out, ai, kd, permBits (p .load) (p .store) (p .fetch && !fetchDev s l2.out kd))

/-- A leaf of stage 2 or of K-space as an answer. -/
def probeLeaf (s : State) (l : Leaf) : Nat × Nat × Nat × Nat :=
  let kd := kind2 l.entry
  (l.out, 0, kd, permBits (perm2 l.entry .load) (perm2 l.entry .store) (perm2 l.entry .fetch && !fetchDev s l.out kd))

/-- Stage 2 only (mode 3). -/
def probe3 (s : State) (k : Nat) (ipa : Word) : Probe :=
  if bitsOf ipa 63 44 != 0 then .error ⟨xAddrSize, 0, true, false, false, none, 0⟩
  else
    match leaf2Of s k ipa.toNat with
    | .error f => .error f
    | .ok l => .ok (probeLeaf s l)

/-- K-space (mode 4). -/
def probe4 (s : State) (k : Nat) (va : Word) : Probe :=
  if bitsOf va 63 48 != 0 then .error ⟨xAddrSize, 0, false, false, false, none, 0⟩
  else if !bitOf va 47 then .error ⟨xTranslation, 0, false, false, true, none, 0⟩
  else
    match kspaceWalk s k va.toNat with
    | .error f => .error f
    | .ok l => .ok (probeLeaf s l)

/-- The RAW64 result of R170. -/
def probeCell (r : Probe) : Cell :=
  match r with
  | .ok (out, ai, kd, perms) => cellRaw (w64 (out % 2 ^ 44 + ai * 2 ^ 44 + kd * 2 ^ 48 + perms * 2 ^ 50))
  | .error f =>
    cellRaw (w64 (syndrome f .load + (if f.stage2 then f.ipa / 4096 % 2 ^ 32 * 4096 else 0) + 2 ^ 63))

/-- The lowest level of an XPROBE mode; none for an unknown mode. -/
def probeLevel (m : Nat) : Option Nat := if m ≤ 1 then some 1 else if m ≤ 4 then some 2 else none

/-- XPROBE (R170). It may fill the TLBs: whether it does is a free choice. -/
def xprobeBody (k : CoreId) (rd ra rb : Gpr) : Body := fun s =>
  let m := (regWord s k rb).toNat
  let va := regWord s k ra
  withOps [opAddr s k.val ra, opFix s k rb]
    (match probeLevel m with
      | none => .error (illegalOp 0)
      | some pl => guardTrap (decide (plOf (front s k.val) < pl)) (privOp 0)
          (let r := if m = 0 then probe1 s k.val 0 va else if m = 1 then probe1 s k.val 1 va
            else if m = 2 then probe2 s k.val va else if m = 3 then probe3 s k.val va else probe4 s k.val va
           let d := drawBit s
           done k rd (probeCell r)
             (if !d.1 || (m = 4 && !bitOf va 47) || (m = 3 && bitsOf va 63 44 != 0) then d.2
              else if m = 3 then fillStage2 k.val va.toNat d.2
              else walkFor k.val (if m = 4 then 2 else if m = 1 then 1 else 0) .load va d.2)))

def execXprobe (k : CoreId) (rd ra rb : Gpr) (s : State) : Host.Outcome State Fault Refusal :=
  runInstr k (xprobeBody k rd ra rb) s

end Sys2Proof.Machine
end

