-- ==== Sys2Proof/Machine/Special.lean ====
section
/-!
DEFINITION. Machine/Special.lean: the special registers (R61, R62, R466), MFS and MTS (R98, R105), and the fences (R100).
-/

namespace Sys2Proof.Machine

/-! ### Reading -/

/-- S2TTB as it reads: S2EN reads 1 on an assigned core (07). -/
def s2ttbRead (s : State) (k : Nat) : Word := putBit (getCore s k).s2ttb 0 (s2On s k)

/-- The lowest level that may read special register `n`, and its cell; none for an unassigned number (R62, R466). -/
def sprRead (s : State) (k n : Nat) : Option (Nat × Cell) :=
  let c := getCore s k
  let x := c.front
  if 0x040 ≤ n && n ≤ 0x04F then some (1, sparseGet (fun _ => cellVoid) x.ck (n - 0x040))
  else if 0x060 ≤ n && n ≤ 0x06F then some (2, sparseGet (fun _ => cellVoid) c.mantle (n - 0x060))
  else
    match n with
    | 0x000 => some (0, cellRaw (pstatRead x))
    | 0x001 => some (0, cellRaw x.cmode)
    | 0x002 => some (0, cellRaw x.wstat)
    | 0x003 => some (0, cellRaw x.csp)
    | 0x004 => some (0, cellRaw x.cbase)
    | 0x005 => some (0, cellRaw x.clim)
    | 0x006 => some (0, cellRaw x.mh)
    | 0x007 => some (0, cellRaw x.ml)
    | 0x008 => some (0, cellRaw x.ctxid)
    | 0x009 => some (0, cellRaw (w64 x.predStatic.toNat))
    | 0x00A => some (1, cellRaw x.s1ttb)
    | 0x00B => some (1, cellRaw x.attrpal)
    | 0x010 => some (0, cellFix (w64 c.cycle))
    | 0x011 => some (0, ⟨tagPhase15, dtNow s⟩)
    | 0x050 => some (1, cellRaw x.tpc)
    | 0x051 => some (1, cellRaw x.tnpc)
    | 0x052 => some (1, cellRaw x.tstat)
    | 0x053 => some (1, cellRaw x.tcause)
    | 0x054 => some (1, x.taddr)
    | 0x055 => some (1, x.tprog)
    | 0x070 => some (2, cellRaw c.mtpc)
    | 0x071 => some (2, cellRaw c.mtnpc)
    | 0x072 => some (2, cellRaw c.mtstat)
    | 0x073 => some (2, cellRaw c.mtcause)
    | 0x074 => some (2, c.mtaddr)
    | 0x075 => some (2, c.mtprog)
    | 0x080 => some (1, cellRaw x.vbrS)
    | 0x081 => some (2, cellRaw c.vbrK)
    | 0x082 => some (2, cellRaw c.edtb)
    | 0x083 => some (2, cellRaw c.dfsp)
    | 0x0A0 => some (2, cellRaw (s2ttbRead s k))
    | 0x0C0 => some (0, cellRaw c.maint)
    | 0x0D0 => some (1, cellRaw c.abcur)
    | 0x0D1 => some (1, cellRaw c.abend)
    | 0x110 => some (1, cellRaw c.wrongPath)
    | 0x200 => some (0, cellRaw (w64 k))
    | 0x201 => some (0, cellRaw c.mcver)
    | _ => none

/-- MFS (R61, R66). -/
def mfsBody (k : CoreId) (rd ra : Gpr) (spr : BitVec 10) : Body := fun s =>
  guardTrap (ra.val != 0) (illegalOp 0)
    (match sprRead s k.val spr.toNat with
      | none => .error (illegalOp 0)
      | some (pl, c) => needLevel s k pl (done k rd c s))

/-! ### Writing -/

/-- The lowest level that may write special register `n`; none where MTS raises ILLEGAL_OP (R62, R466). -/
def sprWriteLevel (n : Nat) : Option Nat :=
  if n = 0x006 || n = 0x007 then some 0
  else if n = 0x000 || (0x002 ≤ n && n ≤ 0x005) || n = 0x009 || n = 0x00A || n = 0x0C0 || n = 0x080 || n = 0x110 ||
    (0x040 ≤ n && n ≤ 0x04F) || (0x050 ≤ n && n ≤ 0x055) then some 1
  else if n = 0x00B || n = 0x081 || n = 0x082 || n = 0x083 || n = 0x0A0 ||
    (0x060 ≤ n && n ≤ 0x06F) || (0x070 ≤ n && n ≤ 0x075) then some 2
  else none

/-- An MTS to PSTAT whose PL is the present level (R105). -/
def pstatWrite (v : Word) (x : Ctx) : Ctx :=
  let p := putBit x.pstat 4 (bitOf v 4)
  if bitOf v 2 then { x with pstat := putBits (putBit p 2 true) 19 7 0 }
  else if plOf x = 2 || nibRunOf x then { x with pstat := putBit p 2 false }
  else { x with pstat := p }

/-- The tag of TPROG after an MTS (05). -/
def tprogCell (v : Word) : Cell :=
  let fn := bitsOf v 42 32
  ⟨if 0x020 ≤ fn && fn ≤ 0x023 && bitsOf v 63 44 == 0 then tagCont else tagVoid, v⟩

/-- PRED_CTL (R75): STATIC; REKEY draws a key; FLUSH empties the core's tables and the context's history and stack. -/
def predWrite (k : Nat) (v : Word) (s : State) : State :=
  let s1 := modFront k (fun x => { x with predStatic := bitOf v 0 }) s
  let s2 := if bitOf v 1 then
      let d := drawWord s1
      modFront k (fun x => { x with key := d.1 }) d.2
    else s1
  if bitOf v 2 then
    modCore k (fun c => { c with
      dirs := []
      targets := []
      targetLru := []
      front := { c.front with history := 0, rstack := [] } }) s2
  else s2

/-- The value of ATTRPAL's defined bits (07). -/
def palMask (v : Word) : Word := v &&& 0x0F0F0F0F0F0F0F0F

/-- Special register `n` takes the data of a source cell (R61). -/
def sprWrite (k n : Nat) (c : Cell) (s : State) : State :=
  let v := c.data
  let x (f : Ctx → Ctx) : State := modFront k f s
  let o (f : CoreState → CoreState) : State := modCore k f s
  if 0x040 ≤ n && n ≤ 0x04F then x (fun x => { x with ck := sparsePut (fun _ => cellVoid) (n - 0x040) c x.ck })
  else if 0x060 ≤ n && n ≤ 0x06F then
    o (fun q => { q with mantle := sparsePut (fun _ => cellVoid) (n - 0x060) c q.mantle })
  else
    match n with
    | 0x000 => x (pstatWrite v)
    | 0x002 => x (fun x => { x with wstat := wstatMask v })
    | 0x003 => x (fun x => { x with csp := keepBits v 47 3 })
    | 0x004 => x (fun x => { x with cbase := keepBits v 47 3 })
    | 0x005 => x (fun x => { x with clim := keepBits v 47 3 })
    | 0x006 => x (fun x => { x with mh := v })
    | 0x007 => x (fun x => { x with ml := v })
    | 0x009 => predWrite k v s
    | 0x00A => x (fun x => { x with s1ttb := keepBits v 43 12 ||| keepBits v 63 48 })
    | 0x00B => x (fun x => { x with attrpal := palMask v })
    | 0x050 => x (fun x => { x with tpc := keepBits v 47 2 })
    | 0x051 => x (fun x => { x with tnpc := keepBits v 47 2 })
    | 0x052 => x (fun x => { x with tstat := keepBits v 61 0 })
    | 0x053 => x (fun x => { x with tcause := v })
    | 0x054 => x (fun x => { x with taddr := cellRaw v })
    | 0x055 => x (fun x => { x with tprog := tprogCell v })
    | 0x070 => o (fun q => { q with mtpc := keepBits v 47 2 })
    | 0x071 => o (fun q => { q with mtnpc := keepBits v 47 2 })
    | 0x072 => o (fun q => { q with mtstat := keepBits v 61 0 })
    | 0x073 => o (fun q => { q with mtcause := v })
    | 0x074 => o (fun q => { q with mtaddr := cellRaw v })
    | 0x075 => o (fun q => { q with mtprog := tprogCell v })
    | 0x080 => x (fun x => { x with vbrS := keepBits v 47 10 })
    | 0x081 => o (fun q => { q with vbrK := keepBits v 47 10 })
    | 0x082 => o (fun q => { q with edtb := keepBits v 47 13 })
    | 0x083 => o (fun q => { q with dfsp := keepBits v 43 12 })
    | 0x0A0 => o (fun q => { q with s2ttb := keepBits v 43 12 ||| keepBits v 0 0 })
    | 0x0C0 => o (fun q => { q with maint := putBits (putBits q.maint 51 0 (bitsOf v 51 0)) 53 53 (bitsOf v 53 53) })
    | 0x110 => o (fun q => { q with wrongPath := v })
    | _ => s

/-- The trap an MTS takes by the value of its operand (step 4 of R81): PSTAT, WSTAT. -/
def mtsValueTrap (x : Ctx) (n : Nat) (v : Word) : Option Trap :=
  if n = 0x002 && !wstatOk v then some (illegalOp 2)
  else if n = 0x000 && bitsOf v 1 0 != plOf x then some (privOp 0)
  else none

/-- CK0 to CK15 and MK0 to MK15 are stored whole, without a use (R61). -/
def sprWhole (n : Nat) : Bool := (0x040 ≤ n && n ≤ 0x04F) || (0x060 ≤ n && n ≤ 0x06F)

/-- MTS (R61, R66, R81). -/
def mtsBody (k : CoreId) (rd ra : Gpr) (n : Nat) : Body := fun s =>
  let c := readReg s k.val ra
  guardTrap (rd.val != 0) (illegalOp 0)
    (match sprWriteLevel n with
      | none => .error (illegalOp 0)
      | some pl => needLevel s k pl
          (withOps (if sprWhole n then [] else [opTags s k.val ra (fun _ => true)])
            (match mtsValueTrap (front s k.val) n c.data with
              | some t => .error t
              | none => .ok (sprWrite k.val n c s, .seq))))

def execMfs (k : CoreId) (rd ra : Gpr) (spr : BitVec 10) (s : State) : Host.Outcome State Fault Refusal :=
  runInstr k (mfsBody k rd ra spr) s
def execMts (k : CoreId) (rd ra : Gpr) (spr : BitVec 10) (s : State) : Host.Outcome State Fault Refusal :=
  runInstr k (mtsBody k rd ra spr.toNat) s
/-- MTS to PSTAT (R105). -/
def execMtsPstat (k : CoreId) (rd ra : Gpr) (s : State) : Host.Outcome State Fault Refusal :=
  runInstr k (mtsBody k rd ra 0x000) s
/-- MTS to WSTAT (R57). -/
def execMtsWstat (k : CoreId) (rd ra : Gpr) (s : State) : Host.Outcome State Fault Refusal :=
  runInstr k (mtsBody k rd ra 0x002) s
/-- MTS to TPROG (05). -/
def execMtsTprog (k : CoreId) (rd ra : Gpr) (s : State) : Host.Outcome State Fault Refusal :=
  runInstr k (mtsBody k rd ra 0x055) s
/-- An MTS to PRED_CTL, whose REKEY bit draws a new key (R75). -/
def execPredRekey (k : CoreId) (rd ra : Gpr) (s : State) : Host.Outcome State Fault Refusal :=
  runInstr k (mtsBody k rd ra 0x009) s
/-- An MTS to PRED_CTL, whose FLUSH bit empties the prediction tables (03). -/
def execPredFlush (k : CoreId) (rd ra : Gpr) (s : State) : Host.Outcome State Fault Refusal :=
  runInstr k (mtsBody k rd ra 0x009) s

/-! ### Fences (R100) -/

/-- FENCE.M: the merging buffer has drained. -/
def execFenceM (k : CoreId) (s : State) : Host.Outcome State Fault Refusal :=
  runInstr k (fun s => .ok (drainAll k.val s, .seq)) s
/-- FENCE.P: posts are accepted before their POST retires; the order of their actions is fixed here. -/
def execFenceP (k : CoreId) (s : State) : Host.Outcome State Fault Refusal :=
  runInstr k (fun s => .ok (placeFence k.val s, .seq)) s
/-- FENCE.T: FENCE.M, and every TLBI of this core has completed. -/
def execFenceT (k : CoreId) (s : State) : Host.Outcome State Fault Refusal :=
  runInstr k (fun s =>
    let s1 := drainAll k.val s
    .ok (tlbiDrain k.val (getCore s1 k.val).tlbis.length s1, .seq)) s
/-- FENCE.H: FENCE.M; host-visible effects take place in order in this model. -/
def execFenceH (k : CoreId) (s : State) : Host.Outcome State Fault Refusal :=
  runInstr k (fun s => .ok (drainAll k.val s, .seq)) s

end Sys2Proof.Machine
end

