-- ==== Sys2Proof/Machine/CacheCmd.lean ====
section
/-!
DEFINITION. Machine/CacheCmd.lean: fills, drains and write-backs (R177, R178, R180), STORE_ERROR (R110), cache
maintenance (R182 to R185, R187), locking, disabling and failed ways (R186, R188, R189) of
08_caches_larders_memory.md.
-/

namespace Sys2Proof.Machine

/-! ### Fills, drains, write-backs -/

/-- LINE_FILL (R174, R180): a miss of an access of kind WTM or WBC to DDR is filled; other accesses fill nothing. The walk it
may need fills the TLBs (R163). The command does not say what asked for the line: a free value chooses a demand access, a
hardware prefetch, which leaves the replacement state alone, or a fetch on the wrong path, which only an L2 hit serves and
which leaves the L2's state alone (R77, R163, R181). -/
def execLineFill (k : CoreId) (acc : Access) (va : Word) (s : State) : Host.Outcome State Fault Refusal :=
  match translate s k.val (plOf (front s k.val)) acc va with
  | .error _ => .next s
  | .ok x =>
    if 2 ≤ x.kind && regionOf s x.pa == .ddr then
      let line := x.pa / 64
      let l1 := if acc = .fetch then l1iOf k.val else l1dOf k.val
      let d := drawNat s
      let t := fillFor k.val l1 line x.nl2 x.nsc (snoopRead k.val line d.2)
      .next (match d.1 % 3 with
        | 1 => { t with plru := s.plru }
        | 2 => if acc = .fetch && cacheHolds s (l2Of (k.val / 8)) line then allocLine l1 line d.2 else t
        | _ => t)
    else .next s

/-- MERGE_BUFFER_DRAIN (R177): the oldest entry drains. -/
def execMergeBufferDrain (k : CoreId) (s : State) : Host.Outcome State Fault Refusal := .next (drainOldest k.val s)

/-- Cells of a line become POISON where every agent reads them (R28, R110). -/
def poisonLine (origin line : Nat) (pick : Nat → Bool) (s : State) : State :=
  (List.range 8).foldl (fun t i => if pick i then memPut (line * 64 + 8 * i) (poisonOf origin (line * 64 + 8 * i)) t else t) s

/-- WBC_WRITEBACK (R178): a dirty line leaves the L1D and is written back. A write-back that fails leaves POISON in memory
and a WRITEBACK_FAIL record (R110, R444). -/
def execWbcWriteback (k : CoreId) (line : BitVec 38) (failed : Bool) (s : State) : Host.Outcome State Fault Refusal :=
  match cacheFind s (l1dOf k.val) line.toNat with
  | some e =>
    if !e.dirty then .next s
    else
      let s1 := recallLine (l1dOf k.val) line.toNat s
      .next (if failed then
        logFault ⟨8, 0x0B, k.val, 0, 0, 0, line.toNat * 64, 0⟩ (poisonLine 0x0B line.toNat (fun _ => true) s1) else s1)
  | none => .next s

/-- STORE_ERROR (R110): a store of the core has failed after it left the merging buffer: the error of the line it merged
into, or of the device it went to, with its origin kind; `cells`: those of the line that hold POISON. -/
def execStoreError (k : CoreId) (origin : BitVec 8) (pa : BitVec 44) (cells : BitVec 8) (s : State) :
    Host.Outcome State Fault Refusal :=
  .next (raiseStoreError k.val origin.toNat pa.toNat (poisonLine origin.toNat (pa.toNat / 64) (fun i => cells.getLsbD i) s))

/-! ### Maintenance of one line (R182) -/

/-- What a maintenance operation does: 0 CLEAN, 1 FLUSH, 2 INV with discard. -/
def maintLine (op : Nat) (c line : Nat) (s : State) : State :=
  if op = 0 then cleanLine c line s
  else if op = 1 then leaveLine recallLine c line s
  else leaveLine dropLine c line s

/-- CACHE_MAINT_STAT.SKIPPED counts a locked line that was skipped (R183). -/
def countSkip (k : Nat) (s : State) : State :=
  modCore k (fun c => { c with maint := putBits c.maint 51 28 (min (bitsOf c.maint 51 28 + 1) (2 ^ 24 - 1)) }) s

/-- An operation on one line of one cache; a locked line is skipped and counted unless `incl`; CLEAN never skips. -/
def maintOne (k op : Nat) (incl : Bool) (line c : Nat) (s : State) : State :=
  if !cacheHolds s c line then s
  else if op != 0 && !incl && heldLocked s c line then countSkip k s
  else maintLine op c line s

/-- Every cache, from the cores to the SC. -/
def allCaches : List Nat := (List.range 64).map (fun i => 64 + i) ++ List.range 64 ++ (List.range 9).map (fun i => 128 + i)

/-- The caches that hold a line, in the order of `allCaches`. -/
def holders (s : State) (line : Nat) : List Nat := allCaches.filter (fun c => cacheHolds s c line)

/-- An operation on a line in each of some caches. -/
def maintAll (k op : Nat) (incl : Bool) (line : Nat) (cs : List Nat) (s : State) : State :=
  cs.foldl (fun t c => maintOne k op incl line c t) s

/-- A maintenance instruction on the line at VA ra (R182): level, rd = 0, operands, the control bits, translation. On
lines of kind DEV, in the larder or in the register region it has no effect. -/
def maintBody (k : CoreId) (pl : Nat) (acc : Access) (op : State → Nat) (rd ra rb : Gpr) : Body := fun s =>
  let v := regWord s k rb
  let va := regWord s k ra
  let me := plOf (front s k.val)
  guardTrap (rd.val != 0) (illegalOp 0) (needLevel s k pl
    (withOps [opAddr s k.val ra, opFix s k rb]
      (guardTrap (bitsOf v 63 1 != 0) (illegalOp 0)
        (match xlate k.val me acc va s with
          | .error f => .error (xTrap f acc va)
          | .ok (x, s1) =>
            if x.kind != 0 && regionOf s1 x.pa == .ddr then
              .ok (maintAll k.val (op s1) (bitOf v 0 && me != 0) (x.pa / 64) (holders s1 (x.pa / 64)) s1, .seq)
            else .ok (s1, .seq)))))

def execCclean (k : CoreId) (rd ra rb : Gpr) (s : State) : Host.Outcome State Fault Refusal :=
  runInstr k (maintBody k 0 .load (fun _ => 0) rd ra rb) s
def execCflush (k : CoreId) (rd ra rb : Gpr) (s : State) : Host.Outcome State Fault Refusal :=
  runInstr k (maintBody k 0 .store (fun _ => 1) rd ra rb) s
/-- CINV discards dirty data at level K and acts as CFLUSH at level S. -/
def execCinv (k : CoreId) (rd ra rb : Gpr) (s : State) : Host.Outcome State Fault Refusal :=
  runInstr k (maintBody k 1 .store (fun s => if plOf (front s k.val) = 2 then 2 else 1) rd ra rb) s

/-! ### CPRE (R187) -/

/-- The owner field of way `w` of an L2 or of the SC: the partition, or none for the keeper (R186). -/
def wayOwner (s : State) (c w : Nat) : Option Nat :=
  let v := if c < 136 then fget s fldCLU_L2_WAYOWN_OWN (c - 128) else fget s fldSC_WAYOWN_OWN 0
  if nbits v (4 * w + 3) (4 * w + 3) = 1 then some (nbits v (4 * w + 2) (4 * w)) else none

/-- The partition CPRE acts for: the keeper at level K. -/
def issuerPart (s : State) (k : Nat) : Option Nat := if plOf (front s k) = 2 then none else partOf s k

/-- A line moves into an empty slot of its set, with its dirty mark. -/
def moveLine (c line w : Nat) (s : State) : State :=
  let moved := s.lines.map (fun e => if e.cache == c && e.line == line then { e with way := w } else e)
  touchWay c line w { s with lines := moved }

/-- CPRE at one level: its status and the state after. Code of no partition owns no way (R467). -/
def preload (k c : Nat) (x : Xl) (s : State) : Nat × State :=
  let line := x.pa / 64
  let rightless := plOf (front s k) != 2 && (partOf s k).isNone
  let barred := x.kind < 2 || regionOf s x.pa != .ddr || !cacheOn s c || (if c = scCache then x.nsc else x.nl2)
  if barred then (3, s)
  else if heldLocked s c line then (2, touchLine c line s)
  else
    let slot := (List.range 12).find? (fun w => !rightless && wayLocked s c w && !wayDis s c w && wayOwner s c w == issuerPart s k &&
      (slotLine s c (setIndex c line) w).isNone)
    match slot with
    | some w => (0, if cacheHolds s c line then moveLine c line w s else placeLine c line w (snoopRead k line s))
    | none => (1, allocLine c line (snoopRead k line s))

def cpreBody (k : CoreId) (rd ra rb : Gpr) : Body := fun s =>
  let v := regWord s k rb
  let va := regWord s k ra
  withOps [opAddr s k.val ra, opFix s k rb]
    (guardTrap (bitsOf v 63 3 != 0 || bitsOf v 2 1 == 0) (illegalOp 0)
      (match xlate k.val (plOf (front s k.val)) .load va s with
        | .error f => .error (xTrap f .load va)
        | .ok (x, s1) =>
          let sc := if bitOf v 2 then preload k.val scCache x s1 else (3, s1)
          let l2 := if bitOf v 1 then preload k.val (l2Of (k.val / 8)) x sc.2 else (sc.1, sc.2)
          done k rd (cellFix (w64 l2.1)) l2.2))

def execCpre (k : CoreId) (rd ra rb : Gpr) (s : State) : Host.Outcome State Fault Refusal :=
  runInstr k (cpreBody k rd ra rb) s

/-! ### CMR (R183) -/

def cmrBody (k : CoreId) (rd ra rb : Gpr) : Body := fun s =>
  let v := regWord s k rb
  let va := regWord s k ra
  let c := getCore s k.val
  let op := bitsOf v 29 28
  needLevel s k 1
    (withOps [opAddr s k.val ra, opFix s k rb]
      (guardTrap (bitsOf v 27 0 == 0 || op == 3 || bitsOf v 31 30 == 0 || bitsOf v 63 34 != 0) (illegalOp 0)
        (if c.rangeOp.isSome then done k rd (cellFix 1) s
         else
          let who := ctxTask c.front
          let task := match who with
            | some (_, t) => t
            | none => 0
          let epoch := match who with
            | some (p, t) => tcbEpoch s p t
            | none => 0
          let r : RangeOp := ⟨va.toNat / 64 * 64, bitsOf v 27 0, op, bitsOf v 31 30, bitOf v 32,
            bitOf v 33 && who.isSome, plOf c.front == 2, if s2On s k.val then partOf s k.val else none, task, epoch⟩
          done k rd (cellFix 0)
            (modCore k.val (fun c => { c with rangeOp := some r, maint := w64 (2 ^ 52) }) s))))

def execCmr (k : CoreId) (rd ra rb : Gpr) (s : State) : Host.Outcome State Fault Refusal :=
  runInstr k (cmrBody k rd ra rb) s

/-- The physical address a range operation reaches, or the fault. A core without a partition whose stage 2 is on uses
its own tables. -/
def rangeXlate (s : State) (k : Nat) (r : RangeOp) (ipa : Nat) : Except XFault Nat :=
  let acc : Access := if r.op = 0 then .load else .store
  if 2 ^ 44 ≤ ipa then .error ⟨xAddrSize, 0, true, false, false, none, ipa⟩
  else
    match r.part with
    | some p => fabricXlate s p acc ipa
    | none =>
      match coreStage2 s k ipa acc false with
      | .error f => .error f
      | .ok l => .ok l.out

/-- The caches a range operation names (LEVELS). -/
def rangeCaches (levels : Nat) (cs : List Nat) : List Nat :=
  cs.filter (fun c => if c = scCache then bitOf (w64 levels) 1 else bitOf (w64 levels) 0)

/-- The lines of a range operation, in order; it stops at a line that faults. -/
def rangeRun (k : Nat) (r : RangeOp) : Nat → Nat → State → State
  | 0, _, s => s
  | n + 1, ipa, s =>
    match rangeXlate s k r ipa with
    | .error f =>
      let syn := syndrome f (if r.op = 0 then .load else .store)
      modCore k (fun c => { c with maint := putBits (putBit c.maint 53 true) 63 54 syn }) s
    | .ok pa =>
      let op := if r.op = 2 && !r.discard then 1 else r.op
      let s1 := if regionOf s pa == .ddr then
          maintAll k op r.inclLocked (pa / 64) (rangeCaches r.levels (holders s (pa / 64))) s
        else s
      rangeRun k r n (ipa + 64)
        (modCore k (fun c => { c with maint := putBits c.maint 27 0 (bitsOf c.maint 27 0 + 1) }) s1)

/-- CMR_COMPLETE (R183): the operation runs to its end or its fault; BUSY reads 0; WAKE sets wake code 3. DESIGN CHOICE (log): a
range operation has no descriptor, so the bounce record of its wake holds VOID cells. -/
def execCmrComplete (k : CoreId) (s : State) : Host.Outcome State Fault Refusal :=
  match (getCore s k.val).rangeOp with
  | none => .next s
  | some r =>
    let s1 := rangeRun k.val r r.lines r.ipa s
    let s2 := modCore k.val (fun c => { c with rangeOp := none, maint := putBit c.maint 52 false }) s1
    match partOf s2 k.val with
    | some p => .next (if r.wake then wakeTask p r.task r.epoch 3 [] s2 else s2)
    | none => .next s2

/-! ### CSW (R184) -/

/-- The cache a locator names. -/
def cswCache (k n : Nat) : Nat :=
  if n = 0 then l1dOf k else if n = 1 then l1iOf k else if n = 2 then l2Of (k / 8) else scCache

def cswBody (k : CoreId) (rd ra rb : Gpr) : Body := fun s =>
  let a := regWord s k ra
  let v := regWord s k rb
  let c := cswCache k.val (bitsOf a 1 0)
  let set := bitsOf a 16 2
  let way := bitsOf a 20 17
  guardTrap (rd.val != 0) (illegalOp 0) (needLevel s k 2
    (withOps [opFix s k ra, opFix s k rb]
      (guardTrap (bitsOf a 63 21 != 0 || decide (cacheSets c ≤ set) || decide (cacheWays c ≤ way) ||
          bitsOf v 1 0 == 3 || bitsOf v 63 3 != 0) (illegalOp 0)
        (match slotLine s c set way with
          | none => .ok (s, .seq)
          | some e => .ok (maintOne k.val (bitsOf v 1 0) (bitOf v 2) e.line c s, .seq)))))

def execCsw (k : CoreId) (rd ra rb : Gpr) (s : State) : Host.Outcome State Fault Refusal :=
  runInstr k (cswBody k rd ra rb) s

/-! ### Sweeps (R186, R188, R189) -/

def cacheNo : CacheId → Nat
  | .l2 c => l2Of c.val
  | .sc => scCache

/-- EN of a cache. -/
def cacheEn (s : State) : CacheId → Nat
  | .l2 c => fget s fldCLU_L2_CTL_EN c.val
  | .sc => fget s fldSC_CTL_EN 0

def setCacheEn (v : Nat) (c : CacheId) (s : State) : State :=
  match c with
  | .l2 c => fset fldCLU_L2_CTL_EN c.val v s
  | .sc => fset fldSC_CTL_EN 0 v s

/-- A bit of LOCK or of DIS, and SWEEP. -/
def setLock (c w : Nat) (b : Bool) (s : State) : State :=
  if c < 136 then fset fldCLU_L2_WAYCTL_LOCK (c - 128) (nput (fget s fldCLU_L2_WAYCTL_LOCK (c - 128)) w w b.toNat) s
  else fset fldSC_WAYCTL_LOCK 0 (nput (fget s fldSC_WAYCTL_LOCK 0) w w b.toNat) s
def setDis (c w : Nat) (b : Bool) (s : State) : State :=
  if c < 136 then fset fldCLU_L2_WAYCTL_DIS (c - 128) (nput (fget s fldCLU_L2_WAYCTL_DIS (c - 128)) w w b.toNat) s
  else fset fldSC_WAYCTL_DIS 0 (nput (fget s fldSC_WAYCTL_DIS 0) w w b.toNat) s
def setSweep (c : Nat) (b : Bool) (s : State) : State :=
  if c < 136 then fset fldCLU_L2_WAYCTL_SWEEP (c - 128) b.toNat s else fset fldSC_WAYCTL_SWEEP 0 b.toNat s

/-- Every line of a cache that `pick` selects is flushed (R188). -/
def sweepLines (c : Nat) (pick : CacheLine → Bool) (s : State) : State :=
  (s.lines.filter (fun e => e.cache == c && pick e)).foldl (fun t e => leaveLine recallLine c e.line t) s

/-- A sweep of a way begins (SWEEP reads 1). -/
def startWaySweep (c : Nat) (kind : SweepKind) (s : State) : State :=
  setSweep c true { s with sweeps := s.sweeps ++ [⟨c, kind⟩] }

/-- CACHE_DISABLE (R188): writing DISABLED while ENABLED starts the sweep; otherwise it is ignored. -/
def execCacheDisable (c : CacheId) (s : State) : Host.Outcome State Fault Refusal :=
  if cacheEn s c = 1 then
    .next (setCacheEn 2 c { s with sweeps := s.sweeps ++ [⟨cacheNo c, .disable⟩] })
  else .next s

/-- CACHE_ENABLE: writing ENABLED while DISABLED enables at once; otherwise it is ignored. -/
def execCacheEnable (c : CacheId) (s : State) : Host.Outcome State Fault Refusal :=
  if cacheEn s c = 0 then .next (setCacheEn 1 c s) else .next s

/-- The end of a sweep: its lines are flushed, and the cache or way takes its state. -/
def sweepEnd (id : CacheId) (k : SweepKind) (s : State) : State :=
  let c := cacheNo id
  match k with
  | .disable => setCacheEn 0 id (sweepLines c (fun _ => true) s)
  | .lock w => setLock c w true (sweepLines c (fun e => e.way == w) s)
  | .way w => setDis c w true (sweepLines c (fun e => e.way == w) s)

/-- CACHE_SWEEP_DONE: the oldest sweep of the cache ends; SWEEP reads 0 when no way sweep remains. -/
def execCacheSweepDone (c : CacheId) (s : State) : Host.Outcome State Fault Refusal :=
  match s.sweeps.find? (fun w => w.cache == cacheNo c) with
  | none => .next s
  | some w =>
    let s1 := sweepEnd c w.kind { s with sweeps := s.sweeps.erase w }
    .next (if s1.sweeps.any (fun x => x.cache == cacheNo c && x.kind != .disable) then s1
      else setSweep (cacheNo c) false s1)

/-- WAY_LOCK (R186). -/
def execWayLock (c : CacheId) (w : Fin 12) (s : State) : Host.Outcome State Fault Refusal :=
  if wayLocked s (cacheNo c) w.val then .next s else .next (startWaySweep (cacheNo c) (.lock w.val) s)

/-- WAY_UNLOCK (R186): the way's lines become ordinary lines in place. -/
def execWayUnlock (c : CacheId) (w : Fin 12) (s : State) : Host.Outcome State Fault Refusal :=
  .next (setLock (cacheNo c) w.val false s)

/-- The start of a way's disabling, by the keeper or by a declared fault (R189). -/
def disableWay (c w : Nat) (s : State) : State := if wayDis s c w then s else startWaySweep c (.way w) s

/-- The fault class and unit of a way (R439). -/
def wayUnit (c w : Nat) : Nat × Nat := if c < 136 then (1, 64 + 16 * (c - 128) + w) else (2, 192 + w)
/-- The class action of a unit runs. -/
def unitActing (s : State) (cls unit : Nat) : Bool := s.faultActs.any (fun a => a.cls == cls && a.unit == unit)
/-- A write of a DIS bit, which waits for the end of an action on its way (R189, R446). -/
def writeDis (c w : Nat) (b : Bool) (s : State) : State :=
  if unitActing s (wayUnit c w).1 (wayUnit c w).2 then { s with deferred := s.deferred ++ [(0, 256 * c + w, w64 b.toNat)] }
  else if b then disableWay c w s else setDis c w false s

/-- WAY_DISABLE (R189). -/
def execWayDisable (c : CacheId) (w : Fin 16) (s : State) : Host.Outcome State Fault Refusal :=
  .next (writeDis (cacheNo c) w.val true s)

/-- WAY_ENABLE (R189). -/
def execWayEnable (c : CacheId) (w : Fin 16) (s : State) : Host.Outcome State Fault Refusal :=
  .next (writeDis (cacheNo c) w.val false s)

end Sys2Proof.Machine
end

