-- ==== Sys2Proof/Machine/Power.lean ====
section
/-!
DEFINITION. Machine/Power.lean: core rails (R423), power domains (R425, R426), thermal sensing, throttling and trip (R427 to
R429) of 18_power_reset.md, and the SMBus (R458 of 20_package_pins.md).
-/

namespace Sys2Proof.Machine

/-! ### Core rails (R423) -/

/-- VMIN as it acts. -/
def vminOf (s : State) (r : Nat) : Nat := max 650 (fget s fldPWR_AVS_VMIN r)

/-- AVS_ADJUST (R423): the margins ask for a step of 5 mV up, down or none; `ok`: the AVSBus transaction succeeded, in at most
three attempts. With EN = 0 the target is held at 0.80 V. It runs from step 4 of R383 on, when the memory leaves OFF. -/
def execAvsAdjust (r : Fin 2) (up : Option Bool) (ok : Bool) (s : State) : Host.Outcome State Fault Refusal :=
  let v := fget s fldPWR_AVS_TARGET r.val
  if memState s = memOff || fbit s fldPWR_AVS_FAULT r.val then .next s
  else if !ok then .next (raiseKeeper 0x13 (fset fldPWR_AVS_FAULT r.val 1 s))
  else if !fbit s fldPWR_AVS_EN r.val then .next (fset fldPWR_AVS_TARGET r.val 800 s)
  else
    match up with
    | none => .next s
    | some u => .next (fset fldPWR_AVS_TARGET r.val (if u then min 900 (v + 5) else max (vminOf s r.val) (v - 5)) s)

/-! ### Power domains (R425, R426) -/

@[reducible] def pwChanging : Nat := 2

/-- The conditions under which a domain may go OFF (R425). -/
def mayGoOff (s : State) (d : Nat) : Bool :=
  if d ≤ 7 then
    (List.range 8).all (fun i => !fbit s fldCLU_CORE_PART_ASSIGNED (8 * d + i) && !fbit s fldCLU_CORE_BOOT_RUN (8 * d + i)) &&
    fget s fldCLU_L2_WAYCTL_LOCK d == 0
  else if d ≤ 16 then (List.range 8).all (fun i => fget s fldLARD_BANK_CTL_PST (8 * (d - 9) + i) == 2)
  else if d = 17 then !fbit s fldLNDR_CTL_EN 0
  else if d ≤ 21 then
    (List.range 4).all (fun i => let e := 4 * (d - 18) + i
      !fbit s fldSPEC_ENG_OWN_ASSIGNED e && !s.jobs.any (fun j => j.eng == 8 + e))
  else if d = 22 then (List.range 8).all (fun u => !fbit s fldRSMP_UNIT_OWN_ASSIGNED u)
  else if d = 24 || d = 25 then (List.range 4).all (fun i => !fbit s fldSFL_LANE_CTL_EN (4 * (d - 24) + i))
  else false

/-- A reset covers the domain (R433). -/
def domResetting (s : State) (d : Nat) : Bool :=
  fbit s fldGLB_RESET_PENDING 0 || (decide (d < 8) && fbit s fldCLU_RESET_BUSY d)

/-- A write of REQ (R425, R426): ignored for fixed domains and while the domain changes. -/
def requestDomain (who : Agent) (d : Nat) (on : Bool) (s : State) : State :=
  let pst := fget s fldPWR_DOM_CTL_PST d
  if !isKeeper s who || pwrFixed d || pst = pwChanging || pst = on.toNat then s
  else if domResetting s d || (!on && !mayGoOff s d) then fset fldPWR_DOM_CTL_REFUSED d 1 s
  else fset fldPWR_DOM_CTL_PST d pwChanging (fset fldPWR_DOM_CTL_REQ d on.toNat s)

/-- POWER_DOMAIN_REQUEST (R425). -/
def execPowerDomainRequest (who : Agent) (d : Fin 30) (value : BitVec 32) (s : State) : Host.Outcome State Fault Refusal :=
  .next (requestDomain who d.val (value.getLsbD 0) s)

/-- The sensors a domain holds (R427); the larder's and the spectral array's belong to several domains. -/
def sensorDomains (i : Nat) : List Nat :=
  if i < 8 then [i]
  else [[8], [9, 10, 11, 12, 13, 14, 15, 16], [18, 19, 20, 21], [23], [24, 25], [26], [27], [28]].getD (i - 8) []
def sensorOn (s : State) (i : Nat) : Bool := (sensorDomains i).any (pwrOn s)

/-- What a domain's arrival ON brings: a cluster's control stores are loaded (R426). -/
def domainOn (d : Nat) (s : State) : State := if 1 ≤ d && d ≤ 7 then reloadMicro d s else s
/-- What it loses when it goes OFF: a cluster is cleaned, invalidated and reset. -/
def domainOff (d : Nat) (s : State) : State := if 1 ≤ d && d ≤ 7 then clusterReset d s else s

/-- POWER_DOMAIN_DONE (R426): the transition ends, and PWR_DOM is raised. -/
def execPowerDomainDone (d : Fin 30) (s : State) : Host.Outcome State Fault Refusal :=
  if fget s fldPWR_DOM_CTL_PST d.val != pwChanging then .next s
  else
    let on := fbit s fldPWR_DOM_CTL_REQ d.val
    let s1 := fset fldPWR_DOM_CTL_PST d.val on.toNat (if on then domainOn d.val s else domainOff d.val s)
    let s2 := (List.range 16).foldl (fun t i =>
      if (sensorDomains i).contains d.val && (sensorDomains i).length == 1 then fset fldPWR_THERM_VALID i 0 t else t) s1
    .next (raiseKeeper 0x12 s2)

/-! ### Temperature (R427 to R429) -/

/-- Tj in units of 0.125 °C: the highest valid reading; none before the first. -/
def tjOf (s : State) : Option Int :=
  (List.range 16).foldl (fun m i =>
    if fbit s fldPWR_THERM_VALID i && sensorOn s i then
      let t := signedOf 12 (fget s fldPWR_THERM_TEMP i)
      match m with
      | none => some t
      | some x => some (max x t)
    else m) none

/-- Thresholds as they act, in 0.125 °C. -/
def thHi (s : State) : Int := 8 * fget s fldPWR_THROT_TH_HI 0
def thLo (s : State) : Int :=
  let hi := fget s fldPWR_THROT_TH_HI 0
  let lo := fget s fldPWR_THROT_TH_LO 0
  8 * (if hi < lo then (hi : Int) - 5 else lo)
def tCrit (s : State) : Int := 8 * min 125 (fget s fldPWR_THROT_TCRIT 0)

/-- The domains that may be throttled, and the divider in force: one below the domain's own acts as 0 (R428). -/
def canThrottle (d : Nat) : Bool := d ≤ 7 || d == 10 || d == 11 || d == 12
def throttleDiv (s : State) (d : Nat) : Nat :=
  let v := fget s fldPWR_THROT_DIV_DIV d
  if canThrottle d && max 1 (fget s fldCLK_DOM_SEL_DIV d) ≤ v then v else 0

/-- The trip: THERMTRIP_N is driven low, once (R429). -/
def tripCheck (tj : Int) (s : State) : State :=
  if s.tripped || tj < tCrit s then s else raiseKeeper 0x11 (fset fldPWR_THROT_CRIT 0 1 { s with tripped := true })

/-- Throttling begins (R428). -/
def throttleCheck (tj : Int) (s : State) : State :=
  if !fbit s fldPWR_THROT_EN 0 || fbit s fldPWR_THROT_ACTIVE 0 || tj < thHi s then s
  else
    raiseKeeper 0x11 (fset fldPWR_THROT_ACTIVE 0 1 { s with
      throttled := (List.range 25).filterMap (fun d => if throttleDiv s d = 0 then none else some (d, throttleDiv s d)) })

/-- THERMAL_SAMPLE (R427): the sixteen sensors, in 0.125 °C; one in a domain that is OFF is left out. -/
def execThermalSample (temps : List (BitVec 12)) (s : State) : Host.Outcome State Fault Refusal :=
  let s1 := (List.range 16).foldl (fun t i =>
    if sensorOn t i then fset fldPWR_THERM_VALID i 1 (fset fldPWR_THERM_TEMP i ((temps.getD i 0).toNat) t)
    else fset fldPWR_THERM_VALID i 0 t) s
  match tjOf s1 with
  | none => .next s1
  | some tj => clocked (throttleCheck tj (tripCheck tj { s1 with
      cool := if tj ≤ thLo s1 then some (s1.cool.getD s1.dtime) else none }))

/-- Tj has stayed at or below TH_LO for 10 ms of device time (R428). -/
def cooled (s : State) : Bool :=
  match s.cool with
  | some t => decide (t + 2 ^ 64 / 100 ≤ s.dtime)
  | none => false

/-- THROTTLE_EXIT (R428). -/
def execThrottleExit (s : State) : Host.Outcome State Fault Refusal :=
  if fbit s fldPWR_THROT_ACTIVE 0 && cooled s then clocked (fset fldPWR_THROT_ACTIVE 0 0 { s with throttled := [] })
  else .next s

/-! ### SMBus (R458) -/

/-- A register the SMBus may read. -/
def smbusReads (r : Reg) : Bool :=
  match r with
  | .CLK_STAT | .CLK_CTL | .CLK_ADM_PIN | .CLK_PLL_CFG | .CLK_PLL_SS | .CLK_DOM_SEL => true
  | .PWR_DOM_CTL | .PWR_THERM | .PWR_THROT => true
  | _ => false

/-- SMB_ALERT_N: low while CLK_STAT holds a failure flag or CRIT is 1; true here. -/
def smbAlert (s : State) : Bool := bitsOf (getReg s .CLK_STAT 0) 9 0 != 0 || fbit s fldPWR_THROT_CRIT 0

end Sys2Proof.Machine
end

