-- ==== Sys2Proof/Machine/Faults.lean ====
section
/-!
DEFINITION. Machine/Faults.lean: how each structure handles an error (R434 to R436), class actions and their end (R438 to
R443), the keeper's retirement registers (R440, R443, R446) and patrols (R448) of 19_fault_handling.md.
-/

namespace Sys2Proof.Machine

/-! ### Errors by structure (R434) -/

/-- A register cell with an error: corrected in place, or POISON with origin REG and address 0. -/
def regPoison : Cell := cellPoison 0x09 0

/-- A core error: counted in class CORE of its unit. -/
def coreEvent (k origin : Nat) (uncorr : Bool) (s : State) : State := faultEvent 0 k origin 0 0 uncorr s

/-- A cell of a core with an error; a cell that is POISON already counts nothing (R436). -/
def regError (k : Nat) (uncorr : Bool) (old : Cell) (put : State → State) (s : State) : State :=
  if old.tag = tagPoison then s
  else if uncorr then coreEvent k 0x09 true (put s)
  else coreEvent k 0 false s

/-- The list without the entry at a place. -/
def dropAt {α : Type} (i : Nat) (l : List α) : List α := l.take i ++ l.drop (i + 1)

/-- An entry of a table of a core is invalidated: 0 ITLB, 1 DTLB, 2 L2 TLB, 3 and 4 the walk caches, 5 the product cache. -/
def dropEntry (table i : Nat) (c : CoreState) : CoreState :=
  match table with
  | 0 => { c with itlb := dropAt i c.itlb }
  | 1 => { c with dtlb := dropAt i c.dtlb }
  | 2 => { c with l2tlb := dropAt i c.l2tlb }
  | 3 => { c with walk1 := dropAt i c.walk1 }
  | 4 => { c with walk2 := dropAt i c.walk2 }
  | _ => { c with products := dropAt i c.products }

/-- A predictor entry is invalidated: 0 the direction table, 1 the indirect targets, 2 the return stack. -/
def dropPredictor (table i : Nat) (c : CoreState) : CoreState :=
  match table with
  | 0 => { c with dirs := dropAt i c.dirs }
  | 1 => { c with targets := dropAt i c.targets }
  | _ => { c with front := { c.front with rstack := dropAt i c.front.rstack } }

/-- A cell of memory as every agent reads it becomes POISON, once. -/
def poisonAt (origin line i : Nat) (s : State) : State := poisonLine origin line (fun j => j == i) s

/-- An error in a line of a cache: corrected in place; uncorrectable: a clean line is refetched, a dirty cell is POISON. -/
def lineError (c line i cls unit origin detail : Nat) (uncorr : Bool) (s : State) : State :=
  match cacheFind s c line with
  | none => s
  | some e =>
    if (sparseGet memDefault s.mem (line * 8 + i)).tag = tagPoison then s
    else if !uncorr then faultEvent cls unit 0 detail (line * 64) false s
    else if e.dirty then faultEvent cls unit origin detail (line * 64) true (poisonAt origin line i s)
    else faultEvent cls unit origin detail (line * 64) true (leaveLine recallLine c line s)

/-- The way that holds a line; 0 where none does. -/
def wayOfLine (s : State) (c line : Nat) : Nat := (cacheFind s c line).elim 0 (fun e => e.way)

/-- ECC_ERROR (R434). -/
def execEccError (site : EccSite) (uncorr : Bool) (s : State) : Host.Outcome State Fault Refusal :=
  match site with
  | .reg k fr i =>
    .next (regError k.val uncorr (ctxCell (sideCtx s k.val fr) i.val) (modCtx k.val fr (fun x => { x with
      cells := sparsePut (fun _ => cellVoid) i.val regPoison x.cells })) s)
  | .cloak k fr i =>
    .next (regError k.val uncorr (sparseGet (fun _ => cellVoid) (sideCtx s k.val fr).ck i.val)
      (modCtx k.val fr (fun x => { x with ck := sparsePut (fun _ => cellVoid) i.val regPoison x.ck })) s)
  | .mantle k i =>
    .next (regError k.val uncorr (sparseGet (fun _ => cellVoid) (getCore s k.val).mantle i.val)
      (modCore k.val (fun c => { c with mantle := sparsePut (fun _ => cellVoid) i.val regPoison c.mantle })) s)
  | .latch k fr =>
    .next (regError k.val uncorr (sideCtx s k.val fr).latch (modCtx k.val fr (fun x => { x with latch := regPoison })) s)
  | .control k =>
    if uncorr then
      let s1 := resetCore k.val (coreEvent k.val 0 true s)
      .next (match s1.boot.mcode with
        | some g => modCore k.val (fun c => { c with mcver := mcverOf g }) s1
        | none => s1)
    else .next (coreEvent k.val 0 false s)
  | .l1i k line => .next (dropLine (l1iOf k.val) line.toNat (coreEvent k.val 0 true s))
  | .l1d k line i => .next (lineError (l1dOf k.val) line.toNat i.val 0 k.val 0x06 0 uncorr s)
  | .entry k table i => .next (modCore k.val (dropEntry table.val i) (coreEvent k.val 0 true s))
  | .predictor k table i => .next (modCore k.val (dropPredictor table.val i) s)
  | .l2 c line i =>
    let w := wayOfLine s (l2Of c.val) line.toNat
    .next (lineError (l2Of c.val) line.toNat i.val 1 (64 + 16 * c.val + w) 0x07 w uncorr s)
  | .sc line i =>
    let w := wayOfLine s scCache line.toNat
    .next (lineError scCache line.toNat i.val 2 (192 + w) 0x08 w uncorr s)
  | .directory w => .next (faultEvent 2 (192 + w.val) 0 w.val 0 uncorr s)
  | .ddr line cells =>
    if regionOf s (line.toNat * 64) == .ddr then .next (ddrError (line.toNat * 64) (if uncorr then cells else 0) (!uncorr) s)
    else .next s
  | .larder b i => .next (if bankOn s b.val then larderError b.val i.val uncorr s else s)
  | .unitTable c => .next (faultEvent 9 (290 + c.val) 0 0 0 uncorr s)
  | .mirror => .next (faultEvent 8 289 0 0 0 true s)
  | .fabric line cells =>
    if uncorr then .next (faultEvent 8 289 0x0A 0 (line.toNat * 64) true (poisonLine 0x0A line.toNat (fun i => cells.getLsbD i) s))
    else .next (faultEvent 8 289 0 0 0 false s)
  | .lane l => .next (faultEvent 6 (280 + l.val) 0 l.val 0 false s)
  | .pcie => .next (faultEvent 7 288 0 0 0 uncorr s)

/-! ### Retirement registers (R440, R443) -/

/-- A core goes offline (R443): it is reset, FLT_CORE_OFF shows it, and it belongs to nobody. -/
def coreOffline (k : Nat) (s : State) : State :=
  fset fldCLU_CORE_PART_ASSIGNED k 0 (fset fldFLT_CORE_OFF_OFF 0 (Nat.lor (fget s fldFLT_CORE_OFF_OFF 0) (2 ^ k)) (resetCore k s))

/-- A keeper write of FLT_CORE_OFF: bit 0 reads 0; a 1 takes a core offline, a 0 returns it to the stopped state. -/
def putCoreOff (v : Nat) (s : State) : State :=
  let old := fget s fldFLT_CORE_OFF_OFF 0
  let new := v - v % 2
  let s1 := ((List.range 64).filter (fun k => nbits new k k == 1 && nbits old k k == 0)).foldl (fun t k => coreOffline k t) s
  fset fldFLT_CORE_OFF_OFF 0 new s1

/-- A write of FLT_LANE_RET: a 1 holds a lane FAILED, a 0 lets it seek again. -/
def putLaneRet (v : Nat) (s : State) : State :=
  let old := fget s fldFLT_LANE_RET_RET 0
  (List.range 8).foldl (fun t l =>
    if nbits v l l = nbits old l l then t
    else if nbits v l l = 1 then setLane l laneFailed t
    else if fbit t fldSFL_LANE_CTL_EN l && pwrOn t (24 + l / 4) then seekLane l t
    else setLane l laneOff t) (fset fldFLT_LANE_RET_RET 0 v s)

/-- A write of FLT_PAGE. -/
def putPage (i : Nat) (v : Word) (s : State) : State :=
  fset fldFLT_PAGE_V i (bitsOf v 0 0) (fset fldFLT_PAGE_PADDR i (bitsOf v 43 12) s)

/-- A keeper write waits while an action of its class runs on a unit it concerns (R446). -/
def writePage (who : Agent) (i : Nat) (v : Word) (s : State) : State :=
  if !isKeeper s who then s
  else if s.faultActs.any (fun a => a.cls == 4) then { s with deferred := s.deferred ++ [(1, i, v)] }
  else putPage i v s
def writeCoreOff (who : Agent) (v : Word) (s : State) : State :=
  if !isKeeper s who then s
  else if s.faultActs.any (fun a => a.cls == 0 && bitOf v a.unit != bitOf (getReg s .FLT_CORE_OFF 0) a.unit) then
    { s with deferred := s.deferred ++ [(2, 0, v)] }
  else putCoreOff v.toNat s
def writeLaneRet (who : Agent) (v : Word) (s : State) : State :=
  if !isKeeper s who then s
  else if s.faultActs.any (fun a => a.cls == 6 && bitOf v (a.unit - 280) != bitOf (getReg s .FLT_LANE_RET 0) (a.unit - 280)) then
    { s with deferred := s.deferred ++ [(3, 0, v)] }
  else putLaneRet (bitsOf v 7 0) s

def execFltCoreOffWrite (who : Agent) (value : Word) (s : State) : Host.Outcome State Fault Refusal :=
  .next (writeCoreOff who value s)
def execFltLaneRetWrite (who : Agent) (value : BitVec 32) (s : State) : Host.Outcome State Fault Refusal :=
  .next (writeLaneRet who (value.zeroExtend 64) s)

/-! ### Class actions (R438, R440 to R442) -/

/-- The cache and way of a unit of class L2WAY or SCWAY. -/
def unitWay (a : FaultAct) : CacheId × Nat :=
  if a.cls = 1 then (.l2 ⟨(a.unit - 64) / 16 % 8, Nat.mod_lt _ (by decide)⟩, (a.unit - 64) % 16) else (.sc, (a.unit - 192) % 16)

/-- The first free entry of FLT_PAGE. -/
def freePage (s : State) : Option Nat := (List.range 32).find? (fun i => !fbit s fldFLT_PAGE_V i)

/-- What an action does; none: the device cannot take it. -/
def takeAction (a : FaultAct) (s : State) : Option State :=
  match a.act with
  | 1 =>
    let u := unitWay a
    if wayDis s (cacheNo u.1) u.2 then none else some (sweepEnd u.1 (.way u.2) s)
  | 2 =>
    let b := a.unit - 216
    if fbit s fldLARD_BANK_CTL_DARN b && bankOn s b then some (modBank b (fun x => { x with urgent := x.urgent ++ [a.row] }) s)
    else none
  | 3 =>
    match freePage s with
    | none => none
    | some i => some (putPage i (w64 (a.pa / 4096 * 4096 + 1)) s)
  | 4 =>
    if fget s fldMEM_STAT_SUBFAIL 0 != 0 then none
    else some (fset fldMEM_STAT_SUBFAIL 0 (2 ^ (a.unit - 208)) s)
  | 5 => some (putLaneRet (Nat.lor (fget s fldFLT_LANE_RET_RET 0) (2 ^ (a.unit - 280))) s)
  | 6 => if a.unit = 0 then none else some (coreOffline a.unit s)
  | _ => some s

/-- A core is at a point where R126 permits a switch, or in the MANTLE. -/
def atPoint (s : State) (k : Nat) : Bool := !(getCore s k).run || mbOf (front s k) || !cbOf (front s k)

/-- The action's end: ACTING reads 0, the buckets are empty (R438). -/
def endAction (a : FaultAct) (s : State) : State :=
  let s1 := { s with faultActs := s.faultActs.erase a }
  if a.cls = 4 then { s1 with pages := s1.pages.filter (fun t => t.page != a.pa / 4096) }
  else fset fldFLT_WSUM_S a.unit 0 (fset fldFLT_WSUM_ACTING a.unit 0 { s1 with
    buckets := sparsePut (fun _ => []) a.unit [] s1.buckets })

/-- A deferred keeper write takes effect. -/
def applyDeferred (d : Nat × Nat × Word) (s : State) : State :=
  match d.1 with
  | 0 => if d.2.2 = 0 then setDis (d.2.1 / 256) (d.2.1 % 256) false s else disableWay (d.2.1 / 256) (d.2.1 % 256) s
  | 1 => putPage d.2.1 d.2.2 s
  | 2 => putCoreOff d.2.2.toNat s
  | _ => putLaneRet (bitsOf d.2.2 7 0) s

/-- A deferred write whose class has no action under way. -/
def deferredFree (s : State) (d : Nat × Nat × Word) : Bool :=
  !(s.faultActs.any (fun a => match d.1 with
    | 0 => wayUnit (d.2.1 / 256) (d.2.1 % 256) == (a.cls, a.unit)
    | 1 => a.cls == 4
    | 2 => a.cls == 0
    | _ => a.cls == 6))

def runDeferred (s : State) : State :=
  (s.deferred.filter (deferredFree s)).foldl (fun t d => applyDeferred d t)
    { s with deferred := s.deferred.filter (fun d => !deferredFree s d) }

/-- A reset under way covers the unit of an action, which then waits for it (R446). -/
def actionWaits (s : State) (a : FaultAct) : Bool :=
  fbit s fldGLB_RESET_PENDING 0 || (a.cls == 0 && fbit s fldCLU_RESET_BUSY (a.unit / 8)) ||
  (a.cls == 1 && fbit s fldCLU_RESET_BUSY ((a.unit - 64) / 16)) || (a.act == 6 && a.unit != 0 && !atPoint s a.unit)

/-- FAULT_ACTION_DONE (R438): the oldest declared action runs and ends; its record says whether the device took it. NOTIFY
writes no further record. -/
def execFaultActionDone (s : State) : Host.Outcome State Fault Refusal :=
  match s.faultActs with
  | [] => .next s
  | a :: _ =>
    if actionWaits s a then .next s
    else
      match takeAction a s with
      | some s1 =>
        let s2 := if a.act = 0 then s1 else logFault ⟨4, 0, a.unit, a.act, a.cls, a.row, a.pa, 0⟩ s1
        .next (runDeferred (endAction a s2))
      | none => .next (runDeferred (endAction a (logFault ⟨5, 0, a.unit, a.act, a.cls, a.row, a.pa, 0⟩ s)))

/-- CACHE_PATROL (R448): a set is read and corrected in place; the errors it meets are commands of their own. -/
def execCachePatrol (_c : CacheId) (s : State) : Host.Outcome State Fault Refusal := .next s

end Sys2Proof.Machine
end

