-- ==== Sys2Proof/Machine/HostCmd.lean ====
section
/-!
DEFINITION. Machine/HostCmd.lean: doorbells (R341, R342), function states (R336, R337), what an accepted command does and how
it ends (R344 to R354), exports (R347, R380), firmware commands (R348), task records (R357) and recovery (R361 to R366) of
14_host_rings.md. Function f is VF f for f < 8 and the PF for f = 8. Fetching descriptors and POST are in HostPost.lean.
-/

namespace Sys2Proof.Machine

/-! ### Doorbells (R341, R342) -/

/-- A doorbell write that counts in HIF_FN_BADDB. -/
def badDoorbell (f : Nat) (s : State) : State := countUp .HIF_FN_BADDB f 1 s
/-- A doorbell value is well formed, and its ring in use. -/
def doorbellOk (s : State) (f r : Nat) (v : Word) : Bool := bitsOf v 63 48 == 0 && ringOn s f r
/-- A consumer doorbell in RECOVER: a value below the present one is raised to it (R365). -/
def consumerValue (s : State) (f r : Nat) (v : Word) : Nat :=
  if fnState s f = fnRecover && decide (seqDiff v.toNat (doorbell s f r) < 0) then doorbell s f r else v.toNat
/-- A consumer value lies between the previous one and the next entry. -/
def consumerOk (s : State) (f r v : Nat) : Bool :=
  decide (0 ≤ seqDiff v (doorbell s f r)) && decide (0 ≤ seqDiff (ringSeq s f r) v)
def writeCmdDb (f r : Nat) (v : Word) (s : State) : State :=
  if doorbellOk s f r v && decide (0 ≤ seqDiff v.toNat (doorbell s f r)) &&
      decide (seqDiff v.toNat (ringSeq s f r) ≤ (ringSize s f r : Int)) then setDoorbell f r v.toNat s
  else badDoorbell f s
def writeComplDb (f r : Nat) (v : Word) (s : State) : State :=
  let x := consumerValue s f r v
  if doorbellOk s f r v && consumerOk s f r x then pruneJournal f (setDoorbell f r x s) else badDoorbell f s
def writeRecDb (f r : Nat) (v : Word) (s : State) : State :=
  let x := consumerValue s f r v
  if doorbellOk s f r v && consumerOk s f r x then
    let s1 := setDoorbell f r x { s with records := s.records.filter (fun e =>
      !(e.fn == f && e.ring == r && decide (seqDiff e.seq x < 0))) }
    let s2 := fset fldHIF_FN_STAT_SFULL f (shadowFull s1 f).toNat s1
    if (getFn s2 f).lostMarks != 0 && r == markerRing s2 f && recordRoom s2 f r 0 then markGap f r s2 else s2
  else badDoorbell f s
/-- CMD_DOORBELL, COMPLETION_DOORBELL and RECORD_DOORBELL. -/
def execCmdDoorbell (f : Fin 9) (ring : Fin 8) (value : Word) (s : State) : Host.Outcome State Fault Refusal :=
  .next (writeCmdDb f.val ring.val value s)
def execCompletionDoorbell (f : Fin 9) (ring : Fin 8) (value : Word) (s : State) : Host.Outcome State Fault Refusal :=
  .next (writeComplDb f.val (8 + ring.val) value s)
def execRecordDoorbell (f : Fin 9) (ring : Fin 4) (value : Word) (s : State) : Host.Outcome State Fault Refusal :=
  .next (writeRecDb f.val (16 + ring.val) value s)
/-- TASK_DOORBELL: wake code 2 for the bound task; on the PF keeper event 0x20. DESIGN CHOICE (log): a doorbell has no
descriptor, so its bounce record holds its slot and VOID cells. -/
def taskDb (f slot : Nat) (s : State) : State :=
  if f = 8 then raiseKeeper 0x20 s
  else
    match (getFn s f).bind.find? (fun p => p.1 == slot) with
    | none => badDoorbell f s
    | some (_, (t, e)) => wakeTask f t e 2 [cellRaw (w64 slot)] s
def execTaskDoorbell (f : Fin 9) (slot : Fin 256) (s : State) : Host.Outcome State Fault Refusal := .next (taskDb f.val slot.val s)

/-! ### Version and function state (R336, R337) -/

/-- A write of HIF_FN_NEG. -/
def writeNeg (f : Nat) (v : Word) (s : State) : State :=
  let req := bitsOf v 9 8
  let s0 := if bitOf v 16 then fset fldHIF_FN_NEG_REFUSED f 0 s else s
  let s1 := fset fldHIF_FN_NEG_REQ f req s0
  let refuse (why : Nat) : State := fset fldHIF_FN_NEG_REASON f why (fset fldHIF_FN_NEG_REFUSED f 1 s1)
  if req = 0 then refuse 3
  else if fnState s f = fnRecover && req = 3 && fnVer s f = 3 then s1
  else if fnState s f != fnDetached then refuse 1
  else if req = 3 && !(fbit s fldHIF_ATTIC_EN f && fbit s fldHIF_SHADOW_EN f) then refuse 2
  else fset fldHIF_FN_NEG_AGREED f req s1
/-- VERSION_REQUEST. -/
def execVersionRequest (f : Fin 9) (value : BitVec 32) (s : State) : Host.Outcome State Fault Refusal :=
  .next (writeNeg f.val (value.zeroExtend 64) s)
/-- The vector of FSTATE changes is written with the other bits of HIF_FN_CTL. -/
def writeSvec (f : Nat) (v : Word) (s : State) : State := fset fldHIF_FN_CTL_SVEC f (bitsOf v 15 8) s
def attachFn (f : Nat) (s : State) : State :=
  if fnState s f = fnDetached && ringOn s f 0 && ringOn s f 8 && (fnVer s f != 3 || ringOn s f 20) then
    setFnState f fnRunning s else s
/-- Commands of a function without their completion. -/
def fnCmds (s : State) (f : Nat) : List HostCmd := s.cmds.filter (fun c => c.fn == f)
def detachFn (f : Nat) (s : State) : State :=
  if fnState s f = fnRunning && (fnCmds s f).isEmpty && !(s.records.any (fun e => e.fn == f)) then
    setFnState f fnDetached s else s
def execFnAttach (f : Fin 9) (value : BitVec 32) (s : State) : Host.Outcome State Fault Refusal :=
  .next (attachFn f.val (writeSvec f.val (value.zeroExtend 64) s))
def execFnDetach (f : Fin 9) (value : BitVec 32) (s : State) : Host.Outcome State Fault Refusal :=
  .next (detachFn f.val (writeSvec f.val (value.zeroExtend 64) s))

/-! ### Which command acts next (R352, R349) -/

@[reducible] def opNop : Nat := 0x00
@[reducible] def opFence : Nat := 0x01
@[reducible] def opIdentify : Nat := 0x02
@[reducible] def opWrite : Nat := 0x10
@[reducible] def opRead : Nat := 0x11
@[reducible] def opPost : Nat := 0x20
@[reducible] def opBind : Nat := 0x21
@[reducible] def opExport : Nat := 0x22
@[reducible] def opFw : Nat := 0x40
def cmdWord (c : HostCmd) (i : Nat) : Word := c.words.getD i 0
/-- The commands accepted before a command. -/
def earlier (s : State) (c : HostCmd) : List HostCmd := s.cmds.takeWhile (fun d => d != c)
/-- An earlier command lets a later one begin: it has begun, and a FENCE that covers it has ended. -/
def lets (e c : HostCmd) : Bool :=
  let covers := e.op == opFence && e.fn == c.fn && (e.ring == c.ring || bitOf (cmdWord e 2) 2)
  if covers then decide (3 ≤ e.stage) else if e.fn == c.fn && e.ring == c.ring then decide (2 ≤ e.stage) else true
/-- The command of a ring whose effect may begin now. -/
def nextCmd (s : State) (f ring : Nat) : Option HostCmd :=
  match s.cmds.find? (fun c => c.fn == f && c.ring == ring && decide (c.stage < 2)) with
  | none => none
  | some c => if c.stage == 1 && (earlier s c).all (fun e => lets e c) then some c else none
/-- The command acts when it is the one its row names. -/
def actOn (f ring op : Nat) (g : HostCmd → State → State) (s : State) : State :=
  match nextCmd s f ring with
  | none => s
  | some c => if c.op = op then g c s else s
/-- The end of a command's effect. -/
def cmdEnds (c : HostCmd) (status detail res0 : Nat) (res1 : Word) (s : State) : State :=
  endCmd c.fn c.ring c.seq status detail res0 res1 s
def cmdRuns (c : HostCmd) (s : State) : State := modCmd c.fn c.ring c.seq (fun x => { x with stage := 2 }) s

/-- HOST_NOP and IDENTIFY: OK; IDENTIFY answers GLB_ID and MCVER of core 0 of cluster 0. -/
def execHostNop (f : Fin 9) (ring : Fin 8) (s : State) : Host.Outcome State Fault Refusal :=
  .next (actOn f.val ring.val opNop (fun c t => cmdEnds c 0 0 0 0 t) s)
def execIdentify (f : Fin 9) (ring : Fin 8) (s : State) : Host.Outcome State Fault Refusal :=
  .next (actOn f.val ring.val opIdentify (fun c t =>
    cmdEnds c 0 0 (bitsOf (getReg t .GLB_ID 0) 31 0) (getCore t 0).mcver t) s)

/-! ### FENCE (R349) -/

/-- The condition of a FENCE for one earlier command: memory accesses performed (M), posts resolved (P), translation changes
complete (T: commands make none), and for H the completion in host memory, which removes the command. -/
def fenceMet (s : State) (kind : Nat) (e : HostCmd) : Bool :=
  match kind with
  | 0 => if e.op == opWrite || e.op == opRead then decide (3 ≤ e.stage) else decide (2 ≤ e.stage)
  | 1 => decide (2 ≤ e.stage) && !(e.stage == 2 && s.drives.any (fun q => q.2.frames.any (fun fr =>
      fr.host == some (e.fn, e.ring, e.seq) && fr.resolved.isNone)))
  | 2 => decide (2 ≤ e.stage)
  | _ => false
/-- HOST_FENCE: the fence ends once its condition holds for every earlier command it covers. -/
def execHostFence (f : Fin 9) (ring : Fin 8) (s : State) : Host.Outcome State Fault Refusal :=
  .next (actOn f.val ring.val opFence (fun c t =>
    let covered := (earlier t c).filter (fun e => e.fn == c.fn && (e.ring == c.ring || bitOf (cmdWord c 2) 2))
    let kind := bitsOf (cmdWord c 2) 1 0
    if covered.all (fenceMet t kind) then cmdEnds c 0 0 0 0 (if kind = 1 then placeFence (64 + c.fn) t else t) else t) s)

/-! ### WRITE and READ (R345, R50, R51) -/

/-- Where a transfer's device address lies: the PA, or the syndrome of its FAULT. An absent address and an address in a device
region have the syndrome of ADDRSIZE. -/
def hostPa (s : State) (f : Nat) (acc : Access) (a : Nat) : Except Nat Nat :=
  let bad := syndrome ⟨xAddrSize, 0, true, false, false, none, a⟩ acc
  let pa : Except Nat Nat :=
    if f = 8 then .ok a
    else
      match fabricXlate s f acc a with
      | .error x => .error (syndrome x acc)
      | .ok p => .ok p
  match pa with
  | .error e => .error e
  | .ok p =>
    match regionOf s p with
    | .ddr => .ok p
    | .larder b _ => if bankOn s b then .ok p else .error bad
    | _ => .error bad
/-- Bytes as a number, least significant first. -/
def bytesNat : List (BitVec 8) → Nat
  | [] => 0
  | b :: bs => b.toNat + 256 * bytesNat bs
/-- A sub-cell host write is allowed: the cell is RAW64 or VOID (R50). -/
def partOk (s : State) (f a : Nat) : Bool :=
  match hostPa s f .store a with
  | .error _ => true
  | .ok pa => (physRead s (pa / 8 * 8)).tag == tagRaw64 || (physRead s (pa / 8 * 8)).tag == tagVoid
/-- RAW bytes to device memory from an address on: the bytes written, and the syndrome of a fault. -/
def putRaw (f : Nat) : Nat → Nat → List (BitVec 8) → Nat → State → State × Nat × Option Nat
  | 0, _, _, n, s => (s, n, none)
  | _ + 1, _, [], n, s => (s, n, none)
  | fuel + 1, a, b :: bs, n, s =>
    let take := min (b :: bs).length (8 - a % 8)
    match hostPa s f .store a with
    | .error e => (s, n, some e)
    | .ok pa =>
      let v := bytesNat ((b :: bs).take take)
      let old := physRead s (pa / 8 * 8)
      let base := if take = 8 || old.tag = tagVoid then 0 else old.data
      let s1 := cohPut (pa / 8 * 8) (cellRaw (putBytes base (a % 8) take v)) s
      putRaw f fuel (a + take) ((b :: bs).drop take) (n + take) s1
/-- A cell a TAGGED write stores, and whether it was demoted to VOID (R51). -/
def demote (tag : Tag) (d : Word) : Cell × Nat :=
  if tagClass tag == 0 || tagClass tag == 1 || tagClass tag == 3 || tagClass tag == 6 then (⟨tag, d⟩, 0) else (⟨tagVoid, d⟩, 1)
/-- Groups of 72 bytes to device memory: bytes written, cells demoted, the syndrome of a fault. -/
def putTagged (f : Nat) : Nat → Nat → List (BitVec 8) → Nat → Nat → State → State × Nat × Nat × Option Nat
  | 0, _, _, n, d, s => (s, n, d, none)
  | fuel + 1, a, bs, n, d, s =>
    if bs.length < 72 then (s, n, d, none)
    else
      match hostPa s f .store a with
      | .error e => (s, n, d, some e)
      | .ok pa =>
        let cells := (List.range 8).map (fun i =>
          demote ((bs.drop (64 + i)).headD 0) (w64 (bytesNat ((bs.drop (8 * i)).take 8))))
        putTagged f fuel (a + 64) (bs.drop 72) (n + 72) (d + cells.foldl (fun x c => x + c.2) 0)
          (cohPuts pa (cells.map (fun c => c.1)) s)
/-- HOST_WRITE: `bytes` are what the host answered; `bad`: a host read failed after them (HOST_FAULT). -/
def hostWrite (bytes : List (BitVec 8)) (bad : Bool) (c : HostCmd) (s : State) : State :=
  let a := (cmdWord c 3).toNat
  let len := bitsOf (cmdWord c 4) 39 0
  let bs := bytes.take len
  if bs.length < len && !bad then s
  else if c.tagged then
    let r := putTagged c.fn bs.length a bs 0 0 s
    match r.2.2.2 with
    | some e => cmdEnds c 8 e r.2.1 0 r.1
    | none => if bs.length < len then cmdEnds c 12 0 0 0 r.1
              else if r.2.2.1 = 0 then cmdEnds c 0 0 0 0 r.1 else cmdEnds c 11 0 r.2.2.1 0 r.1
  else if (a % 8 != 0 || decide (len < 8)) && !partOk s c.fn a then cmdEnds c 10 0 0 0 s
  else if (a + len) % 8 != 0 && !partOk s c.fn (a + len - 1) then cmdEnds c 10 0 0 0 s
  else
    let r := putRaw c.fn bs.length a bs 0 s
    match r.2.2 with
    | some e => cmdEnds c 8 e r.2.1 0 r.1
    | none => if bs.length < len then cmdEnds c 12 0 0 0 r.1 else cmdEnds c 0 0 0 0 r.1
def execHostWrite (f : Fin 9) (ring : Fin 8) (bytes : List (BitVec 8)) (bad : Bool) (s : State) :
    Host.Outcome State Fault Refusal := .next (actOn f.val ring.val opWrite (hostWrite bytes bad) s)

/-- The bytes of a word. -/
def wordBytes (w : Word) : List (BitVec 8) := (List.range 8).map (fun i => BitVec.ofNat 8 (bytesOf w i 1))
/-- The data a host reads of a cell: POISON and VOID deliver zero. -/
def readData (c : Cell) : Word := if c.tag = tagPoison || c.tag = tagVoid then 0 else c.data
/-- RAW bytes from device memory: the bytes, POISON cells read, the syndrome of a fault. -/
def getRaw (s : State) (f : Nat) : Nat → Nat → Nat → Nat → List (BitVec 8) × Nat × Option Nat
  | 0, _, _, p => ([], p, none)
  | fuel + 1, a, n, p =>
    if n = 0 then ([], p, none)
    else
      let take := min n (8 - a % 8)
      match hostPa s f .load a with
      | .error e => ([], p, some e)
      | .ok pa =>
        let c := physRead s (pa / 8 * 8)
        let r := getRaw s f fuel (a + take) (n - take) (p + (c.tag == tagPoison).toNat)
        (((wordBytes (readData c)).drop (a % 8)).take take ++ r.1, r.2)
def getTagged (s : State) (f : Nat) : Nat → Nat → Nat → Nat → List (BitVec 8) × Nat × Option Nat
  | 0, _, _, p => ([], p, none)
  | fuel + 1, a, n, p =>
    if n < 72 then ([], p, none)
    else
      match hostPa s f .load a with
      | .error e => ([], p, some e)
      | .ok pa =>
        let cs := physCells s pa 8
        let r := getTagged s f fuel (a + 64) (n - 72) (p + (cs.filter (fun c => c.tag == tagPoison)).length)
        (cs.flatMap (fun c => wordBytes (readData c)) ++ cs.map (fun c => c.tag) ++ r.1, r.2)
/-- HOST_READ: the data leave, then the command ends; `bad`: the host memory refused them. POISONED is reported of RAW reads. -/
def hostRead (bad : Bool) (c : HostCmd) (s : State) : State :=
  let a := (cmdWord c 3).toNat
  let len := bitsOf (cmdWord c 4) 39 0
  let r := if c.tagged then getTagged s c.fn len a len 0 else getRaw s c.fn len a len 0
  if bad then cmdEnds c 12 0 0 0 s
  else
    let s0 := seenCells (hostPart c.fn) (a / 8 * 8) ((a % 8 + len + 7) / 8) s
    let s1 := if r.1.isEmpty then s0 else emit (.hostBytes c.fn (cmdWord c 2).toNat r.1) s0
    match r.2.2 with
    | some e => cmdEnds c 8 e r.1.length 0 s1
    | none => if r.2.1 = 0 || c.tagged then cmdEnds c 0 0 0 0 s1 else cmdEnds c 9 0 r.2.1 0 s1
def execHostRead (f : Fin 9) (ring : Fin 8) (bad : Bool) (s : State) : Host.Outcome State Fault Refusal :=
  .next (actOn f.val ring.val opRead (hostRead bad) s)

/-! ### BIND (R346) -/

/-- The word that stands for NIL in W3, which carries no tag: it names no task. -/
def nilWord : Word := 0xFFFFFFFFFFFFFFFF
def bindSlot (c : HostCmd) (s : State) : State :=
  let slot := bitsOf (cmdWord c 2) 7 0
  let w := cmdWord c 3
  let s1 := modFn c.fn (fun x => { x with
    bind := if w = nilWord then x.bind.filter (fun p => p.1 != slot)
            else recPut slot (bitsOf w 14 5, bitsOf w 63 32) x.bind }) s
  cmdEnds c 0 0 0 0 s1
def execBind (f : Fin 9) (ring : Fin 8) (s : State) : Host.Outcome State Fault Refusal :=
  .next (actOn f.val ring.val opBind bindSlot s)

/-! ### EXPORT (R347, R356, R380) -/

def exFirst (c : HostCmd) : Nat := bitsOf (cmdWord c 2) 13 0
def exCount (c : HostCmd) : Nat := bitsOf (cmdWord c 2) 19 14 + 1
/-- Samples written of every entry of an export. -/
def exWritten (s : State) (e : Export) : Nat :=
  (chanRange e.first e.count).foldl (fun m i => min m (getChan s i).widx) (getChan s e.first).widx
/-- The time of sample k of an entry; version 1 by its period. -/
def sampleAt (s : State) (i k : Nat) : Word :=
  if linkVer s (fget s fldSFL_CHT_A_LINK i) = 1 then
    w64 (((getChan s i).anchor.getD 0).toNat + k * (getChan s i).period / 2 ^ 32)
  else sampleTime s i k
/-- A GAP of an export. -/
def exportGap (e : Export) (reason idx lost : Nat) (s : State) : State :=
  pushGap e.fn e.ring (sampleAt s e.first idx) (gapWord e.first e.count e.gen reason) idx lost s
/-- A run of missing records ends: one GAP with REASON 2. -/
def closeMiss (e : Export) (s : State) : Export × State :=
  match e.miss with
  | none => (e, s)
  | some m => ({ e with miss := none }, exportGap e 2 m (e.next - m) s)
/-- An export ends; a record partly assembled gives a GAP with REASON 4 at a reset (R380). -/
def endExport (reset : Bool) (e : Export) (s : State) : State :=
  let r := closeMiss e s
  let t := { r.2 with exports := r.2.exports.filter (fun x => !(x.fn == e.fn && x.first == e.first)) }
  let w := exWritten s e
  if reset && decide (e.next < w) then exportGap e 4 e.next (w - e.next) t else t
def endExports (reset : Bool) (pick : Export → Bool) (s : State) : State :=
  (s.exports.filter pick).foldl (fun t e => endExport reset e t) s
/-- EXPORT begins with the first whole record not yet begun, or ends the export of its entries. -/
def exportCmd (c : HostCmd) (s : State) : State :=
  let first := exFirst c
  let ns := bitsOf (cmdWord c 3) 15 0 + 1
  if bitOf (cmdWord c 2) 22 then
    cmdEnds c 0 0 0 0 (endExports false (fun e => e.fn == c.fn && e.first == first && e.count == exCount c) s)
  else
    let e : Export := ⟨c.fn, 16 + bitsOf (cmdWord c 2) 21 20, first, exCount c, ns, 0, (getChan s first).gen, c.cls == 2, false,
      none⟩
    let w := exWritten s e
    cmdEnds c 0 0 0 0 { s with exports := s.exports ++ [{ e with next := (w + ns - 1) / ns * ns }] }
def execExportStream (f : Fin 9) (ring : Fin 8) (s : State) : Host.Outcome State Fault Refusal :=
  .next (actOn f.val ring.val opExport exportCmd s)

/-- Bytes as words, padded to whole lines of 64 bytes. -/
def packBytes : Nat → List Nat → List Word
  | 0, _ => []
  | n + 1, bs => w64 ((bs.take 8).foldr (fun b a => b % 256 + 256 * a) 0) :: packBytes n (bs.drop 8)
/-- Sample k of an entry: its 32-bit slot. -/
def sampleSlot (s : State) (p : Option Nat) (i k : Nat) : Nat :=
  match spaceRead s p (sampleAddr s i k) with
  | .ok x => bitsOf x.data (32 * (k % 2) + 31) (32 * (k % 2))
  | .error _ => 0
/-- The flags of sample k, as R300 delivers them. -/
def sampleMarks (s : State) (p : Option Nat) (i k : Nat) : Nat :=
  match sampleFlags s p i k with
  | .ok f => f
  | .error _ => Nat.lor 2 (entryFlags s i)
/-- The data of a STREAM record: slots in channel-major order, then flag bytes, padded to 64 bytes. -/
def recData (s : State) (f first count k0 ns : Nat) : List Word :=
  let p := hostPart f
  let pairs := (chanRange first count).flatMap (fun i => (List.range ns).map (fun j => (i, k0 + j)))
  let slots := pairs.flatMap (fun q =>
    let v := sampleSlot s p q.1 q.2
    [v % 256, v / 2 ^ 8 % 256, v / 2 ^ 16 % 256, v / 2 ^ 24])
  let flags := pairs.map (fun q =>
    let m := sampleMarks s p q.1 q.2
    m % 4 + (m / 16 % 2) * 4 + (m / 8 % 2) * 8)
  let bs := slots ++ flags
  packBytes ((bs.length + 63) / 64 * 8) bs
/-- The OR of the flags of a record's samples. -/
def recFlags (s : State) (f first count k0 ns : Nat) : Nat :=
  (chanRange first count).foldl (fun a i => (List.range ns).foldl (fun b j =>
    Nat.lor b (sampleMarks s (hostPart f) i (k0 + j))) a) 0
/-- Every sample of a record is missing. -/
def recMissing (s : State) (f first count k0 ns : Nat) : Bool :=
  (chanRange first count).all (fun i => (List.range ns).all (fun j =>
    sampleMarks s (hostPart f) i (k0 + j) / 2 % 2 == 1))
/-- Words 1 to 7 of a STREAM record. -/
def streamWords (s : State) (f first count k0 ns pos : Nat) (data : List Word) : List Word :=
  recWords [sampleAt s first k0,
    w64 (first + (count - 1) * 2 ^ 14 + (getChan s first).gen % 256 * 2 ^ 20 + recFlags s f first count k0 ns % 32 * 2 ^ 32),
    w64 k0, w64 ns, w64 pos, w64 (8 * data.length % 2 ^ 32), w64 (crcOf data)]
def putExport (e : Export) (s : State) : State :=
  { s with exports := s.exports.map (fun x => if x.fn == e.fn && x.first == e.first then e else x) }
/-- What reading samples of some entries does to the caches. -/
def seenEntries (f first count k0 ns : Nat) (s : State) : State :=
  (chanRange first count).foldl (fun t i => seenSamples (hostPart f) i k0 (k0 + ns - 1) t) s
/-- The end of the next record: a multiple of NS, or the index of a restart that closes it short. -/
def recEnd (s : State) (e : Export) : Nat :=
  let full := (e.next / e.ns + 1) * e.ns
  let cut := (chanRange e.first e.count).foldl (fun m i =>
    let r := (getChan s i).restartAt
    if e.next < r && r < m then r else m) full
  cut
/-- The oldest sample of an export that every ring still holds. -/
def exHeld (s : State) (e : Export) : Nat :=
  (chanRange e.first e.count).foldl (fun m i => max m ((getChan s i).widx - 2 ^ (chanLog s i + 1))) 0
/-- Bytes of data written to a record ring's area since it began. -/
def dataPos (s : State) (f r : Nat) : Nat := sparseGet (fun _ => 0) (getFn s f).dataPos r
/-- A record of an export is committed (or its run of missing records goes on); LATE of a CONTROL export is counted. -/
def commitRecord (e : Export) (s : State) : State :=
  let stop := recEnd s e
  let ns := stop - e.next
  let e1 := { e with
    gen := (getChan s e.first).gen
    waiting := false }
  if ns = e.ns && recMissing s e.fn e.first e.count e.next ns then
    putExport { e1 with
      next := stop
      miss := some (e.miss.getD e.next) } s
  else
    let r := closeMiss e1 s
    let data := recData r.2 e.fn e.first e.count e.next ns
    let pos := dataPos r.2 e.fn e.ring
    let s1 := modFn e.fn (fun x => { x with dataPos := recPut e.ring (pos + 8 * data.length) x.dataPos })
      (pushRecord e.fn e.ring 1 pos (streamWords r.2 e.fn e.first e.count e.next ns pos data) data r.2)
    let age : Int := (dtNow s1 - sampleAt s1 e.first e.next).toInt
    let late := e.control && decide ((fget s1 fldGLB_ADM_PART_TSTREAM e.fn * 2 ^ 32 / 10000 : Nat) < age)
    let s2 := if late then countAdm fldGLB_ADM_PSTAT_LATE e.fn s1 else s1
    putExport { r.1 with next := stop } s2
/-- EXPORT_RECORD: the next record of an export, once its samples are written: it waits for room (STALL), gives a GAP for
samples the ring no longer holds, or is committed. -/
def exportStep (f first : Nat) (s : State) : State :=
  match s.exports.find? (fun e => e.fn == f && e.first == first) with
  | none => s
  | some e =>
    let stop := recEnd s e
    if exWritten s e < stop then s
    else
      let bytes := (e.count * (stop - e.next) * 5 + 63) / 64 * 64
      let gap := decide (e.next < exHeld s e)
      let roomFor := if gap || e.miss.isSome then 2 else 1
      let room := recordRoom s e.fn e.ring bytes &&
        decide ((heldRecords s e.fn e.ring).length + roomFor ≤ ringSize s e.fn e.ring)
      if !room then
        (if e.waiting then s
         else countAdm fldGLB_ADM_PSTAT_STALL e.fn (putExport { e with waiting := true } s))
      else if gap then
        let r := closeMiss e s
        let held := exHeld s e
        putExport { r.1 with
          next := held
          waiting := false } (exportGap e (if e.waiting then 1 else 3) e.next (held - e.next) r.2)
      else commitRecord e (seenEntries e.fn e.first e.count e.next (stop - e.next) s)
def execExportRecord (f : Fin 9) (first : Fin 16384) (s : State) : Host.Outcome State Fault Refusal :=
  .next (exportStep f.val first.val s)

/-! ### Firmware commands (R348) -/

/-- FW commands of a function that firmware has not fetched, oldest first. -/
def inbox (s : State) (f : Nat) : List HostCmd :=
  s.cmds.filter (fun c => c.fn == f && c.op == opFw && c.stage == 2 && c.taker.isNone)
def fwCmd (c : HostCmd) (s : State) : State :=
  let empty := (inbox s c.fn).isEmpty
  let s1 := cmdRuns c s
  if !empty then s1 else if c.fn < 8 then raisePart c.fn 10 s1 else raiseKeeper 0x22 s1
def execFw (f : Fin 9) (ring : Fin 8) (s : State) : Host.Outcome State Fault Refusal :=
  .next (actOn f.val ring.val opFw fwCmd s)
/-- The function a core's firmware serves: the PF at level K, else its partition's VF. -/
def firmFn (s : State) (k : Nat) : Option Nat := if plOf (front s k) = 2 then some 8 else partOf s k
/-- Writes cells where an agent of a function names them: an IPA, or a PA for the PF. -/
def fnWrites (f a : Nat) (cs : List Cell) (s : State) : Except XFault State :=
  spaceWrites (hostPart f) a cs s
/-- The task and core that post; a core without a task counts as task 1024. -/
def poster (s : State) (k : Nat) : Nat × Nat :=
  (match ctxTask (front s k) with
    | some (_, t) => t
    | none => 1024, k)
/-- POST to queue 0x50. -/
def postFirm (k : Nat) (desc : List Cell) (s : State) : Nat × State :=
  let c (i : Nat) : Cell := desc.getD i cellVoid
  let w := (c 0).data
  match firmFn s k with
  | none => answerNo 2 s
  | some f =>
    if (c 0).tag != tagRaw64 then answerNo 5 s
    else if bitsOf w 3 0 = 1 then
      (if (c 1).tag != tagRaw64 || bitsOf (c 1).data 2 0 != 0 then answerNo 5 s
       else
        match inbox s f with
        | [] => answerNo 6 s
        | m :: _ =>
          let cells := [cellRaw (w64 (m.ring + m.seq * 2 ^ 16)), cellRaw m.cookie] ++
            (List.range 6).map (fun i => cellRaw (cmdWord m (2 + i)))
          match fnWrites f (c 1).data.toNat cells s with
          | .error _ => answerNo 5 s
          | .ok t => (0, modCmd f m.ring m.seq (fun x => { x with taker := some (poster s k) }) t))
    else if bitsOf w 3 0 = 2 then
      let st := bitsOf (c 1).data 15 0
      let ring := bitsOf w 8 4
      let seq := bitsOf w 63 16
      if (c 1).tag != tagRaw64 || (c 2).tag != tagRaw64 || (6 ≤ st && st ≤ 15) then answerNo 5 s
      else if !(s.cmds.any (fun m => m.fn == f && m.ring == ring && m.seq == seq && m.op == opFw && m.stage == 2 &&
          m.taker.isSome)) then answerNo 3 s
      else (0, endCmd f ring seq st (bitsOf (c 1).data 31 16) (bitsOf (c 1).data 63 32) (c 2).data s)
    else answerNo 5 s
/-- FW_FETCH and FW_COMPLETE: posts with OP 1 and 2. -/
def execFwFetch (k : CoreId) (desc : List Cell) (s : State) : Host.Outcome State Fault Refusal :=
  let r := postFirm k.val (specOp 1 desc) s
  .next (answerStatus r.1 r.2)
def execFwComplete (k : CoreId) (desc : List Cell) (s : State) : Host.Outcome State Fault Refusal :=
  let r := postFirm k.val (specOp 2 desc) s
  .next (answerStatus r.1 r.2)
/-- POST to queue 0x51: a TASK record of the poster's function (R357). -/
def postRecord (k : Nat) (desc : List Cell) (s : State) : Nat × State :=
  let c (i : Nat) : Cell := desc.getD i cellVoid
  match firmFn s k with
  | none => answerNo 2 s
  | some f =>
    let r := 16 + bitsOf (c 0).data 1 0
    if (c 0).tag != tagRaw64 || bitsOf (c 0).data 63 2 != 0 then answerNo 5 s
    else if !recordRoom s f r 0 then answerNo 1 s
    else
      let who := match ctxTask (front s k) with
        | some (p, t) => w64 (t + tcbEpoch s p t * 2 ^ 32)
        | none => 0
      (0, pushRecord f r 3 0 (recWords [dtNow s, who, (c 1).data, (c 2).data, (c 3).data, (c 4).data, (c 5).data]) [] s)
/-- TASK_RECORD. -/
def execTaskRecord (k : CoreId) (desc : List Cell) (s : State) : Host.Outcome State Fault Refusal :=
  let r := postRecord k.val desc s
  .next (answerStatus r.1 r.2)

/-! ### The end of commands (R351 steps 4, 6 and 7, R352, R353) -/

/-- JOURNAL_FLUSH_DONE: the oldest accepted command of a function that waits for the flush may act. -/
def execJournalFlushDone (f : Fin 9) (s : State) : Host.Outcome State Fault Refusal :=
  match s.cmds.find? (fun c => c.fn == f.val && c.stage == 0) with
  | none => .next s
  | some c => .next (modCmd c.fn c.ring c.seq (fun x => { x with stage := 1 }) s)
/-- A command whose effect has ended is journalled. -/
def doneCmd (c : HostCmd) (s : State) : State := journalDone c (modCmd c.fn c.ring c.seq (fun x => { x with stage := 4 }) s)
/-- COMMAND_DONE: the oldest command of a ring whose effect has ended. -/
def execCommandDone (f : Fin 9) (ring : Fin 8) (s : State) : Host.Outcome State Fault Refusal :=
  match s.cmds.find? (fun c => c.fn == f.val && c.ring == ring.val && c.stage == 3) with
  | none => .next s
  | some c => .next (doneCmd c s)
/-- The words of a completion, in the form of the agreed version. -/
def complWords (s : State) (c : HostCmd) (rdlv : Bool) : List Word :=
  let w0 := w64 (c.seq + 2 ^ 48 + rdlv.toNat * 2 ^ 49)
  if fnVer s c.fn = 1 then [w0, w64 (c.status + c.detail * 2 ^ 16 + bitsOf c.cookie 31 0 * 2 ^ 32)]
  else [w0, c.cookie, w64 (c.status + c.detail * 2 ^ 16 + c.res0 * 2 ^ 32), c.res1]
def complBytes (s : State) (f : Nat) : Nat := if fnVer s f = 1 then 16 else 32
/-- A completion is written at its place in the ring. -/
def writeCompl (c : HostCmd) (rdlv : Bool) (s : State) : State :=
  signalRing c.fn (8 + c.ring) (emit (.hostWrite c.fn (ringAddr s c.fn (8 + c.ring) c.seq (complBytes s c.fn))
    (complWords s c rdlv)) s)
/-- The next completion of a ring is written when its command is the oldest and has ended. -/
def postCompl (f ring : Nat) (rdlv : Bool) (s : State) : State :=
  match s.cmds.find? (fun c => c.fn == f && c.ring == ring) with
  | none => s
  | some c =>
    if c.stage != 4 || fnState s f != fnRunning then s
    else
      let s1 := writeCompl c rdlv s
      ringAdvance f (8 + ring) { s1 with
        cmds := s1.cmds.filter (fun d => !(d.fn == f && d.ring == ring && d.seq == c.seq)) }
/-- COMPLETION_POST. -/
def execCompletionPost (f : Fin 9) (ring : Fin 8) (s : State) : Host.Outcome State Fault Refusal :=
  .next (postCompl f.val ring.val false s)
/-- INTERRUPT_MODERATION: the vector of a ring with entries not yet signalled. -/
def execInterruptModeration (f : Fin 9) (ring : Fin 21) (s : State) : Host.Outcome State Fault Refusal :=
  if (getFn s f.val).unsignalled.any (fun p => p.1 == ring.val) then
    .next (emit (.msix f.val (fget s fldHIF_RING_CFG_VEC (ringIx f.val ring.val)))
      (modFn f.val (fun x => { x with unsignalled := x.unsignalled.filter (fun p => p.1 != ring.val) }) s))
  else .next s

/-! ### Resets and recovery (R361 to R366) -/

/-- Every command of a function without a DONE is DONE with ABORTED_BY_RESET (R362). -/
def abortCmds (f scope : Nat) (s : State) : State :=
  ((fnCmds s f).filter (fun c => decide (c.stage < 4))).foldl (fun t c =>
    let d := { c with
      stage := 3
      status := 7
      detail := scope
      res0 := 0
      res1 := 0 }
    doneCmd d (modCmd c.fn c.ring c.seq (fun _ => d) t)) s
/-- A function at version 1 or 2 is DETACHED by a reset and forgets its commands. -/
def dropFn (f : Nat) (s : State) : State :=
  setFnState f fnDetached { s with cmds := s.cmds.filter (fun c => c.fn != f) }
/-- Device warm reset (R363): a RUNNING version-3 function enters RECOVER, its commands complete, one RESET is journalled. -/
def fnWarm (f : Nat) (s : State) : State :=
  if fnVer s f != 3 then (if fnState s f = fnDetached then s else dropFn f s)
  else if fnState s f = fnDetached then s
  else
    journalReset f 1 (abortCmds f 1 (fset fldHIF_FN_STAT_CAUSE f 1 (setFnState f fnRecover s)))
/-- FLR (R365): a version-3 function enters RECOVER and its commands keep running. -/
def flrFn (f : Nat) (s : State) : State :=
  if fnVer s f = 3 then fset fldHIF_FN_STAT_CAUSE f 3 (setFnState f fnRecover s) else dropFn f s
def execFlr (f : Fin 9) (s : State) : Host.Outcome State Fault Refusal := .next (flrFn f.val s)
/-- Partition reset (R361, R366): unfinished commands complete, records say RESET, bindings and exports end. -/
def fnPartReset (p : Nat) (s : State) : State :=
  let s1 := endExports true (fun e => e.fn == p) s
  let s2 := modFn p (fun x => { x with bind := [] }) s1
  if fnVer s2 p = 3 then pushResets p 3 (abortCmds p 3 s2)
  else (fnCmds s2 p).foldl (fun t c => endCmd c.fn c.ring c.seq 7 3 0 0 t) s2

/-- The DONE of a sequence number in the journal, and the ACCEPT's cookie. -/
def journalFind (s : State) (f kind ring seq : Nat) : Option JournalRec :=
  s.journal.find? (fun r => r.fn == f && jKind r.words == kind && jRing r.words == ring && jSeq r.words == seq)
/-- A command rebuilt from the journal: its DONE, or ABORTED_BY_RESET. -/
def rebuilt (s : State) (f ring seq scope : Nat) : HostCmd :=
  let cookie := match journalFind s f 1 ring seq with
    | some r => w64 (bitsOf (r.words.getD 3 0) 63 32)
    | none => 0
  let base : HostCmd := ⟨f, ring, seq, 0, 0, false, cookie, [], 4, 7, scope, 0, 0, none⟩
  match journalFind s f 2 ring seq with
  | none => base
  | some r =>
    let w := r.words.getD 2 0
    { base with
      status := bitsOf w 15 0
      detail := bitsOf w 31 16
      res0 := bitsOf w 63 32
      res1 := r.words.getD 3 0 }
/-- The sequence numbers from `a` on, `n` of them. -/
def seqRun (a n : Nat) : List Nat := (List.range n).map (fun i => (a + i) % 2 ^ 48)
/-- Journal records read back from the host are taken in order of their numbers; others are not part of the journal. -/
def takeJournal (f : Nat) : Nat → List (List Word) → State → State
  | _, [], s => s
  | j, w :: ws, s =>
    let s1 := if w.length = 4 && bitsOf (w.getD 1 0) 47 0 == j % 2 ^ 48 then
        cohPuts (atticAddr s f j) (w.map cellRaw) { s with journal := s.journal ++ [⟨f, j % 2 ^ 48, w⟩] }
      else s
    takeJournal f (j + 1) ws s1
/-- RESTORE (R364): the ATTIC is rebuilt from the host's journal ring (`recs`: its last records, oldest first), A of each
command ring follows it, every ACCEPT without DONE is DONE with ABORTED_BY_RESET, and the function enters RECOVER. -/
def restoreFn (f : Nat) (recs : List (List Word)) (s : State) : State :=
  if fnVer s f != 3 || fnState s f != fnDetached then s
  else
    let take := recs.drop (recs.length - ringSize s f 20)
    let s1 := takeJournal f (ringSeq s f 20 + 2 ^ 48 - take.length) take
      { s with journal := s.journal.filter (fun r => r.fn != f) }
    let s2 := (List.range 8).foldl (fun t r =>
      t.journal.foldl (fun u x =>
        if x.fn == f && (jKind x.words == 1 || jKind x.words == 2) && jRing x.words == r &&
            decide (0 ≤ seqDiff (jSeq x.words) (ringSeq u f r)) then
          fset fldHIF_RING_SEQ_SEQ (ringIx f r) ((jSeq x.words + 1) % 2 ^ 48) u
        else u) t) s1
    let s3 := (s2.journal.filter (fun x => x.fn == f && jKind x.words == 1)).foldl (fun t x =>
      if (journalFind t f 2 (jRing x.words) (jSeq x.words)).isSome then t
      else journalDone (rebuilt t f (jRing x.words) (jSeq x.words) 2) t) s2
    let s4 := (List.range 8).foldl (fun t r =>
      let c := ringSeq t f (8 + r)
      let n := (seqDiff (ringSeq t f r) c).toNat
      { t with cmds := t.cmds ++ (seqRun c n).map (fun q => rebuilt t f r q 2) }) { s3 with
        cmds := s3.cmds.filter (fun c => c.fn != f) }
    journalReset f 2 (fset fldHIF_FN_STAT_CAUSE f 2 (setFnState f fnRecover s4))
def execFnRestore (f : Fin 9) (recs : List (List Word)) (s : State) : Host.Outcome State Fault Refusal :=
  .next (restoreFn f.val recs s)

/-- A record below SEQ is written again with RDLV = 1: STREAM data are read anew from the stream rings, or replaced by a GAP
with REASON OVERWRITTEN. -/
def rewriteRecord (e : RecEntry) (s : State) : State :=
  let w (i : Nat) : Word := e.words.getD i 0
  let first := bitsOf (w 2) 13 0
  let count := bitsOf (w 2) 19 14 + 1
  let k0 := (w 3).toNat
  let ns := bitsOf (w 4) 31 0
  let stream := bitsOf (w 0) 53 50 == 1
  let held := (chanRange first count).all (fun i => sampleHeld s i k0 && (getChan s i).gen % 256 == bitsOf (w 2) 27 20)
  let mark (x : Word) : Word := putBit x 49 true
  let words := if stream && !held then
      mark (putBits (w 0) 53 50 4) :: recWords [w 1, gapWord first count (bitsOf (w 2) 27 20) 3, w 3, w64 ns]
    else mark (w 0) :: e.words.drop 1
  let data := if stream then (if held then recData s e.fn first count k0 ns else []) else e.data
  let area := fget s fldHIF_RING_AUX_DBASE (ringIx e.fn e.ring) * 4096
  let s0 := if stream && held then seenEntries e.fn first count k0 ns s else s
  let s1 := if data.isEmpty then s0 else emit (.hostWrite e.fn (area + (w 5).toNat % dataSize s e.fn e.ring) data) s0
  signalRing e.fn e.ring (emit (.hostWrite e.fn (ringAddr s1 e.fn e.ring e.seq 64) words) s1)
/-- A record that has not been sent goes to the host as it stands. -/
def sendRecord (e : RecEntry) (s : State) : State :=
  let area := fget s fldHIF_RING_AUX_DBASE (ringIx e.fn e.ring) * 4096
  let s1 := if e.data.isEmpty then s
    else emit (.hostWrite e.fn (area + (e.words.getD 5 0).toNat % dataSize s e.fn e.ring) e.data) s
  signalRing e.fn e.ring (emit (.hostWrite e.fn (ringAddr s1 e.fn e.ring e.seq 64) e.words) s1)
/-- RESUME (R363, R365): after an FLR the unretired journal is copied and every record from HR on is written again; otherwise
records not yet sent go out. Completions are written from HC on, those below C with RDLV = 1; after a warm or PCIe reset each
enabled record ring receives a RESET record. -/
def resumeFn (f : Nat) (s : State) : State :=
  if fnState s f != fnRecover then s
  else
    let cause := fget s fldHIF_FN_STAT_CAUSE f
    let s1 := setFnState f fnRunning s
    let s2 := if cause = 3 then (s1.journal.filter (fun r => r.fn == f)).foldl (fun t r =>
        emit (.hostWrite f (ringAddr t f 20 r.seq 32) r.words) t) s1 else s1
    let s3 := (List.range 8).foldl (fun t r =>
      let hc := doorbell t f (8 + r)
      (seqRun hc (seqDiff (ringSeq t f (8 + r)) hc).toNat).foldl (fun u q => writeCompl (rebuilt u f r q 1) true u) t) s2
    let s4 := (s3.records.filter (fun e => e.fn == f)).foldl (fun t e =>
      if cause = 3 then rewriteRecord e t else if e.sent then t else sendRecord e t) s3
    let s5 := { s4 with records := s4.records.map (fun e => if e.fn == f then { e with sent := true } else e) }
    let s6 := (List.range 8).foldl (fun t r =>
      ((t.cmds.filter (fun c => c.fn == f && c.ring == r && c.stage == 4))).foldl (fun u _ =>
        postCompl f r (cause == 2) u) t) s5
    if cause = 3 then s6 else pushResets f cause s6
def execFnResume (f : Fin 9) (value : BitVec 32) (s : State) : Host.Outcome State Fault Refusal :=
  .next (resumeFn f.val (writeSvec f.val (value.zeroExtend 64) s))

/-! ### Grants (R369, R375) -/

/-- GRANT_WRITE: only the keeper writes; a grant whose KIND is not 0 takes only KIND = 0. -/
def writeGrant (who : Agent) (i : Nat) (v : Word) (s : State) : State :=
  if !isKeeper s who then s
  else if fget s fldGLB_ADM_GRANT_KIND i != 0 && bitsOf v 3 0 != 0 then s
  else setReg .GLB_ADM_GRANT i (putBits v 31 26 0) s
def execGrantWrite (who : Agent) (i : Fin 256) (value : Word) (s : State) : Host.Outcome State Fault Refusal :=
  .next (writeGrant who i.val value s)
/-- ADM_SRC_WRITE: ignored while the source is named by an ALARM grant or admitted work; PS15's is read-only. -/
def writeAdmSrc (who : Agent) (i : Nat) (v : Word) (s : State) : State :=
  if !isKeeper s who || i == 15 || srcAdmitted s i then s else setReg .GLB_ADM_SRC i v s
def execAdmSrcWrite (who : Agent) (i : Fin 16) (value : Word) (s : State) : Host.Outcome State Fault Refusal :=
  .next (writeAdmSrc who i.val value s)
/-- ACTIVATION_OVERRUN: an activation of a running task with a TASK grant passes LIMIT × 64 cycles: band 3 until its WAIT,
OVERRUN. -/
def execActivationOverrun (p : Fin 8) (t : Fin 1024) (s : State) : Host.Outcome State Fault Refusal :=
  let key := 1024 * p.val + t.val
  let past := match taskGrant s p.val t.val with
    | some g => decide (grLimit s g * 64 < sparseGet (fun _ => 0) s.activations key)
    | none => false
  if !past || stOf s p.val t.val != stRunning || s.overran.contains key then .next s
  else .next (countAdm fldGLB_ADM_PSTAT_OVERRUN p.val { s with overran := s.overran ++ [key] })

end Sys2Proof.Machine
end

