-- ==== Sys2Proof/Machine/Resets.lean ====
section
/-!
DEFINITION. Machine/Resets.lean: the resets of device and cluster scope (R430 to R433) and the warm path of R396
(18_power_reset.md, 16_boot_trust.md).
-/

namespace Sys2Proof.Machine

/-! ### Device warm reset (R431) -/

/-- A write of GLB_RESET starts a device warm reset, unless one runs (R433): every ramp starts. -/
def requestWarm (who : Agent) (v : Word) (s : State) : State :=
  if !pfOrK s who || !bitOf v 0 || fbit s fldGLB_RESET_PENDING 0 then s
  else deviceTrigger 3 (fset fldGLB_RESET_PENDING 0 1 s)

def execWarmResetRequest (who : Agent) (value : BitVec 32) (s : State) : Host.Outcome State Fault Refusal :=
  .next (requestWarm who (value.zeroExtend 64) s)

/-- The last ramp has ended and every core is at a point where R126 permits a switch, or in the MANTLE. -/
def warmReady (s : State) : Bool :=
  fbit s fldGLB_RESET_PENDING 0 && bootState s != btWarm && (List.range 64).all (fun o => drvState s o != drvRamping) &&
  (List.range 64).all (atPoint s)

/-- Step 3: the merging buffers drain; every cache is cleaned and invalidated. -/
def quiesce (s : State) : State :=
  let s1 := (List.range 64).foldl (fun t k => drainAll k t) s
  let s2 := cleanCaches (fun _ => true) s1
  { s2 with
    lines := []
    plru := []
    sweeps := []
    under := [] }

/-- Every core as at core reset, with new prediction keys (R78, R430); `mcver` says what its control store holds. -/
def freshCores (mcver : Nat → Word) (s : State) : State :=
  (List.range 64).foldl (fun t k =>
    let a := drawWord t
    let b := drawWord a.2
    setCore k { CoreState.atReset with
      mcver := mcver k
      front := { Ctx.atReset with key := a.1 }
      back := { Ctx.atReset with key := b.1 } } b.2) s

/-- Working state that a device warm reset clears: all but memory and the larder, the host functions' rings, ATTICs and
records, device time, clocks and power, the boot sequencer's images and keys, and the pins. -/
def warmClear (s : State) : State :=
  { s with
    units := []
    mail := []
    readySeq := []
    cursors := []
    buckets := []
    pages := []
    deferred := []
    fabricTlb := []
    fabricLru := []
    racks := []
    laundry := []
    markq := []
    sources := []
    mainsAt := []
    syncAt := none
    syncGap := none
    alarms := []
    fences := []
    syncBusy := 0
    drives := []
    jobs := []
    lanes := []
    links := []
    channels := []
    exports := []
    overran := []
    activations := []
    admAt := []
    dynAt := []
    skews := []
    skewAt := none
    lardSkews := []
    lardSkewAt := none
    moving := []
    hostHalf := none
    hostFns := s.hostFns.map (fun p => (p.1, { p.2 with bind := [] }))
    boot := { s.boot with
      services := []
      barOpen := false } }

/-- Registers a device warm reset clears. -/
def warmScope (r : Reg) : Bool := r.desc.scope == .warm || r.desc.scope == .cluster

/-- The functions' part of step 4: RSTGEN counts, R362 and R363 apply. -/
def warmFns (s : State) : State :=
  (List.range 9).foldl (fun t f =>
    fnWarm f (fset fldHIF_FN_RSTGEN_WARM f ((fget t fldHIF_FN_RSTGEN_WARM f + 1) % 2 ^ 32) t)) s

/-- DDR enters self-refresh and waits for recalibration (R202). -/
def selfRefresh (s : State) : State :=
  if memState s = memReady then setMem memTraining { s with memRecal := true } else s

/-- The microcode image in the larder is rehashed and loaded into every powered control store (R396). -/
def warmMicro (s : State) : State :=
  match s.boot.mcode with
  | none => bootFail 0x0D 0 s
  | some g =>
    if sha (memBytes s larderBase 32768) != g.phash then bootFail 0x0D 0 s
    else (List.range 8).foldl (fun t c => if c = 0 || pwrOn t c then reloadMicro c t else t) s

/-- Actions declared during the reset run after it, and show ACTING (R446). -/
def keepActing (s : State) : State :=
  (s.faultActs.filter (fun a => a.cls != 4)).foldl (fun t a => fset fldFLT_WSUM_ACTING a.unit 1 t) s

/-- Steps 3 to 5 of R431. -/
def warmReset (s : State) : State :=
  let s1 := warmFns (quiesce s)
  let s2 := freshCores (fun k => (getCore s1 k).mcver) (keepActing (warmClear (clearRegs (fun r _ => warmScope r) true s1)))
  warmMicro (setBootState btWarm (fset fldGLB_RST_STAT_LAST 0 3 (selfRefresh s2)))

/-- WARM_RESET_EFFECT (R431): steps 2 to 5, once the ramps have ended and the cores can stop. -/
def execWarmResetEffect (s : State) : Host.Outcome State Fault Refusal :=
  .next (if warmReady s then warmReset s else s)

/-- The keeper payload is rehashed and the keeper's warm entry follows; PENDING reads 0 (R396, R398, R431 step 6). -/
def warmKeeper (s : State) : State :=
  match s.boot.keeper with
  | none => bootFail 0x0D 0 s
  | some g =>
    if sha (memBytes s g.dest g.plen) != g.phash then bootFail 0x0D 0 s
    else keeperEnter 1 (fset fldGLB_RESET_PENDING 0 0 (setBootState btRun (modBoot (fun b => { b with barOpen := true }) s)))

/-- DDR_RECALIBRATION_DONE (R202, R418): MEM_STAT returns to READY once PLLD is locked; the warm path goes on. -/
def execDdrRecalibrationDone (s : State) : Host.Outcome State Fault Refusal :=
  if s.memRecal && pllLocked s 3 && !coasts s 3 then
    let s1 := setMem memReady { s with memRecal := false }
    .next (if bootState s1 = btWarm then warmKeeper s1 else s1)
  else .next s

/-! ### Cluster reset (R432) -/

/-- A write of CLU_RESET: ignored for cluster 0, while one runs, and while the cluster has no power. -/
def requestCluster (who : Agent) (cl : Nat) (v : Word) (s : State) : State :=
  if !isKeeper s who || !bitOf v 0 || cl == 0 || fbit s fldCLU_RESET_BUSY cl || !pwrOn s cl then s
  else fset fldCLU_RESET_BUSY cl 1 s

def execClusterReset (who : Agent) (cl : Fin 8) (value : BitVec 32) (s : State) : Host.Outcome State Fault Refusal :=
  .next (requestCluster who cl.val (value.zeroExtend 64) s)

/-- CLUSTER_RESET_DONE (R432): it takes effect once every core of the cluster can stop. -/
def execClusterResetDone (cl : Fin 8) (s : State) : Host.Outcome State Fault Refusal :=
  .next (if fbit s fldCLU_RESET_BUSY cl.val && (List.range 8).all (fun i => atPoint s (8 * cl.val + i)) then
      fset fldCLU_RESET_BUSY cl.val 0 (clusterReset cl.val s)
    else s)

/-! ### PCIe and power-on reset (R430) -/

/-- What lies outside every reset: the commands that wait, OTP, what has left the device, the levels of pins, and how many free
values have been drawn. The cells of DDR stay in the DRAM (R318) until its initialisation writes VOID (R202); the larder's are
lost (R196). -/
def outsideReset (s : State) : State :=
  freshCores (fun _ => 0) { State.reset with
    pending := s.pending
    mem := s.mem.filter (fun p => decide (p.1 < 0x4000000000 / 8))
    otp := s.otp
    outbound := s.outbound
    encoders := s.encoders
    abortN := s.abortN
    draw := s.draw }

/-- POWER_ON_RESET: everything but OTP returns to reset. -/
def execPowerOnReset (s : State) : Host.Outcome State Fault Refusal :=
  .next (fset fldGLB_RST_STAT_TRIP 0 s.tripped.toNat (outsideReset s))

/-- PCIE_RESET: as power-on, but the registers headed power-on and THERMTRIP_N stay. -/
def execPcieReset (s : State) : Host.Outcome State Fault Refusal :=
  .next (fset fldGLB_RST_STAT_LAST 0 2 (fset fldGLB_RST_STAT_TRIP 0 s.tripped.toNat { outsideReset s with
    regs := s.regs.filter (fun p => (keyReg p.1).1.desc.scope == .powerOn)
    tripped := s.tripped }))

end Sys2Proof.Machine
end

