-- ==== Sys2Proof/Machine/Partition.lean ====
section
/-!
DEFINITION. Machine/Partition.lean: the life of a partition (R147 to R149), its supervisor (R400), and the move of a core
between partitions (R150).
-/

namespace Sys2Proof.Machine

/-! ### Claim and release (R147) -/

def partState (s : State) (p : Nat) : Nat := fget s fldGLB_PART_CTL_STATE p
def setPartState (p st : Nat) (s : State) : State := fset fldGLB_PART_CTL_STATE p st s
@[reducible] def ptFree : Nat := 0
@[reducible] def ptConfig : Nat := 1
@[reducible] def ptRunning : Nat := 2
@[reducible] def ptResetting : Nat := 3

/-- CLAIM: FREE to CONFIG. -/
def claimPart (p : Nat) (s : State) : State := if partState s p = ptFree then setPartState p ptConfig s else s
def execPartClaim (p : Fin 8) (s : State) : Host.Outcome State Fault Refusal := .next (claimPart p.val s)

/-- A resource of R14 is assigned to the partition, or a quota of one is given to it. -/
def partHolds (s : State) (p : Nat) : Bool :=
  !(coresOf s p).isEmpty ||
  (List.range 64).any (fun b => fget s fldLARD_BANK_CTL_ROLE b == 1 && fget s fldLARD_BANK_CTL_PART b == p) ||
  (List.range 24).any (fun u => engOwner s u == some p) ||
  (List.range 64).any (fun o => outOwner s o == some p) ||
  (List.range 16384).any (fun i => chanPart s i == some p) ||
  (List.range 15).any (fun i => srcOwner s i == some p) ||
  fget s fldPHASE_CAL_QUOTA_QUOTA p != 0 ||
  (List.range 8).any (fun c => fget s fldCLU_DISP_MBQ_QUOTA (8 * c + p) != 0) ||
  (List.range 9).any (fun c => (List.range 16).any (fun w => wayLocked s (128 + c) w && wayOwner s (128 + c) w == some p))

/-- RELEASE: CONFIG to FREE, ignored while any resource of R14 is assigned. -/
def releasePart (p : Nat) (s : State) : State :=
  if partState s p = ptConfig && !partHolds s p then setPartState p ptFree s else s
def execPartRelease (p : Fin 8) (s : State) : Host.Outcome State Fault Refusal := .next (releasePart p.val s)

/-! ### Start (R148, R400) -/

/-- A TCB becomes FREE; EPOCH goes up by one where cell 0 was RAW64, and is 0 otherwise. -/
def freeTcb (p t : Nat) (s : State) : State :=
  let c := tcbCell s p t 0
  let w := if c.tag = tagRaw64 then putBits (putBits c.data 63 32 ((bitsOf c.data 63 32 + 1) % 2 ^ 32)) 2 0 stFree else 0
  tcbPut p t 0 (cellRaw w) s
/-- Every TCB of the partition's bank becomes FREE. -/
def freeTcbs (p : Nat) (s : State) : State := (List.range 1024).foldl (fun t i => freeTcb p i t) s

/-- S2TTB, CMODE and ATTRPAL of the partition on a core. -/
def loadPart (p k : Nat) (s : State) : State :=
  let f (x : Ctx) : Ctx := { x with
    cmode := partCmode s p
    attrpal := partPal s p }
  modCore k (fun c => { c with
    s2ttb := getReg s .GLB_PART_S2TTB p
    front := f c.front
    back := f c.back }) s

/-- The launch record is well formed: cells 0 to 4, 6 and 7 are RAW64, and cells 6 and 7 are zero. -/
def launchOk (cells : List Cell) : Bool :=
  [0, 1, 2, 3, 4, 6, 7].all (fun i => (cells.getD i cellVoid).tag == tagRaw64) &&
  [6, 7].all (fun i => (cells.getD i cellVoid).data == 0)

/-- The supervisor begins on a core: level S, EE = CB = CKMAP = 0, WSTAT as at core reset. -/
def launch (cells : List Cell) (k : Nat) (s : State) : State :=
  let w (i : Nat) : Word := (cells.getD i cellVoid).data
  fset fldCLU_CORE_BOOT_RUN k 1 (modCore k (fun c => { c with
    run := true
    front := { c.front with
      pc := keepBits (w 0) 47 2
      npc := keepBits (w 0 + 4) 47 2
      dslot := false
      pstat := 1
      wstat := 0x10000
      s1ttb := keepBits (w 1) 43 12 ||| keepBits (w 1) 63 48
      vbrS := keepBits (w 2) 47 10
      csp := keepBits (w 3) 47 3
      cbase := keepBits (w 3) 47 3
      clim := keepBits (w 4) 47 3
      ck := sparsePut (fun _ => cellVoid) 0 (cells.getD 5 cellVoid) c.front.ck } }) s)

/-- The conditions of R400 under which START is ignored. -/
def startBarred (s : State) (p : Nat) (cells : List Cell) : Bool :=
  !launchOk cells || (nbits s.otp.pol 1 1 == 1 && !fbit s fldGLB_PART_ENTRY_VERIFIED p)

/-- START: CONFIG to RUNNING. -/
def startPart (p : Nat) (s : State) : State :=
  if partState s p != ptConfig then s
  else
    let cells := physCells s (fget s fldGLB_PART_ENTRY_PADDR p * 64) 8
    if startBarred s p cells then fset fldGLB_PART_ENTRY_LERR p 1 s
    else
      let s1 := freeTcbs p (fset fldGLB_PART_ENTRY_LERR p 0 s)
      let s2 := (coresOf s p).foldl (fun t k => loadPart p k (modCore k (fun c => { c with front := idleCtx c.front }) t)) s1
      let s3 := match coresOf s p with
        | [] => s2
        | k :: _ => launch cells k s2
      setPartState p ptRunning s3
def execPartStart (p : Fin 8) (s : State) : Host.Outcome State Fault Refusal := .next (startPart p.val s)

/-! ### Reset (R149) -/

/-- RESET: the partition's outputs take the trigger PRESET at the write; STATE reads RESETTING. -/
def resetPart (p : Nat) (s : State) : State :=
  if partState s p = ptRunning || partState s p = ptConfig then drivePartReset p (setPartState p ptResetting s) else s
def execPartReset (p : Fin 8) (s : State) : Host.Outcome State Fault Refusal := .next (resetPart p.val s)

/-- Prediction of a core returns to first use, with new keys (R78). -/
def freshPrediction (k : Nat) (s : State) : State :=
  let a := drawWord s
  let b := drawWord a.2
  modCore k (fun c => { c with
    dirs := []
    targets := []
    targetLru := []
    front := { c.front with history := 0, rstack := [], key := a.1 }
    back := { c.back with history := 0, rstack := [], key := b.1 } }) b.2

/-- A core's epoch increments. -/
def bumpCore (k : Nat) (s : State) : State :=
  fset fldCLU_CORE_EPOCH_EPOCH k ((fget s fldCLU_CORE_EPOCH_EPOCH k + 1) % 2 ^ 32) s

/-- Steps 1 and 4 for one core: it has stopped; no context is drained, both are IDLE. -/
def resetPartCore (k : Nat) (s : State) : State :=
  bumpCore k (freshPrediction k (fset fldCLU_CORE_BOOT_RUN k 0 (modCore k (fun c => { c with
    run := false
    front := idleCtx c.front
    back := idleCtx c.back
    lastOut := none
    yielded := none
    ctl := none }) s)))

/-- The entries of the partition's unit grant become undefined (R41). -/
def forgetUnits (p : Nat) (s : State) : State :=
  let b := fget s fldGLB_UNIT_GRANT_BASE p
  ((List.range (fget s fldGLB_UNIT_GRANT_COUNT p)).map (fun i => b + i)).foldl (fun t u =>
    if u = 0 then t else productForget u { t with units := sparsePut unitDefault u [] t.units }) s

/-- The effects of other chapters (step 5): TLB entries (R168), units, LAUNDRY (R230), phase sources and alarms, engine jobs,
channels, the host function (R361), boot services (R401). -/
def resetResources (p : Nat) (s : State) : State :=
  let s1 := laundryReset p (forgetUnits p (tlbiApply (.part p) s))
  let s2 := stopJobs (fun j => j.part == p) (phasePartReset p s1)
  servicesPartReset p (fnPartReset p (linkPartReset p s2))

/-- Steps 2 to 6 of R149. -/
def finishReset (p : Nat) (s : State) : State :=
  let ks := coresOf s p
  let s1 := freeTcbs p { s with mail := s.mail.filter (fun m => m.part != p) }
  let s2 := ks.foldl (fun t k => resetPartCore k t) s1
  setPartState p ptConfig (resetResources p { s2 with
    overran := s2.overran.filter (fun e => e / 1024 != p)
    activations := s2.activations.filter (fun e => e.1 / 1024 != p)
    readySeq := s2.readySeq.filter (fun e => e.1 / 1024 != p) })

/-- PART_RESET_DONE: once every core of the partition can stop, and no reset of a cluster of one of them runs (R433). -/
def execPartResetDone (p : Fin 8) (s : State) : Host.Outcome State Fault Refusal :=
  .next (if partState s p.val = ptResetting && (coresOf s p.val).all (fun k => atPoint s k && !fbit s fldCLU_RESET_BUSY (k / 8)) then
      finishReset p.val s
    else s)

/-! ### Moves of cores (R150) -/

/-- The PART and ASSIGNED fields of a core, as a number. -/
def ownerBits (s : State) (k : Nat) : Nat := bitsOf (getReg s .CLU_CORE_PART k) 3 0

/-- Two settings of CLU_CORE_PART name the same owner. -/
def sameOwner (a b : Nat) : Bool := a == b || (decide (a < 8) && decide (b < 8))

/-- A write of CLU_CORE_PART. -/
def moveCore (who : Agent) (k v : Nat) (s : State) : State :=
  if !isKeeper s who || k == 0 || fbit s fldCLU_CORE_PART_MOVING k then s
  else if 8 ≤ v && (nbits (fget s fldFLT_CORE_OFF_OFF 0) k k == 1 || !pwrOn s (k / 8)) then s
  else if sameOwner v (ownerBits s k) then setReg .CLU_CORE_PART k (w64 v) s
  else fset fldCLU_CORE_PART_MOVING k 1 { s with moving := sparsePut (fun _ => 0) k v s.moving }

/-- CORE_MOVE (R150): a change of owner starts the move. -/
def execCoreMove (who : Agent) (k : CoreId) (assign : Bool) (p : Fin 8) (s : State) : Host.Outcome State Fault Refusal :=
  .next (moveCore who k.val (p.val + 8 * assign.toNat) s)

/-- R126 permits a switch of the front context. -/
def mayLeave (s : State) (k : Nat) : Bool := !(getCore s k).run || (!cbOf (front s k) && !mbOf (front s k))

/-- The move of a core to a new owner: the front task is switched out, both contexts are drained and become IDLE, the epoch increments, prediction and every
translation start afresh, and the new partition's state is loaded. -/
def finishMove (k : Nat) (s : State) : State :=
  let v := sparseGet (fun _ => 0) s.moving k
  let s1 := retireBuffers k (drainAll k (drainSide k false (drainSide k true (preemptTask k s))))
  let s2 := rebounce (bumpCore k (idleSide k false (idleSide k true s1)))
  let s3 := freshPrediction k (modCore k (fun c => { c with
    itlb := []
    dtlb := []
    l2tlb := []
    walk1 := []
    walk2 := []
    tlbLru := []
    lastOut := none
    yielded := none
    ctl := none }) s2)
  let s4 := setReg .CLU_CORE_PART k (w64 v) { s3 with moving := sparsePut (fun _ => 0) k 0 s3.moving }
  if 8 ≤ v then loadPart (v % 8) k s4 else s4

/-- CORE_MOVE_DONE (R150). -/
def execCoreMoveDone (k : CoreId) (s : State) : Host.Outcome State Fault Refusal :=
  .next (if fbit s fldCLU_CORE_PART_MOVING k.val && mayLeave s k.val then finishMove k.val s else s)

end Sys2Proof.Machine
end

