-- ==== Sys2Proof/Machine/RegOps.lean ====
section
/-!
DEFINITION. Machine/RegOps.lean: the register map (R6 to R11, R463 to R465): which register an offset names, the half
latches, and what a write does to a field by its access code and LOCK bit.
-/

namespace Sys2Proof.Machine

/-- Bytes of a register. -/
def regBytes (d : RegDesc) : Nat := if d.wide then 8 else 4

/-- The index and the byte of a register array that lie at an offset. -/
def descAt (d : RegDesc) (off : Nat) : Option (Nat × Nat) :=
  if off < d.base then none
  else
    let rel := off - d.base
    let i1 := if d.s1 = 0 then 0 else rel / d.s1
    let r1 := rel - i1 * d.s1
    let i2 := if d.s2 = 0 then 0 else r1 / d.s2
    let b := r1 - i2 * d.s2
    if i1 < d.outer && i2 < d.inner && b < regBytes d then some (i1 * d.inner + i2, b) else none

/-- The register, its index and the byte within it at a BAR0 offset (R463, R464); none at a reserved offset. -/
def regAt (off : Nat) : Option (Reg × Nat × Nat) :=
  Reg.all.findSome? (fun r => (descAt r.desc off).map (fun p => (r, p.1, p.2)))

/-- The BAR0 offset of a register. -/
def regOff (r : Reg) (i : Nat) : Nat :=
  let d := r.desc
  d.base + i / d.inner * d.s1 + i % d.inner * d.s2

/-- The LOCK bit that governs the RWL fields of a register's block (R8). -/
def blockLocked (s : State) (r : Reg) : Bool :=
  match r with
  | .GLB_UNIT_GRANT | .GLB_KTTB => fbit s fldGLB_LOCK_LOCK 0
  | .CLK_PLL_CFG | .CLK_PLL_SS | .CLK_DOM_SEL => fbit s fldCLK_CTL_LOCK 0
  | .PWR_THROT | .PWR_THROT_DIV | .PWR_AVS => fbit s fldPWR_THROT_LOCK 0
  | .DRV_GCTL => fbit s fldDRV_GCTL_LOCK 0
  | _ => false

/-- A field that a command of its own writes (rows of the command table other than REGISTER_WRITE). -/
def ownCommand (r : Reg) (hi : Nat) : Bool :=
  match r with
  | .GLB_PART_CTL => 10 ≤ hi
  | .GLB_PART_ENTRY | .CLU_CORE_PART | .LARD_HASH_KEY | .PHASE_SRC_OWN | .RSMP_UNIT_OWN | .SPEC_ENG_OWN => true
  | .GLB_ADM_GRANT | .GLB_ADM_SRC | .SEC_BOOT_CTL | .CLK_PLL_SS | .GLB_RESET | .CLU_RESET => true
  | .FLT_CORE_OFF | .FLT_LANE_RET => true
  | .CLU_L2_CTL | .SC_CTL => hi == 1
  | .CLU_L2_WAYCTL | .SC_WAYCTL => true
  | .LARD_BANK_CTL => hi == 1
  | .PHASE_SRC_CFG => hi == 0 || hi == 20
  | .SFL_LANE_CTL => hi == 0
  | .SFL_BOND => hi == 8
  | .SFL_CHT_A => hi == 0
  | .DRV_GCTL => hi == 1
  | .HIF_FN_NEG => hi == 9
  | .HIF_FN_CTL => hi ≤ 3
  | .CLU_CORE_BOOT => hi == 0
  | .CLK_DOM_SEL => hi ≤ 7
  | .CLK_PLL_CFG => hi ≤ 35
  | .PWR_DOM_CTL => hi == 0
  | _ => false

/-- The value of one field after a write of `v` to its register (R7, R8). -/
def fieldAfter (locked : Bool) (f : RegField) (old v : Word) : Nat :=
  let o := bitsOf old f.hi f.lo
  let n := bitsOf v f.hi f.lo
  match f.acc with
  | .rw => n
  | .rws => n
  | .rwl => if locked then o else n
  | .w1c => o - Nat.land o n
  | .w1s => Nat.lor o n
  | .ro => o
  | .wo => o

/-- A register's value after a write of `v`, over the fields that `pick` selects. -/
def regAfter (locked : Bool) (pick : RegField → Bool) (d : RegDesc) (old v : Word) : Word :=
  d.fields.foldl (fun w f => if pick f then putBits w f.hi f.lo (fieldAfter locked f old v) else w) old

/-! ### The half latches (R11) -/

/-- The half latch of a requester. DESIGN CHOICE (log): R11 speaks of the host's BAR0 reads, and its nine functions share
the one latch, also for the reads of a virtual function through its BAR2. -/
def halfOf (s : State) : Agent → Option (Nat × Nat)
  | .host _ => s.hostHalf
  | .core k => (getCore s k.val).half

def setHalf (who : Agent) (h : Option (Nat × Nat)) (s : State) : State :=
  match who with
  | .host _ => { s with hostHalf := h }
  | .core k => modCore k.val (fun c => { c with half := h }) s

/-- The register a write of the right size and alignment names: 32 bits to a 32-bit register, 64 bits to the whole of
a 64-bit register (R11). -/
def writeTarget (off : Nat) (wide : Bool) : Option (Reg × Nat) :=
  match regAt off with
  | none => none
  | some (r, i, b) => if b == 0 && r.desc.wide == wide then some (r, i) else none

/-- An access that breaks R11: unaligned, of another size, 64 bits to a 32-bit register, or a write that does not
cover a 64-bit register whole. -/
def badAccess (write : Bool) (off size : Nat) : Bool :=
  (size != 4 && size != 8) || off % size != 0 ||
  (match regAt off with
    | none => false
    | some (r, _, _) => (size == 8 && !r.desc.wide) || (size == 4 && write && r.desc.wide))

end Sys2Proof.Machine
end

