-- ==== Sys2Proof/Machine/RegFull.lean ====
section
/-!
DEFINITION. Machine/RegFull.lean: what a read of a register returns, and what a write to one does (R6 to R11, R238, R384):
the registers that show other state, who may write which register, and the action of the fields that have one.
-/

namespace Sys2Proof.Machine

/-! ### Who reaches BAR0 (R335, R384, R431, R463) -/

/-- A VF reaches only its own function window, through its BAR2. Until the keeper's cold entry, and while a warm reset runs, the
PF's BAR0 serves only the GLB, SEC and MEM blocks. A core reaches the whole region. -/
def served (s : State) (who : Agent) (off : Nat) : Bool :=
  match who with
  | .core _ => true
  | .host f =>
    if f.val < 8 then off / 0x1000 == 0x40 + f.val
    else s.boot.barOpen || decide (off < 0x10000) || (decide (0x30000 ≤ off) && decide (off < 0x40000)) ||
      (decide (0x300000 ≤ off) && decide (off < 0x340000))

/-! ### Reads -/

/-- The registers in the page of a phase source (R238). -/
def sourcePage (r : Reg) : Bool :=
  match r with
  | .PHASE_SRC_CFG | .PHASE_SRC_CPR | .PHASE_SRC_LOOP | .PHASE_SRC_LIM | .PHASE_SRC_RATIO | .PHASE_SRC_OFFS => true
  | .PHASE_SRC_STAT | .PHASE_SRC_EST | .PHASE_SRC_RATE | .PHASE_SRC_REJ => true
  | _ => false

/-- A bit per index below `n`, where `f` holds. -/
def bitMap (n : Nat) (f : Nat → Bool) : Nat := (List.range n).foldl (fun a i => a + (f i).toNat * 2 ^ i) 0

/-- A guaranteed buffer lies in the balanced region (R200): an enabled record shadow, or the ring of a valid channel. -/
def balInUse (s : State) : Bool :=
  let inside (pa : Nat) : Bool :=
    let g := pa / 2 ^ 30
    decide (fget s fldMEM_BAL_BASE 0 ≤ g) && decide (g < fget s fldMEM_BAL_BASE 0 + fget s fldMEM_BAL_SIZE 0)
  (List.range 9).any (fun f => fbit s fldHIF_SHADOW_EN f && inside (fget s fldHIF_SHADOW_BASE f * 4096)) ||
  (validChans s).any (fun i => match chanPart s i with
    | none => inside (fget s fldSFL_CHT_B_BASE i * 64)
    | some p => match fabricXlate s p .store (fget s fldSFL_CHT_B_BASE i * 64) with
      | .ok pa => inside pa
      | .error _ => false)

/-- A cluster's unit-table replica is being copied from cluster 0's (R41): while its domain is on the way ON, before any of its
cores leaves reset. -/
def refilling (s : State) : Bool :=
  (List.range 8).any (fun d => d != 0 && fget s fldPWR_DOM_CTL_PST d == pwChanging && fbit s fldPWR_DOM_CTL_REQ d)

/-- What a register holds, with the fields that show other state. RSMP_UNIT_STAT.LOAD, a measure of time, is free. -/
def regView (s : State) (r : Reg) (i : Nat) : Word :=
  let v := getReg s r i
  match r with
  | .PHASE_DT_NOW => dtNow s
  | .GLB_UNIT_STAT => putBits (putBits v 10 0 (namedUnits s).length) 16 16 (refilling s).toNat
  | .GLB_ADM_SRC => if i = 15 then w64 0x3F800000 else v
  | .CLK_ADM_PIN => w64 (bitMap 25 (domPinned s))
  | .CLK_PLL_SS => if coasts s i then putBits v 0 0 0 else v
  | .PWR_THERM => if sensorOn s i then v else putBits v 12 12 0
  | .HIF_RING_CFG => if i % 21 = 20 then putBits v 4 0 (fget s fldHIF_ATTIC_LOG2N (i / 21)) else v
  | .HIF_RING_AUX => if 16 ≤ i % 21 && i % 21 < 20 then v else 0
  | .PHASE_SRC_STAT => putBits v 2 2 (srcSettled s i).toNat
  | .PHASE_SRC_EST => match estimate s i with
    | some e => phaseWord e.1
    | none => 0
  | .PHASE_SRC_RATE => match estimate s i with
    | some e => wordOfInt e.2.1
    | none => 0
  | .PHASE_CAL_QUOTA => putBits v 28 16 (calUsed s i)
  | .RSMP_UNIT_STAT => putBits (w64 (bitMap 4 (fun n => (findJob s i n).isSome))) 25 16 (Config.freeNat s.draw % 1001)
  | .SPEC_ENG_STAT =>
    let js := s.jobs.filter (fun j => j.eng == 8 + i)
    w64 (bitMap 16 (fun n => (findJob s (8 + i) n).isSome) + (js.any (fun j => j.cur.isSome)).toNat * 2 ^ 16 +
      (js.filter (fun j => j.pend.isSome)).length * 2 ^ 17)
  | .LNDR_PART_STAT =>
    putBits v 24 8 ((racksOf s i).filter (fun n => (getRack s i n).state == rackFree && (getRack s i n).wiped)).length
  | .MEM_BAL => putBits v 16 16 (balInUse s).toNat
  | .CLU_DISP_MBQ => putBits v 24 16 (slotsUsed s (i / 8) (i % 8))
  | _ => v

/-- Registers whose pages a rule confines to an owner, beside the sources' own (R14, R238, R313, R319): they read 0 to code
without a partition's rights (R467). -/
def ownerPage (r : Reg) : Bool :=
  let b := r.desc.base
  (decide (0x100000 ≤ b) && decide (b < 0x200000)) || (decide (0x280000 ≤ b) && decide (b < 0x300000)) ||
  (match r with
    | .SFL_CHT_A | .SFL_CHT_B => true
    | .LNDR_PART_CTL | .LNDR_PART_STAT | .LNDR_PART_HEAP | .LNDR_PART_SIDE | .LNDR_PART_ROOT => true
    | _ => false)

/-- What a requester reads: the pages of phase sources answer those who may read the source, and 0 to others (R238); the
pages of owners answer 0 to code on a core of no partition (R467). -/
def readFor (s : State) (who : Agent) (r : Reg) (i : Nat) : Word :=
  if sourcePage r && !isKeeper s who && !agentReads s who i then 0
  else if ownerPage r && noRights s who then 0
  else regView s r i

/-- A 32-bit read at an aligned offset (R11): the value read and the state after. A reserved offset reads 0 (R9). -/
def regRead32 (who : Agent) (off : Nat) (s : State) : Nat × State :=
  match (if served s who off then regAt off else none) with
  | none => (0, s)
  | some (r, i, b) =>
    let v := (readFor s who r i).toNat
    if !r.desc.wide then (v % 2 ^ 32, s)
    else if b = 0 then (v % 2 ^ 32, setHalf who (some (off, v / 2 ^ 32)) s)
    else
      match halfOf s who with
      | some (o, h) => if o = off - 4 then (h, setHalf who none s) else (v / 2 ^ 32, s)
      | none => (v / 2 ^ 32, s)

/-- A 64-bit read at an aligned offset: a 32-bit register answers zero (R11). -/
def regRead64 (who : Agent) (off : Nat) (s : State) : Word :=
  match (if served s who off then regAt off else none) with
  | none => 0
  | some (r, i, b) => if r.desc.wide && b == 0 then readFor s who r i else 0

/-! ### Writes of fields without a command of their own -/

/-- Registers that only the PF and level K write: the CLK, PWR, FLT and SFL blocks and those whose heading says so; and,
since level K owns the partitions, their resources and the stage-2 tables (R12, R14), the LARD, CLU and SC blocks, LAUNDRY's
own registers and the owners of engines. -/
def keeperOnly (r : Reg) : Bool :=
  let b := r.desc.base
  (decide (0x10000 ≤ b) && decide (b < 0x30000)) || (decide (0x200000 ≤ b) && decide (b < 0x280000)) ||
  (decide (0x340000 ≤ b) && decide (b < 0x380000)) || (decide (0x3C0000 ≤ b) && decide (b < 0x700000)) ||
  (match r with
    | .PHASE_CAL_QUOTA | .PHASE_DT_CTL | .PHASE_SRC_OWN | .RSMP_UNIT_OWN | .SPEC_ENG_OWN => true
    | .HIF_ATTIC | .HIF_SHADOW | .LNDR_CTL | .LNDR_RTB => true
    | _ => false)

/-- The blocks that are served before BAR0 is open (R384), which the PF and level K write: GLB, SEC and MEM. -/
def earlyBlock (r : Reg) : Bool :=
  let b := r.desc.base
  decide (b < 0x10000) || (decide (0x30000 ≤ b) && decide (b < 0x40000)) ||
  (decide (0x300000 ≤ b) && decide (b < 0x340000))

/-- Whether a requester may write a register at all. Code without a partition's rights writes none (R467). -/
def mayWrite (s : State) (who : Agent) (r : Reg) : Bool :=
  if earlyBlock r then pfOrK s who
  else if keeperOnly r then isKeeper s who
  else !noRights s who

/-- The function whose ring a HIF register index belongs to. -/
def ringFn (i : Nat) : Nat := i / 21
/-- BASE, CFG and AUX are writable in DETACHED and RECOVER. -/
def ringOpen (s : State) (i : Nat) : Bool := fnState s (ringFn i) != fnRunning

/-- Lines admission has reserved on each subchannel (R378); the spec gives no register for it, and a write of MEM_RSV below
what admitted work needs is ignored: here, any lower value while some STREAM or PHASE work is admitted. -/
def rsvLowered (s : State) (i : Nat) (v : Word) : Bool :=
  decide (bitsOf v 7 0 < fget s fldMEM_RSV_LINES i) && (List.range 8).any (partAdmitted s)

/-- The condition a register's chapter puts on a write, and the value the write stores. none: the write has no effect. -/
def writeRule (s : State) (who : Agent) (r : Reg) (i : Nat) (v : Word) : Option Word :=
  let when (b : Bool) : Option Word := if b then some v else none
  if !mayWrite s who r then none
  else
  match r with
  | .GLB_PART_CTL =>
    let old := getReg s r i
    let v1 := if partState s i = ptFree || partState s i = ptConfig then v else putBits v 3 2 (bitsOf old 3 2)
    some (if partState s i = ptConfig then v1 else putBits v1 9 4 (bitsOf old 9 4))
  | .GLB_PART_ATTRPAL => when (partState s i = ptFree || partState s i = ptConfig)
  | .CLK_STAT => some (v &&& w64 (clearableFlags s))
  | .PWR_THROT => some (if s.tripped then putBits v 26 26 0 else v)
  | .PWR_THROT_DIV => when (canThrottle i && !domPinned s i)
  | .HIF_RING_BASE => when (ringOpen s i)
  | .HIF_RING_CFG => if ringOpen s i then some (if i % 21 = 20 then putBits v 4 0 (bitsOf (getReg s r i) 4 0) else v) else none
  | .HIF_RING_AUX => when (ringOpen s i && decide (16 ≤ i % 21) && i % 21 != 20)
  | .HIF_RING_SEQ => when (fnState s (ringFn i) = fnDetached)
  | .HIF_ATTIC =>
    if fnState s i = fnDetached then
      some (if fget s fldLARD_BANK_CTL_ROLE (bitsOf v 5 0) = 3 then v else putBits v 6 6 0)
    else none
  | .HIF_SHADOW => when (fnState s i = fnDetached)
  | .LARD_BANK_CTL =>
    if (getReg s r i != v) && bankAdmitted s i && bitsOf v 8 4 != bitsOf (getReg s r i) 8 4 then
      some (putBits v 8 4 (bitsOf (getReg s r i) 8 4))
    else some (if i = 0 then putBits v 5 4 2 else v)
  | .MEM_HASH_KEY => when (memState s = memKeyed)
  | .MEM_BAL => when (!balInUse s)
  | .MEM_RSV => if rsvLowered s i v then none else some (if 140 < bitsOf v 7 0 then putBits v 7 0 140 else v)
  | .PHASE_CAL_RPTB | .PHASE_CAL_RPTC => when (mayAct s who i)
  | .PHASE_SRC_CPR | .PHASE_SRC_LOOP | .PHASE_SRC_LIM | .PHASE_SRC_OFFS => when (srcWritable s who i && !srcOn s i)
  | .LNDR_CTL =>
    some (if (List.range 8).all (fun p => phaseOfPart s p == 0) then v else putBits v 5 1 (bitsOf (getReg s r i) 5 1))
  | .LNDR_RTB => when (!fbit s fldLNDR_CTL_EN 0)
  | .LNDR_PART_HEAP | .LNDR_PART_SIDE => when (!fbit s fldLNDR_PART_CTL_EN i)
  | .LNDR_PART_ROOT => when (!fbit s fldLNDR_PART_CTL_EN (i / 8))
  | .LNDR_PART_CTL => some (if partAdmitted s i then putBits v 0 0 (bitsOf (getReg s r i) 0 0) else v)
  | _ => some v

/-- A write of `v` to a register by `who`, over the fields without a command of their own. -/
def regWriteOf (who : Agent) (r : Reg) (i : Nat) (v : Word) (s : State) : State :=
  match writeRule s who r i v with
  | none => s
  | some v' => setReg r i (regAfter (blockLocked s r) (fun f => !ownCommand r f.hi) r.desc (getReg s r i) v') s

/-- Registers whose write is an operation of their chapter; none for the others. -/
def wholeWrite (who : Agent) (r : Reg) (i : Nat) (v : Word) (s : State) : Option State :=
  match r with
  | .PHASE_SRC_CFG => some (writeSrcCfg who i v s)
  | .PHASE_SRC_RATIO => some (writeRatio who i v s)
  | .SFL_LANE_CTL => some (writeLane who i v s)
  | .SFL_BOND => some (writeBond who i v s)
  | .SFL_CHT_A => some (writeChan who i v s)
  | .SFL_CHT_B => if fbit s fldSFL_CHT_A_V i then some s else none
  | .SFL_LINK_LIM => some (if isKeeper s who then writeLinkLim i v s else s)
  | .DRV_GCTL => some (writeGctl who v s)
  | .DRV_OUT_CFG => some (writeOutCfg who i v s)
  | .DRV_OUT_AMAX | .DRV_OUT_SMAX | .DRV_OUT_RMAX | .DRV_OUT_LACT => some (writeOutLim who r i v s)
  | .DRV_OUT_MAP => some (if outAdmitted s i then s else writeOutMap who i v s)
  | .DRV_ABT => some (writeAbt who v s)
  | .FLT_PAGE => some (writePage who i v s)
  | .HIF_RING_SEQ =>
    let f := ringFn i
    some (if fnState s f = fnDetached then setDoorbell f (i % 21) (bitsOf v 47 0) (regWriteOf who r i v s) else s)
  | _ => none

/-- A write value in which the fields with a command of their own ask for nothing. -/
def neutral (s : State) (r : Reg) (i : Nat) (v : Word) : Word :=
  match r with
  | .PHASE_SRC_CFG => putBit (putBit v 0 (srcOn s i)) 20 false
  | .SFL_LANE_CTL => putBit v 0 (fbit s fldSFL_LANE_CTL_EN i)
  | .SFL_BOND => putBit v 8 (fbit s fldSFL_BOND_EN i)
  | .SFL_CHT_A => putBit v 0 (fbit s fldSFL_CHT_A_V i)
  | .DRV_GCTL => putBit v 1 false
  | _ => v

/-- A write to the fields that have no command of their own. -/
def plainWrite (who : Agent) (r : Reg) (i : Nat) (v : Word) (s : State) : State :=
  if !mayWrite s who r then s
  else
  match wholeWrite who r i (neutral s r i v) s with
  | some t => t
  | none => regWriteOf who r i v s

/-! ### Writes of whole registers (the fields that have commands of their own act too) -/

/-- CLAIM, START, RESET and RELEASE, in the order of their bits. -/
def partActions (p : Nat) (v : Word) (s : State) : State :=
  let s1 := if bitOf v 10 then claimPart p s else s
  let s2 := if bitOf v 11 then startPart p s1 else s1
  let s3 := if bitOf v 12 then resetPart p s2 else s2
  if bitOf v 13 then releasePart p s3 else s3

/-- EN of a cache (R188): 1 enables a DISABLED cache, 0 starts the sweep of an ENABLED one. -/
def writeEn (c : CacheId) (n : Nat) (s : State) : State :=
  if n = 1 && cacheEn s c = 0 then setCacheEn 1 c s
  else if n = 0 && cacheEn s c = 1 then setCacheEn 2 c { s with sweeps := s.sweeps ++ [⟨cacheNo c, .disable⟩] }
  else s

/-- LOCK and DIS bits of a cache: each bit that changes, unless its sweep runs. -/
def writeWays (c : Nat) (v : Word) (s : State) : State :=
  let s1 := (List.range 12).foldl (fun t w =>
    if bitOf v w then
      (if wayLocked t c w || t.sweeps.contains ⟨c, .lock w⟩ then t else startWaySweep c (.lock w) t)
    else if wayLocked t c w then setLock c w false t else t) s
  (List.range 16).foldl (fun t w =>
    if bitOf v (16 + w) then (if wayDis t c w || t.sweeps.contains ⟨c, .way w⟩ then t else writeDis c w true t)
    else if wayDis t c w then writeDis c w false t else t) s1

/-- SEC_OTP_CMD (R393). Whether the fuses read back is free. -/
def otpCommand (who : Agent) (v : Word) (s : State) : State :=
  if !pfOrK s who then s
  else
    let d := drawBit s
    let slot := bitsOf v 4 2
    match bitsOf v 1 0 with
    | 1 => otpProgram slot d.1 d.2
    | 2 => otpRevoke slot d.1 d.2
    | 3 => otpPolicy slot d.1 d.2
    | _ => s

/-- The action of the fields that have a command of their own, for a write of the whole register. RESTORE acts by its own
command, which carries the records read from the host. -/
def actWrite (who : Agent) (r : Reg) (i : Nat) (v : Word) (s : State) : State :=
  match r with
  | .GLB_PART_CTL => partActions i v s
  | .GLB_PART_ENTRY => writePartEntry i v s
  | .GLB_ADM_GRANT => writeGrant who i v s
  | .GLB_ADM_SRC => writeAdmSrc who i v s
  | .GLB_RESET => requestWarm who v s
  | .CLK_PLL_CFG => if bitOf v 35 then relockPll who i (configPll who i v s) else configPll who i v s
  | .CLK_PLL_SS => writeSpread who i v s
  | .CLK_DOM_SEL => switchDomain who i v s
  | .PWR_DOM_CTL => requestDomain who i (bitOf v 0) s
  | .SEC_BOOT_CTL =>
    let s1 := if bitOf v 0 then bootRelease who s else s
    if bitOf v 1 then bootGo who true s1 else s1
  | .SEC_OTP_CMD => otpCommand who v s
  | .HIF_FN_NEG => writeNeg i v s
  | .HIF_FN_CTL =>
    let s1 := if bitOf v 0 then attachFn i s else s
    let s2 := if bitOf v 1 then detachFn i s1 else s1
    if bitOf v 3 then resumeFn i s2 else s2
  | .PHASE_SRC_OWN => writeSrcOwn who i v s
  | .RSMP_UNIT_OWN => engOwnWrite who i v s
  | .SPEC_ENG_OWN => engOwnWrite who (8 + i) v s
  | .LARD_BANK_CTL => requestBank i (bitsOf v 1 0) s
  | .LARD_HASH_KEY => writeLardKey i (bitsOf v 35 0) s
  | .FLT_CORE_OFF => writeCoreOff who v s
  | .FLT_LANE_RET => writeLaneRet who v s
  | .CLU_L2_CTL => writeEn (.l2 ⟨i % 8, Nat.mod_lt _ (by decide)⟩) (bitsOf v 1 0) s
  | .CLU_L2_WAYCTL => writeWays (128 + i) v s
  | .SC_CTL => writeEn .sc (bitsOf v 1 0) s
  | .SC_WAYCTL => writeWays scCache v s
  | .CLU_CORE_PART => moveCore who i (bitsOf v 3 0) s
  | .CLU_CORE_BOOT => writeCoreBoot i v s
  | .CLU_RESET => requestCluster who i v s
  | _ => s

/-- A write of a whole register. -/
def fullWrite (who : Agent) (r : Reg) (i : Nat) (v : Word) (s : State) : State :=
  if !mayWrite s who r then s
  else
  match wholeWrite who r i v s with
  | some t => t
  | none => actWrite who r i v (regWriteOf who r i v s)

/-- An aligned store of 4 or 8 bytes to an offset: 32 bits to a 32-bit register, 64 bits to the whole of a 64-bit one; any
other has no effect (R11). -/
def regStore (who : Agent) (off : Nat) (wide : Bool) (v : Word) (s : State) : State :=
  match (if served s who off then writeTarget off wide else none) with
  | none => s
  | some (r, i) => fullWrite who r i v s

/-! ### The commands -/

/-- REG_READ_LOW_HALF (R11): the low half of a 64-bit register; the requester's latch takes the high half. At a 32-bit
register the read returns that register. -/
def execRegReadLowHalf (who : Agent) (off : BitVec 23) (s : State) : Host.Outcome State Fault Refusal :=
  match (if served s who off.toNat then regAt off.toNat else none) with
  | none => .next (answerRead 0 s)
  | some (_, _, b) =>
    if b == 0 then
      let x := regRead32 who off.toNat s
      .next (answerRead (w64 x.1) x.2)
    else .next s

/-- REG_READ_HIGH_HALF (R11): the latched value when the latch matches, which empties it; else the present half. -/
def execRegReadHighHalf (who : Agent) (off : BitVec 23) (s : State) : Host.Outcome State Fault Refusal :=
  match (if served s who off.toNat then regAt off.toNat else none) with
  | none => .next (answerRead 0 s)
  | some (r, _, b) =>
    if r.desc.wide && b == 4 then
      let x := regRead32 who off.toNat s
      .next (answerRead (w64 x.1) x.2)
    else .next s

/-- An access of `size` bytes to a register (R11). REG_BAD_ACCESS is one that breaks R11: it completes normally, a read
returns zero, a write has no effect. A read that keeps R11 is answered: 64 bits of a 64-bit register whole, else as the
32-bit reads; the writes that keep R11 are REGISTER_WRITE and the commands of the fields. -/
def execRegBadAccess (who : Agent) (write : Bool) (off : BitVec 23) (size : Nat) (_value : Word) (s : State) :
    Host.Outcome State Fault Refusal :=
  if write then .next s
  else if badAccess write off.toNat size then .next (answerRead 0 s)
  else if size = 8 then .next (answerRead (regRead64 who off.toNat s) s)
  else
    let x := regRead32 who off.toNat s
    .next (answerRead (w64 x.1) x.2)

/-- REGISTER_WRITE (R9): a write to the fields that have no row of their own. -/
def execRegisterWrite (who : Agent) (off : BitVec 23) (wide : Bool) (value : Word) (s : State) :
    Host.Outcome State Fault Refusal :=
  match (if served s who off.toNat then writeTarget off.toNat wide else none) with
  | none => .next s
  | some (r, i) => .next (plainWrite who r i value s)

/-! ### SMBus (R458) -/

/-- The 32-bit half of a register at a BAR0 offset, where SMBus reads it; 0 elsewhere. -/
def smbusWord (s : State) (off : Nat) : Nat :=
  match regAt off with
  | some (r, i, b) => if smbusReads r && off % 4 == 0 then (regView s r i).toNat / 2 ^ (8 * b) % 2 ^ 32 else 0
  | none => 0

/-- SMBUS_TRANSACTION (R458): the block read returns four bytes, least significant first. -/
def execSmbusTransaction (off : BitVec 32) (s : State) : Host.Outcome State Fault Refusal :=
  .next { s with smbus := (List.range 4).map (fun i => BitVec.ofNat 8 (smbusWord s off.toNat / 256 ^ i)) }

end Sys2Proof.Machine
end

