-- ==== Sys2Proof/Machine/Access.lean ====
section
/-!
DEFINITION. Machine/Access.lean: loads, stores and CAS (R91, R92), the single-step list and object instructions (R93), and
UTSET (R39, R87). Every access of a core goes through `memLoad` and `memStore`, which send it to memory or to the register
region.
-/

namespace Sys2Proof.Machine

/-! ### Accesses of a core at a translated address -/

/-- A load of a whole cell: the register region answers a 64-bit read as RAW64 (R11, R174). -/
def memLoad (k : CoreId) (x : Xl) (s : State) : Cell × State :=
  match regionOf s x.pa with
  | .regs off => (cellRaw (regRead64 (.core k) off s), s)
  | _ => coreLoad k.val x s

/-- A store of a whole cell, or of bytes to memory. -/
def memStore (k : CoreId) (x : Xl) (m : MergeCell) (s : State) : State :=
  match regionOf s x.pa with
  | .regs off => if m.whole then regStore (.core k) off true m.cell.data s else s
  | _ => if x.kind = 0 then storeNow k.val x m s else coreStore k.val x m s

/-- MISALIGNED, with the address. -/
def misaligned (va : Word) : Trap := { vec := vMisaligned, detail := 0, addr := some va }

/-- A GC cell bound for a rack or a root region of the core's partition (R210). -/
def gcInto (s : State) (k : CoreId) (va : Word) (c : Cell) : Bool :=
  tagClass c.tag == 4 && (match partOf s k.val with
    | none => false
    | some p => (rackAt s p va.toNat).isSome || inRoot s p va.toNat)

/-- The offset in the register region that a virtual address names to core `k`, if it names one. -/
def regOffset (s : State) (k : CoreId) (acc : Access) (va : Word) : Option Nat :=
  match translate s k.val (plOf (front s k.val)) acc va with
  | .error _ => none
  | .ok x => match regionOf s x.pa with
    | .regs off => some off
    | _ => none

/-- An access of `n` bytes is MISALIGNED; in the register region an unaligned access raises no trap (R11). -/
def misplaced (s : State) (k : CoreId) (acc : Access) (n : Nat) (va : Word) : Bool :=
  va.toNat % n != 0 && (regOffset s k acc va).isNone

/-- The cell at an aligned virtual address; in the register region an unaligned read gives zero (R11). -/
def fetchCell (k : CoreId) (va : Word) (s : State) : Except Trap (Cell × Xl × State) :=
  if misplaced s k .load 8 va then .error (misaligned va)
  else
    match xlate k.val (plOf (front s k.val)) .load va s with
    | .error f => .error (xTrap f .load va)
    | .ok (x, s1) =>
      let r := memLoad k x s1
      .ok (r.1, x, r.2)

/-- The cell at an aligned virtual address, through the load barrier (R220). -/
def loadCell (k : CoreId) (va : Word) (s : State) : Except Trap (Cell × State) :=
  match fetchCell k va s with
  | .error t => .error t
  | .ok (c, x, s1) =>
    loadBarrier k.val (some x.pa) va c s1

/-- In MARK the store barrier reads the old value and writes the new one as one operation at the coherence point, after
the core's earlier stores to the line (R221). -/
def markStore (s : State) (k : CoreId) (va : Word) : Bool :=
  match partOf s k.val with
  | none => false
  | some p => phaseOfPart s p == 2 && ((rackAt s p va.toNat).isSome || inRoot s p va.toNat)

/-- A store of a whole cell at a virtual address, through the store barrier (R221); `bad` is the trap of R210. -/
def storeCell (k : CoreId) (bad : Trap) (va : Word) (c : Cell) (s : State) : Except Trap State :=
  if gcInto s k va c then .error bad
  else if misplaced s k .store 8 va then .error (misaligned va)
  else
    match xlate k.val (plOf (front s k.val)) .store va s with
    | .error f => .error (xTrap f .store va)
    | .ok (x, s1) =>
      let now := markStore s1 k va
      let s2 := if now then drainFor k.val x.pa s1 else s1
      match storeBarrier k.val va.toNat (corePeek s2 k.val x.pa) c s2 with
      | .error f => .error (xTrap f .load (w64 f.ipa))
      | .ok (none, _) => .error bad
      | .ok (some c', s3) => .ok (memStore k (if now then { x with kind := 0 } else x) (wholeCell c') s3)

/-- A store to the block of the clock controls: what it does to the clocks is judged by R412. -/
def clkAt (s : State) (k : CoreId) (va : Word) : Bool :=
  match regOffset s k .store va with
  | none => false
  | some off => off / 0x10000 == 1

/-- The outcome of an instruction whose store may have changed a clock. -/
def storeOutcome (hit : Bool) (o : Host.Outcome State Fault Refusal) : Host.Outcome State Fault Refusal :=
  match o with
  | .next t => if hit then clocked t else .next t
  | .fault f => .fault f
  | .refused r => .refused r

/-! ### Loads (R91, R21) -/

/-- The address of a load or store: the payload of ra plus the offset of R67. -/
def effAddr (s : State) (k : CoreId) (ra : Gpr) (imm : BitVec 16) (size : Nat) : Word :=
  (readReg s k.val ra).data + sext imm * w64 size

/-- A load's result for rd, whose shadow instruction still reads the cell the register held before this load (R63). -/
def doneLoad (k : CoreId) (rd : Gpr) (v : Cell) (s : State) : Except Trap (State × Flow) :=
  let l := regLoc (front s k.val) rd.val
  .ok (writeReg k.val rd v s, .loaded l (readLoc (getCore s k.val) l))

/-- LDC: the cell as stored, subject to the load barrier. -/
def ldcBody (k : CoreId) (rd ra : Gpr) (imm : BitVec 16) : Body := fun s =>
  withOps [opAddr s k.val ra]
    (match loadCell k (effAddr s k ra imm 8) s with
      | .error t => .error t
      | .ok (c, s1) => doneLoad k rd c s1)

def execLdc (k : CoreId) (rd ra : Gpr) (imm : BitVec 16) (s : State) : Host.Outcome State Fault Refusal :=
  runInstr k (ldcBody k rd ra imm) s

/-- The value of `n` bytes of a cell, zero- or sign-extended, as a FIX. -/
def subValue (signed : Bool) (o n : Nat) (c : Cell) : Cell :=
  let v := bytesOf c.data o n
  if signed then cellFixI (signedOf (8 * n) v) else cellFix (w64 v)

/-- What a load of `n` bytes reads: the value, or the trap of a VOID or POISON cell (R21). Registers answer 32-bit reads
(R11). -/
def loadBytes (k : CoreId) (n : Nat) (signed : Bool) (va : Word) (x : Xl) (s : State) : Except Trap (Cell × State) :=
  match regionOf s x.pa with
  | .regs off =>
    if n = 4 && off % 4 == 0 then
      let r := regRead32 (.core k) off s
      .ok (subValue signed 0 4 (cellRaw (w64 r.1)), r.2)
    else .ok (cellFix 0, s)
  | _ =>
    let r := coreLoad k.val x s
    if r.1.tag = tagPoison then .error (trapAt vPoisonUse 0 va r.1.tag)
    else if r.1.tag = tagVoid then .error (trapAt vVoidUse 0 va r.1.tag)
    else .ok (subValue signed (x.pa % 8) n r.1, r.2)

/-- A sub-cell load of `n` bytes. -/
def ldxBody (k : CoreId) (n : Nat) (signed : Bool) (rd ra : Gpr) (imm : BitVec 16) : Body := fun s =>
  let va := effAddr s k ra imm n
  withOps [opAddr s k.val ra]
    (if misplaced s k .load n va then .error (misaligned va)
    else
      match xlate k.val (plOf (front s k.val)) .load va s with
      | .error f => .error (xTrap f .load va)
      | .ok (x, s1) =>
        match loadBytes k n signed va x s1 with
        | .error t => .error t
        | .ok (c, s2) => doneLoad k rd c s2)

def execLdw (k : CoreId) (rd ra : Gpr) (imm : BitVec 16) (s : State) : Host.Outcome State Fault Refusal :=
  runInstr k (ldxBody k 4 true rd ra imm) s
def execLdwu (k : CoreId) (rd ra : Gpr) (imm : BitVec 16) (s : State) : Host.Outcome State Fault Refusal :=
  runInstr k (ldxBody k 4 false rd ra imm) s
def execLdh (k : CoreId) (rd ra : Gpr) (imm : BitVec 16) (s : State) : Host.Outcome State Fault Refusal :=
  runInstr k (ldxBody k 2 true rd ra imm) s
def execLdhu (k : CoreId) (rd ra : Gpr) (imm : BitVec 16) (s : State) : Host.Outcome State Fault Refusal :=
  runInstr k (ldxBody k 2 false rd ra imm) s
def execLdb (k : CoreId) (rd ra : Gpr) (imm : BitVec 16) (s : State) : Host.Outcome State Fault Refusal :=
  runInstr k (ldxBody k 1 true rd ra imm) s
def execLdbu (k : CoreId) (rd ra : Gpr) (imm : BitVec 16) (s : State) : Host.Outcome State Fault Refusal :=
  runInstr k (ldxBody k 1 false rd ra imm) s

/-! ### Stores (R91, R21) -/

/-- STC: rd stored whole; not a use of rd. -/
def stcBody (k : CoreId) (rd ra : Gpr) (imm : BitVec 16) : Body := fun s =>
  let c := readReg s k.val rd
  withOps [opAddr s k.val ra]
    (match storeCell k (trapOn vTagCheck 1 rd.val c.tag) (effAddr s k ra imm 8) c s with
      | .error t => .error t
      | .ok s1 => .ok (s1, .seq))

def execStc (k : CoreId) (rd ra : Gpr) (imm : BitVec 16) (s : State) : Host.Outcome State Fault Refusal :=
  storeOutcome (clkAt s k (effAddr s k ra imm 8)) (runInstr k (stcBody k rd ra imm) s)

/-- A cell that takes bytes is there: DDR that is not retired, or a larder bank that is ON. Elsewhere the store is
discarded, or fails later (R110, R442). -/
def takesBytes (s : State) (pa : Nat) : Bool :=
  match regionOf s pa with
  | .ddr => !(subRetired s pa && !heldInCache s pa)
  | .larder b _ => bankOn s b
  | _ => false

/-- A store of the low `n` bytes of a value, or PARTIAL_STORE (R21). -/
def storeBytes (k : CoreId) (n : Nat) (va : Word) (v : Word) (x : Xl) (s : State) : Except Trap State :=
  match regionOf s x.pa with
  | .regs off => .ok (if n = 4 && off % 4 == 0 then regStore (.core k) off false (w64 (v.toNat % 2 ^ 32)) s else s)
  | _ =>
    let o := x.pa % 8
    let old := corePeek s k.val x.pa
    if takesBytes s x.pa && old.tag != tagRaw64 && old.tag != tagVoid then .error (trapAt vTagCheck 4 va old.tag)
    else .ok (memStore k x ⟨false, byteMask o n, cellRaw (putBytes 0 o n v.toNat)⟩ s)

/-- A sub-cell store of `n` bytes: a use of rd, which is FIX or RAW64. -/
def stxBody (k : CoreId) (n : Nat) (rd ra : Gpr) (imm : BitVec 16) : Body := fun s =>
  let va := effAddr s k ra imm n
  withOps [opTags s k.val rd tagRaw, opAddr s k.val ra]
    (if misplaced s k .store n va then .error (misaligned va)
    else
      match xlate k.val (plOf (front s k.val)) .store va s with
      | .error f => .error (xTrap f .store va)
      | .ok (x, s1) =>
        match storeBytes k n va (readReg s k.val rd).data x s1 with
        | .error t => .error t
        | .ok s2 => .ok (s2, .seq))

def execStw (k : CoreId) (rd ra : Gpr) (imm : BitVec 16) (s : State) : Host.Outcome State Fault Refusal :=
  storeOutcome (clkAt s k (effAddr s k ra imm 4)) (runInstr k (stxBody k 4 rd ra imm) s)
def execSth (k : CoreId) (rd ra : Gpr) (imm : BitVec 16) (s : State) : Host.Outcome State Fault Refusal :=
  runInstr k (stxBody k 2 rd ra imm) s
def execStb (k : CoreId) (rd ra : Gpr) (imm : BitVec 16) (s : State) : Host.Outcome State Fault Refusal :=
  runInstr k (stxBody k 1 rd ra imm) s

/-! ### CAS (R92) -/

/-- The store of CAS, atomic with its read, at the coherence point. -/
def casStore (k : CoreId) (rb : Gpr) (va : Word) (x : Xl) (old c : Cell) (s : State) : Except Trap State :=
  match storeBarrier k.val va.toNat old c s with
  | .error f => .error (xTrap f .load (w64 f.ipa))
  | .ok (none, _) => .error (trapOn vTagCheck 1 rb.val c.tag)
  | .ok (some c', s1) => .ok (storeNow k.val x (wholeCell c') s1)

/-- CAS: the compare is bitwise and a use of neither cell; rd receives the old cell. -/
def casBody (k : CoreId) (rd ra rb : Gpr) (fn : BitVec 11) : Body := fun s =>
  let va := (readReg s k.val ra).data
  guardTrap (fn != 0) (illegalOp 0) (withOps [opAddr s k.val ra]
    (if misplaced s k .cas 8 va then .error (misaligned va)
    else
      match xlate k.val (plOf (front s k.val)) .cas va s with
      | .error f => .error (xTrap f .cas va)
      | .ok (x, s1) =>
        if placedKind s1 x.pa x.kind = 0 then .error (illegalOp 4)
        else
          let s2 := drainFor k.val x.pa s1
          let old := physRead s2 x.pa
          if old.tag = tagPoison then .error (trapAt vPoisonUse 0 va old.tag)
          else if old = readReg s k.val rd then
            (match casStore k rb va x old (readReg s k.val rb) s2 with
            | .error t => .error t
            | .ok s3 => done k rd old s3)
          else done k rd old s2))

def execCas (k : CoreId) (rd ra rb : Gpr) (fn : BitVec 11) (s : State) : Host.Outcome State Fault Refusal :=
  runInstr k (casBody k rd ra rb fn) s

/-! ### Pairs and objects (R93) -/

def isConsTag (t : Tag) : Bool := t == tagCons
/-- A PTR class other than CONS. -/
def isObjTag (t : Tag) : Bool := isPtr t && t != tagCons

/-- CAR and CDR: cell `i` of the pair. -/
def pairBody (k : CoreId) (i : Nat) (rd ra : Gpr) : Body := fun s =>
  withOps [opObject s k.val ra isConsTag]
    (match loadCell k ((readReg s k.val ra).data + w64 (8 * i)) s with
      | .error t => .error t
      | .ok (c, s1) => done k rd c s1)

def execCar (k : CoreId) (rd ra : Gpr) (s : State) : Host.Outcome State Fault Refusal := runInstr k (pairBody k 0 rd ra) s
def execCdr (k : CoreId) (rd ra : Gpr) (s : State) : Host.Outcome State Fault Refusal := runInstr k (pairBody k 1 rd ra) s

/-- SETCAR and SETCDR: cell `i` of the pair takes rb; rd must be 0. -/
def setPairBody (k : CoreId) (i : Nat) (rd ra rb : Gpr) : Body := fun s =>
  let c := readReg s k.val rb
  guardTrap (rd.val != 0) (illegalOp 0) (withOps [opObject s k.val ra isConsTag]
    (match storeCell k (trapOn vTagCheck 1 rb.val c.tag) ((readReg s k.val ra).data + w64 (8 * i)) c s with
      | .error t => .error t
      | .ok s1 => .ok (s1, .seq)))

def execSetcar (k : CoreId) (rd ra rb : Gpr) (s : State) : Host.Outcome State Fault Refusal :=
  storeOutcome (clkAt s k (readReg s k.val ra).data) (runInstr k (setPairBody k 0 rd ra rb) s)
def execSetcdr (k : CoreId) (rd ra rb : Gpr) (s : State) : Host.Outcome State Fault Refusal :=
  storeOutcome (clkAt s k ((readReg s k.val ra).data + 8)) (runInstr k (setPairBody k 1 rd ra rb) s)

/-- EQQ: tag and payload identical; a use of both. -/
def eqqBody (k : CoreId) (rd ra rb : Gpr) : Body := fun s =>
  let a := readReg s k.val ra
  let b := readReg s k.val rb
  withOps [opTags s k.val ra (fun _ => true), opTags s k.val rb (fun _ => true)] (done k rd (cellBool (a == b)) s)

def execEqq (k : CoreId) (rd ra rb : Gpr) (s : State) : Host.Outcome State Fault Refusal := runInstr k (eqqBody k rd ra rb) s

/-- A cell that is used as the HEADER of an object of tag `t`, or the trap on the object's first cell. -/
def headerUse (va : Word) (t : Tag) (c : Cell) : Except Trap Nat :=
  if c.tag = tagVoid then .error (trapAt vVoidUse 0 va c.tag)
  else if c.tag = tagPoison then .error (trapAt vPoisonUse 0 va c.tag)
  else if c.tag = tagHeader && bitsOf c.data 63 56 == t.toNat then .ok (hdrLen c.data)
  else .error (trapAt vTagCheck (if isReservedTag c.tag then 3 else 1) va c.tag)

/-- The length and the address of the object in ra: a FWD is followed by the load barrier, on a core without a partition
through the translation of the access. A bad forwarding address is BAD_PTR (R24). The traps name the object's first cell,
with the tag of the cell judged. -/
def objectAt (k : CoreId) (ra : Gpr) (s : State) : Except Trap (Nat × Word × State) :=
  let o := readReg s k.val ra
  match fetchCell k o.data s with
  | .error t => .error t
  | .ok (c, _, s1) =>
    if c.tag = tagFwd then
      let next : Except Trap (Cell × State) :=
        if !ptrOk c.data then .error (trapAt vTagCheck 2 o.data c.tag)
        else
          match partOf s k.val with
          | none => match fetchCell k c.data s1 with
            | .error t => .error t
            | .ok (h, _, s2) => .ok (h, s2)
          | some p => followFwd k.val p c.data.toNat s1
      match next with
      | .error t => .error t
      | .ok (h, s2) =>
        match headerUse o.data o.tag h with
        | .error t => .error t
        | .ok n => .ok (n, c.data, s2)
    else
      match headerUse o.data o.tag c with
      | .error t => .error t
      | .ok n => .ok (n, o.data, s1)

/-- VLEN: the length, as a FIX. -/
def vlenBody (k : CoreId) (rd ra : Gpr) : Body := fun s =>
  withOps [opObject s k.val ra isObjTag]
    (match objectAt k ra s with
      | .error t => .error t
      | .ok (n, _, s1) => done k rd (cellFix (w64 n)) s1)

def execVlen (k : CoreId) (rd ra : Gpr) (s : State) : Host.Outcome State Fault Refusal := runInstr k (vlenBody k rd ra) s

/-- BOUNDS, on the index operand. -/
def outOfBounds (s : State) (k : CoreId) (rb : Gpr) : Trap := trapOn vTagCheck 5 rb.val (readReg s k.val rb).tag

/-- The address of element rb of the object in ra, after the checks of VREF and VSET. -/
def elementAt (k : CoreId) (ra rb : Gpr) (s : State) : Except Trap (Word × State) :=
  let i := (readReg s k.val rb).data
  withOpsAt [opObject s k.val ra isObjTag, opTags s k.val rb tagIsFix]
    (if i.toInt < 0 then .error (outOfBounds s k rb)
    else
      match objectAt k ra s with
      | .error t => .error t
      | .ok (n, a, s1) =>
        if n ≤ i.toNat then .error (outOfBounds s k rb) else .ok (a + w64 (8 + 8 * i.toNat), s1))
where
  /-- As withOps, for an address. -/
  withOpsAt (ops : List Opnd) (next : Except Trap (Word × State)) : Except Trap (Word × State) :=
    match checkOps ops with
    | .error t => .error t
    | .ok _ => next

/-- VREF: rd = element rb of ra. -/
def vrefBody (k : CoreId) (rd ra rb : Gpr) : Body := fun s =>
  match elementAt k ra rb s with
  | .error t => .error t
  | .ok (a, s1) =>
    match loadCell k a s1 with
    | .error t => .error t
    | .ok (c, s2) => done k rd c s2

def execVref (k : CoreId) (rd ra rb : Gpr) (s : State) : Host.Outcome State Fault Refusal := runInstr k (vrefBody k rd ra rb) s

/-- VSET: element rb of ra = rd; not a use of rd. -/
def vsetBody (k : CoreId) (rd ra rb : Gpr) : Body := fun s =>
  let c := readReg s k.val rd
  match elementAt k ra rb s with
  | .error t => .error t
  | .ok (a, s1) =>
    match storeCell k (trapOn vTagCheck 1 rd.val c.tag) a c s1 with
    | .error t => .error t
    | .ok s2 => .ok (s2, .seq)

/-- VSET stores to the clock controls. -/
def vsetHitsClk (k : CoreId) (ra rb : Gpr) (s : State) : Bool :=
  match elementAt k ra rb s with
  | .error _ => false
  | .ok (a, s1) => clkAt s1 k a

def execVset (k : CoreId) (rd ra rb : Gpr) (s : State) : Host.Outcome State Fault Refusal :=
  storeOutcome (vsetHitsClk k ra rb s) (runInstr k (vsetBody k rd ra rb) s)

/-! ### Several cells -/

/-- `n` cells from an address, whole. -/
def fetchCells (k : CoreId) : Nat → Word → State → Except Trap (List Cell × State)
  | 0, _, s => .ok ([], s)
  | n + 1, va, s =>
    match fetchCell k va s with
    | .error t => .error t
    | .ok (c, _, s1) =>
      match fetchCells k n (va + 8) s1 with
      | .error t => .error t
      | .ok (cs, s2) => .ok (c :: cs, s2)

/-! ### UTSET (R39, R87) -/

/-- UTSET: the three cells are judged by their tags; rd = FIX status. An index outside 0 to 4,095 is not granted. -/
def utsetBody (k : CoreId) (rd ra rb : Gpr) : Body := fun s =>
  let i := (readReg s k.val ra).data
  let va := (readReg s k.val rb).data
  needLevel s k 1 (withOps [opTags s k.val ra tagIsFix, opAddr s k.val rb]
    (match fetchCells k 3 va s with
      | .error t => .error t
      | .ok (cells, s1) =>
        let r := unitSet k.val i.toNat cells s1
        done k rd (cellFix (w64 r.1)) r.2))

def execUtset (k : CoreId) (rd ra rb : Gpr) (s : State) : Host.Outcome State Fault Refusal := runInstr k (utsetBody k rd ra rb) s

end Sys2Proof.Machine
end

