-- ==== Sys2Proof/Machine/Alu.lean ====
section
/-!
DEFINITION. Machine/Alu.lean: the raw and fixnum ALU (R82, R83), bit fields and bit counts (R84), and multiply and
divide into MH:ML (R64, R85) of 04_caraerik_instruction_groups.md.
-/

namespace Sys2Proof.Machine

/-! ### Raw operations (R82) -/

/-- A raw operation: both operands FIX or RAW64, the result tag of R82. -/
def rawOp (k : CoreId) (rd ra rb : Gpr) (f : Word → Word → Word) : Body := fun s =>
  let a := readReg s k.val ra
  let b := readReg s k.val rb
  withOps [opTags s k.val ra tagRaw, opTags s k.val rb tagRaw]
    (done k rd ⟨rawTag a.tag b.tag, f a.data b.data⟩ s)

/-- A raw comparison: TRUE or NIL. -/
def rawCmp (k : CoreId) (rd ra rb : Gpr) (f : Word → Word → Bool) : Body := fun s =>
  withOps [opTags s k.val ra tagRaw, opTags s k.val rb tagRaw]
    (done k rd (cellBool (f (readReg s k.val ra).data (readReg s k.val rb).data)) s)

/-- Shifts take rb[5:0]. -/
def shAmount (b : Word) : Nat := bitsOf b 5 0

def execMov (k : CoreId) (rd ra : Gpr) (s : State) : Host.Outcome State Fault Refusal :=
  runInstr k (fun s => done k rd (readReg s k.val ra) s) s
def execAddr (k : CoreId) (rd ra rb : Gpr) (s : State) : Host.Outcome State Fault Refusal :=
  runInstr k (rawOp k rd ra rb (fun a b => a + b)) s
def execSubr (k : CoreId) (rd ra rb : Gpr) (s : State) : Host.Outcome State Fault Refusal :=
  runInstr k (rawOp k rd ra rb (fun a b => a - b)) s
def execAnd (k : CoreId) (rd ra rb : Gpr) (s : State) : Host.Outcome State Fault Refusal :=
  runInstr k (rawOp k rd ra rb (fun a b => a &&& b)) s
def execOr (k : CoreId) (rd ra rb : Gpr) (s : State) : Host.Outcome State Fault Refusal :=
  runInstr k (rawOp k rd ra rb (fun a b => a ||| b)) s
def execXor (k : CoreId) (rd ra rb : Gpr) (s : State) : Host.Outcome State Fault Refusal :=
  runInstr k (rawOp k rd ra rb (fun a b => a ^^^ b)) s
def execAndn (k : CoreId) (rd ra rb : Gpr) (s : State) : Host.Outcome State Fault Refusal :=
  runInstr k (rawOp k rd ra rb (fun a b => a &&& ~~~b)) s
def execShl (k : CoreId) (rd ra rb : Gpr) (s : State) : Host.Outcome State Fault Refusal :=
  runInstr k (rawOp k rd ra rb (fun a b => a <<< shAmount b)) s
def execShr (k : CoreId) (rd ra rb : Gpr) (s : State) : Host.Outcome State Fault Refusal :=
  runInstr k (rawOp k rd ra rb (fun a b => a >>> shAmount b)) s
def execSar (k : CoreId) (rd ra rb : Gpr) (s : State) : Host.Outcome State Fault Refusal :=
  runInstr k (rawOp k rd ra rb (fun a b => a.sshiftRight (shAmount b))) s
def execRor (k : CoreId) (rd ra rb : Gpr) (s : State) : Host.Outcome State Fault Refusal :=
  runInstr k (rawOp k rd ra rb (fun a b => a.rotateRight (shAmount b))) s
def execCmpeqr (k : CoreId) (rd ra rb : Gpr) (s : State) : Host.Outcome State Fault Refusal :=
  runInstr k (rawCmp k rd ra rb (fun a b => a == b)) s
def execCmplt (k : CoreId) (rd ra rb : Gpr) (s : State) : Host.Outcome State Fault Refusal :=
  runInstr k (rawCmp k rd ra rb (fun a b => a.slt b)) s
def execCmpltu (k : CoreId) (rd ra rb : Gpr) (s : State) : Host.Outcome State Fault Refusal :=
  runInstr k (rawCmp k rd ra rb (fun a b => a.ult b)) s

/-! ### Immediate forms (R83) -/

/-- FIX_OVERFLOW (R107, R108): detail 0 OVERFLOW, 1 DIV_ZERO. -/
def fixOverflow (detail : Nat) : Trap := trapOf vFixOverflow detail

/-- An immediate form over a FIX or RAW64 operand, the tag kept. -/
def rawImm (k : CoreId) (rd ra : Gpr) (imm : BitVec 16) (f : Word → Word → Word) : Body := fun s =>
  let a := readReg s k.val ra
  withOps [opTags s k.val ra tagRaw] (done k rd ⟨rawTag a.tag tagFix, f a.data (sext imm)⟩ s)

def execAddi (k : CoreId) (rd ra : Gpr) (imm : BitVec 16) (s : State) : Host.Outcome State Fault Refusal :=
  runInstr k (fun s =>
    let x := (readReg s k.val ra).data.toInt + imm.toInt
    withOps [opTags s k.val ra tagIsFix]
      (guardTrap (!fitsI64 x) (fixOverflow 0) (done k rd (cellFixI x) s))) s
def execAddiw (k : CoreId) (rd ra : Gpr) (imm : BitVec 16) (s : State) : Host.Outcome State Fault Refusal :=
  runInstr k (rawImm k rd ra imm (fun a i => a + i)) s
def execAndi (k : CoreId) (rd ra : Gpr) (imm : BitVec 16) (s : State) : Host.Outcome State Fault Refusal :=
  runInstr k (rawImm k rd ra imm (fun a i => a &&& i)) s
def execOri (k : CoreId) (rd ra : Gpr) (imm : BitVec 16) (s : State) : Host.Outcome State Fault Refusal :=
  runInstr k (rawImm k rd ra imm (fun a i => a ||| i)) s
def execXori (k : CoreId) (rd ra : Gpr) (imm : BitVec 16) (s : State) : Host.Outcome State Fault Refusal :=
  runInstr k (rawImm k rd ra imm (fun a i => a ^^^ i)) s

/-- The shift an SHI immediate selects by bits [7:6]. -/
def shiKind (kind n : Nat) (a : Word) : Word :=
  if kind = 0 then a <<< n else if kind = 1 then a >>> n else if kind = 2 then a.sshiftRight n else a.rotateRight n

def execShi (k : CoreId) (rd ra : Gpr) (imm : BitVec 16) (s : State) : Host.Outcome State Fault Refusal :=
  runInstr k (fun s =>
    guardTrap (nbits imm.toNat 15 8 != 0) (illegalOp 0)
      (rawImm k rd ra imm (fun a _ => shiKind (nbits imm.toNat 7 6) (nbits imm.toNat 5 0) a) s)) s

def execCmpi (k : CoreId) (rd ra : Gpr) (imm : BitVec 16) (s : State) : Host.Outcome State Fault Refusal :=
  runInstr k (fun s =>
    let a := (readReg s k.val ra).data.toInt
    withOps [opTags s k.val ra tagIsFix]
      (done k rd (cellFixI (if a < imm.toInt then -1 else if a = imm.toInt then 0 else 1)) s)) s
def execMovw (k : CoreId) (rd : Gpr) (imm : BitVec 21) (s : State) : Host.Outcome State Fault Refusal :=
  runInstr k (fun s => done k rd (cellFix (sext imm)) s) s
def execShlw (k : CoreId) (rd : Gpr) (imm : BitVec 21) (s : State) : Host.Outcome State Fault Refusal :=
  runInstr k (fun s =>
    let d := readReg s k.val rd
    withOps [opTags s k.val rd tagRaw]
      (done k rd ⟨d.tag, (d.data <<< 21) ||| imm.zeroExtend 64⟩ s)) s

/-! ### Bit fields and counts (R84) -/

/-- The field of a word at pos, len bits; positions above 63 read as zero. -/
def fieldOf (a b : Word) : Nat := a.toNat / 2 ^ bitsOf b 5 0 % 2 ^ (bitsOf b 13 8 + 1)

/-- A bit-field instruction over the operands `ops`, delivering a cell. -/
def bitOp (k : CoreId) (rd : Gpr) (ops : List Gpr) (v : State → Cell) : Body := fun s =>
  withOps (ops.map (fun r => opTags s k.val r tagRaw)) (done k rd (v s) s)

def execBfx (k : CoreId) (rd ra rb : Gpr) (s : State) : Host.Outcome State Fault Refusal :=
  runInstr k (bitOp k rd [ra, rb] (fun s =>
    let b := (readReg s k.val rb).data
    cellFixI (signedOf (bitsOf b 13 8 + 1) (fieldOf (readReg s k.val ra).data b)))) s
def execBfxu (k : CoreId) (rd ra rb : Gpr) (s : State) : Host.Outcome State Fault Refusal :=
  runInstr k (bitOp k rd [ra, rb] (fun s =>
    cellFix (w64 (fieldOf (readReg s k.val ra).data (readReg s k.val rb).data)))) s
def execBfi (k : CoreId) (rd ra rb : Gpr) (s : State) : Host.Outcome State Fault Refusal :=
  runInstr k (bitOp k rd [rd, ra, rb] (fun s =>
    let d := readReg s k.val rd
    let b := (readReg s k.val rb).data
    let pos := bitsOf b 5 0
    let hi := min 63 (pos + bitsOf b 13 8)
    ⟨d.tag, putBits d.data hi pos (readReg s k.val ra).data.toNat⟩)) s

/-- Leading and trailing zeros of a word, 64 for zero. -/
def clz64 (w : Word) : Nat := if w.toNat = 0 then 64 else 63 - Nat.log2 w.toNat
def ctz64 (w : Word) : Nat := ((List.range 64).find? (fun i => bitOf w i)).getD 64

def execClz (k : CoreId) (rd ra : Gpr) (s : State) : Host.Outcome State Fault Refusal :=
  runInstr k (bitOp k rd [ra] (fun s => cellFix (w64 (clz64 (readReg s k.val ra).data)))) s
def execCtz (k : CoreId) (rd ra : Gpr) (s : State) : Host.Outcome State Fault Refusal :=
  runInstr k (bitOp k rd [ra] (fun s => cellFix (w64 (ctz64 (readReg s k.val ra).data)))) s
def execPopc (k : CoreId) (rd ra : Gpr) (s : State) : Host.Outcome State Fault Refusal :=
  runInstr k (bitOp k rd [ra] (fun s => cellFix (w64 (popcount 64 (readReg s k.val ra).data.toNat)))) s

/-- Byte i of the result is byte rb[4i+2:4i] of ra, or 0 when rb[4i+3] = 1. -/
def bytePerm (a b : Word) : Word :=
  w64 ((List.range 8).foldl (fun acc i =>
    let n := bitsOf b (4 * i + 3) (4 * i)
    acc + (if 8 ≤ n then 0 else bytesOf a n 1) * 2 ^ (8 * i)) 0)

def execBperm (k : CoreId) (rd ra rb : Gpr) (s : State) : Host.Outcome State Fault Refusal :=
  runInstr k (bitOp k rd [ra, rb] (fun s =>
    let a := readReg s k.val ra
    ⟨a.tag, bytePerm a.data (readReg s k.val rb).data⟩)) s

/-! ### Multiply and divide into MH:ML (R64, R85) -/

/-- A product for MH:ML: written at once, or queued under CMODE.MULX = 1 (R64). -/
def mulWrite (mh ml : Word) (x : Ctx) : Ctx :=
  if bitOf x.cmode 1 then { x with mulq := x.mulq ++ [(mh, ml)] } else { x with mh := mh, ml := ml }

/-- A multiply: rd must be 0; the 128-bit product. -/
def mulOp (k : CoreId) (rd ra rb : Gpr) (f : Word → Word → Int) : Body := fun s =>
  guardTrap (rd.val != 0) (illegalOp 0)
    (withOps [opTags s k.val ra tagRaw, opTags s k.val rb tagRaw]
      (let p := f (readReg s k.val ra).data (readReg s k.val rb).data
       .ok (modFront k.val (mulWrite (wordOfInt (p / 2 ^ 64)) (wordOfInt p)) s, .seq)))

/-- A divide: pending MH:ML writes complete first; a zero divisor and an overflow raise FIX_OVERFLOW. -/
def divOp (k : CoreId) (rd ra rb : Gpr) (signed : Bool) : Body := fun s =>
  let a := (readReg s k.val ra).data
  let b := (readReg s k.val rb).data
  guardTrap (rd.val != 0) (illegalOp 0)
    (withOps [opTags s k.val ra tagRaw, opTags s k.val rb tagRaw]
      (guardTrap (b == 0) (fixOverflow 1)
        (guardTrap (signed && a == 0x8000000000000000 && b == 0xFFFFFFFFFFFFFFFF) (fixOverflow 0)
          (let q : Word := if signed then wordOfInt (a.toInt.tdiv b.toInt) else w64 (a.toNat / b.toNat)
           let r : Word := if signed then wordOfInt (a.toInt.tmod b.toInt) else w64 (a.toNat % b.toNat)
           .ok (modFront k.val (fun x => { flushMul x with mh := r, ml := q }) s, .seq)))))

def execMuls (k : CoreId) (rd ra rb : Gpr) (s : State) : Host.Outcome State Fault Refusal :=
  runInstr k (mulOp k rd ra rb (fun a b => a.toInt * b.toInt)) s
def execMulu (k : CoreId) (rd ra rb : Gpr) (s : State) : Host.Outcome State Fault Refusal :=
  runInstr k (mulOp k rd ra rb (fun a b => ((a.toNat * b.toNat : Nat) : Int))) s
def execDivs (k : CoreId) (rd ra rb : Gpr) (s : State) : Host.Outcome State Fault Refusal :=
  runInstr k (divOp k rd ra rb true) s
def execDivu (k : CoreId) (rd ra rb : Gpr) (s : State) : Host.Outcome State Fault Refusal :=
  runInstr k (divOp k rd ra rb false) s

/-- MH_ML_PRODUCT_WRITE (R64): the oldest pending product is written. -/
def execMhMlProductWrite (k : CoreId) (s : State) : Host.Outcome State Fault Refusal :=
  .next (modFront k.val (fun x =>
    match x.mulq with
    | [] => x
    | (h, l) :: rest => { x with mh := h, ml := l, mulq := rest }) s)

end Sys2Proof.Machine
end

