-- ==== Sys2Proof/Machine/Queue.lean ====
section
/-!
DEFINITION. Machine/Queue.lean: SEND and RECV (R101, R142 to R145), and POST with the device queues it names (R103).
-/

namespace Sys2Proof.Machine

/-! ### The device queues (R103) -/

/-- The cells of a queue's descriptor; none where a number names no queue. -/
def queueCells (q : Nat) : Option Nat :=
  if q < 0x08 then some 1
  else if q = 0x10 then some 4
  else if q = 0x18 then some 3
  else if 0x20 ≤ q && q < 0x28 then some 8
  else if 0x30 ≤ q && q < 0x40 then some 8
  else if q = 0x40 then some 8
  else if q = 0x48 then some 4
  else if q = 0x50 then some 3
  else if q = 0x51 then some 6
  else if q = 0x58 then some 4
  else none

/-- The queues of the poster's own function: cores alone post to them (R103, R345). -/
def postOwn (who : Agent) (q : Nat) (desc : List Cell) (s : State) : Nat × State :=
  match who with
  | .host _ => (5, s)
  | .core k => if q = 0x50 then postFirm k.val desc s else postRecord k.val desc s

/-- A post to a queue, by a core or for a host command: its status. -/
def postQueue (who : Agent) (q : Nat) (desc : List Cell) (host : Option (Nat × Nat × Nat)) (s : State) : Nat × State :=
  if q < 0x08 then postControl who q desc s
  else if q = 0x10 then postAlarm who desc s
  else if q = 0x18 then postLaundry who desc s
  else if 0x20 ≤ q && q < 0x28 then postRsmp who (q - 0x20) desc s
  else if 0x30 ≤ q && q < 0x40 then postSpec who (q - 0x30) desc s
  else if q = 0x40 then postDrive who desc host s
  else if q = 0x48 then postConfig who desc s
  else if q = 0x50 || q = 0x51 then postOwn who q desc s
  else if q = 0x58 then postService who desc s
  else (5, s)

/-- POST: operands, queue number, descriptor, then the queue's own checks (R103). -/
def postBody (k : CoreId) (rd ra rb : Gpr) : Body := fun s =>
  let q := (readReg s k.val ra).data.toNat
  withOps [opTags s k.val ra tagIsFix, opAddr s k.val rb]
    (match queueCells q with
      | none => done k rd (cellFix 5) s
      | some n =>
        match fetchCells k n (readReg s k.val rb).data s with
        | .error t => .error t
        | .ok (desc, s1) =>
          let r := postQueue (.core k) q desc none s1
          done k rd (cellFix (w64 r.1)) r.2)

def execPost (k : CoreId) (rd ra rb : Gpr) (s : State) : Host.Outcome State Fault Refusal := runInstr k (postBody k rd ra rb) s

/-! ### SEND (R142 to R145) -/

/-- The task or core that code on a core speaks for: its task at level T, else the core (R142). -/
def speaker (s : State) (k : CoreId) : Option (Bool × Nat) :=
  let x := front s k.val
  if plOf x = 0 then (ctxTask x).map (fun t => (false, t.2)) else some (true, k.val)

/-- A cell as SEND and RECV move it: the load barrier, then the register action (R220, R224). -/
def moveCell (k : CoreId) (slot : Option Nat) (va : Word) (c : Cell) (s : State) : Except Trap (Cell × State) :=
  match partOf s k.val with
  | none => .ok (c, s)
  | some p =>
    match loadBarrier k.val slot va c s with
    | .error t => .error t
    | .ok (c1, s1) =>
      match unitAction (some k.val) p c1 s1 with
      | .error f => .error (xTrap f .load (w64 f.ipa))
      | .ok r => .ok r

/-- `n` message cells from an address. -/
def sendCells (k : CoreId) : Nat → Word → State → Except Trap (List Cell × State)
  | 0, _, s => .ok ([], s)
  | n + 1, va, s =>
    match fetchCell k va s with
    | .error t => .error t
    | .ok (c, x, s1) =>
      match moveCell k (some x.pa) va c s1 with
      | .error t => .error t
      | .ok (c1, s2) =>
        match sendCells k n (va + 8) s2 with
        | .error t => .error t
        | .ok (cs, s3) => .ok (c1 :: cs, s3)

/-- The header of a delivered message (R143). -/
def msgHeader (k : CoreId) (from' : Bool × Nat) (epoch : Nat) : Cell :=
  cellRaw (w64 (from'.1.toNat + k.val / 8 * 4 + (if from'.1 then from'.2 % 8 else from'.2) * 32 + epoch * 2 ^ 32))

/-- A message enters the mailboxes; a stale one bounces (R144, R145). -/
def deliverMsg (m : Msg) (s : State) : State :=
  if msgStale s m then bounceMsg m s
  else
    let was := (queueOf s m.part m.target false).isEmpty
    mailArrived m.part m.target was { s with mail := s.mail ++ [m] }

/-- The outcome of a SEND whose cells have been read. -/
def sendTo (k : CoreId) (target : Word) (cells : List Cell) (s : State) : Nat × State :=
  let kind := bitsOf target 1 0
  let index := bitsOf target 14 5
  let epoch := bitsOf target 63 32
  let goal : Bool × Nat := if kind = 1 then (true, 8 * bitsOf target 4 2 + index % 8) else (false, index)
  match partOf s k.val, speaker s k with
  | some p, some from' =>
    if 1 < kind || bitsOf target 31 15 != 0 || (kind = 1 && 8 ≤ index) then (5, s)
    else if kind = 1 && partOf s goal.2 != some p then (2, s)
    else if !slotFree s (k.val / 8) p then (1, s)
    else (0, deliverMsg ⟨k.val / 8, p, goal, from', epochOf s p from', false, msgHeader k from' epoch :: cells⟩ s)
  | _, _ => (2, s)

/-- SEND: cells 1 to 3 of the buffer at rb, whole, to the target word ra. -/
def sendBody (k : CoreId) (rd ra rb : Gpr) : Body := fun s =>
  let target := (readReg s k.val ra).data
  let va := (readReg s k.val rb).data
  withOps [opTags s k.val ra tagRaw, opAddr s k.val rb]
    (if va.toNat % 8 ≠ 0 then .error (misaligned va)
    else
      match sendCells k 3 (va + 8) s with
      | .error t => .error t
      | .ok (cells, s1) =>
        let r := sendTo k target cells s1
        done k rd (cellFix (w64 r.1)) r.2)

def execSend (k : CoreId) (rd ra rb : Gpr) (s : State) : Host.Outcome State Fault Refusal := runInstr k (sendBody k rd ra rb) s

/-! ### RECV (R144) -/

/-- The oldest message for the code on a core: bounces before messages. -/
def nextMsg (s : State) (k : CoreId) : Option Msg :=
  match partOf s k.val, speaker s k with
  | some p, some who => (match queueOf s p who true with
    | m :: _ => some m
    | [] => (queueOf s p who false).head?)
  | _, _ => none

/-- The cells of a message go to the buffer, through both barriers. -/
def recvCells (k : CoreId) : Word → List Cell → State → Except Trap State
  | _, [], s => .ok s
  | va, c :: cs, s =>
    match moveCell k none va c s with
    | .error t => .error t
    | .ok (c1, s1) =>
      match storeCell k (trapAt vTagCheck 1 va c1.tag) va c1 s1 with
      | .error t => .error t
      | .ok s2 => recvCells k (va + 8) cs s2

/-- RECV: the four cells at rb take the oldest message, whose slot becomes free. -/
def recvBody (k : CoreId) (rd rb : Gpr) : Body := fun s =>
  let va := (readReg s k.val rb).data
  withOps [opAddr s k.val rb]
    (if va.toNat % 8 ≠ 0 then .error (misaligned va)
    else
      match nextMsg s k with
      | none => done k rd (cellFix 6) s
      | some m =>
        match recvCells k va m.cells s with
        | .error t => .error t
        | .ok s1 => done k rd (cellFix 0) { s1 with mail := s1.mail.erase m })

/-- RECV. Where it has changed registers, the clocks are judged (R412). -/
def execRecv (k : CoreId) (rd rb : Gpr) (s : State) : Host.Outcome State Fault Refusal :=
  match runInstr k (recvBody k rd rb) s with
  | .next t => storeOutcome (t.regs != s.regs) (.next t)
  | o => o

end Sys2Proof.Machine
end

