-- ==== Sys2Proof/Machine/HostPost.lean ====
section
/-!
DEFINITION. Machine/HostPost.lean: the fetch, the checks and the acceptance of a command descriptor (R343 to R345, R350, R351,
R355, R360, R371), and the effect of a POST (R345).
-/

namespace Sys2Proof.Machine

/-! ### Descriptors (R343, R350) -/

/-- The eight words of a descriptor in the form of version 2: a version-1 descriptor carries OP, COOKIE and W2 to W4. -/
def normWords (ver : Nat) (w : List Word) : List Word :=
  let g (i : Nat) : Word := w.getD i 0
  if ver = 1 then [w64 (bitsOf (g 0) 7 0), w64 (bitsOf (g 0) 63 32), g 1, g 2, g 3, 0, 0, 0]
  else (List.range 8).map g

/-- A fetched descriptor as a command that has not been accepted. -/
def cmdOf (s : State) (f ring : Nat) (words : List Word) : HostCmd :=
  let w := normWords (fnVer s f) words
  let g (i : Nat) : Word := w.getD i 0
  { fn := f, ring := ring, seq := ringSeq s f ring, op := bitsOf (g 0) 7 0, cls := bitsOf (g 0) 9 8, tagged := bitOf (g 0) 10,
    cookie := g 1, words := w, stage := 0, status := 0, detail := 0, res0 := 0, res1 := 0, taker := none }

def knownOps : List Nat := [opNop, opFence, opIdentify, opWrite, opRead, opPost, opBind, opExport, opFw]

/-- Opcodes of versions 2 and 3 alone (R344). -/
def lateOp (op : Nat) : Bool := op == opIdentify || op == opBind || op == opExport || op == opFw

/-- Fields of a POST. -/
def postNo (c : HostCmd) : Nat := bitsOf (cmdWord c 2) 7 0
def postCount (c : HostCmd) : Nat := bitsOf (cmdWord c 2) 10 8 + 1
def postSrc (c : HostCmd) : Bool := bitOf (cmdWord c 2) 11
def postTag (c : HostCmd) (i : Nat) : Tag := BitVec.ofNat 8 (bitsOf (cmdWord c 2) (16 + 8 * i + 7) (16 + 8 * i))

/-- Classes NUM, IMM, MEAS and RAW. -/
def hostTag (t : Tag) : Bool := tagClass t == 0 || tagClass t == 1 || tagClass t == 3 || tagClass t == 6

/-- The first word that makes a descriptor malformed. -/
def badWord (s : State) (c : HostCmd) : Option Nat :=
  let w3 := cmdWord c 3
  let len := bitsOf (cmdWord c 4) 39 0
  if !knownOps.contains c.op || bitsOf (cmdWord c 0) 63 11 != 0 || c.cls = 1 || c.cls = 3 then some 0
  else if c.op = opWrite || c.op = opRead then
    (if c.tagged && w3.toNat % 64 != 0 then some 3
     else if len = 0 || 2 ^ 30 < len || (c.tagged && len % 72 != 0) then some 4 else none)
  else if c.op = opPost then
    (if postNo c = 0x50 || postNo c = 0x51 then some 2
     else if postSrc c then (if w3.toNat % 8 = 0 then none else some 3)
     else if fnVer s c.fn = 1 || 4 < postCount c || !(List.range (postCount c)).all (fun i => hostTag (postTag c i)) then some 2
     else none)
  else if c.op = opBind then
    (if c.fn = 8 || (w3 != nilWord && (bitsOf w3 1 0 != 0 || bitsOf w3 31 15 != 0)) then some 3 else none)
  else if c.op = opExport then
    (if 16384 < exFirst c + exCount c then some 2
     else if !(chanRange (exFirst c) (exCount c)).all (fun i => chanRdiv s i == chanRdiv s (exFirst c)) then some 2
     else none)
  else none

/-! ### POST (R345) -/

/-- The cells of a POST, or the syndrome of its FAULT. -/
def postCells (s : State) (c : HostCmd) : Except Nat (List Cell) :=
  if postSrc c then
    (List.range (postCount c)).foldl (fun (acc : Except Nat (List Cell)) i =>
      match acc with
      | .error e => .error e
      | .ok cs => match hostPa s c.fn .load ((cmdWord c 3).toNat + 8 * i) with
        | .error e => .error e
        | .ok pa => .ok (cs ++ [physRead s pa])) (.ok [])
  else .ok ((List.range (postCount c)).map (fun i => ⟨postTag c i, cmdWord c (4 + i)⟩))

/-- What reading the cells of a POST does to the caches. -/
def seenPost (c : HostCmd) (s : State) : State :=
  if postSrc c then
    (List.range (postCount c)).foldl (fun t i => match hostPa s c.fn .load ((cmdWord c 3).toNat + 8 * i) with
      | .error _ => t
      | .ok pa => agentRead (pa / 64) t) s
  else s

/-- The agent a function acts as. -/
def fnAgent (f : Nat) : Agent := .host ⟨f % 9, Nat.mod_lt _ (by decide)⟩

/-- The post a POST makes. -/
def hostPostAt (s : State) (c : HostCmd) (cells : List Cell) : Nat × State :=
  postQueue (fnAgent c.fn) (postNo c) cells (if postNo c = 0x40 then some (c.fn, c.ring, c.seq) else none) s

/-- DETAIL of a POST that its queue refuses in the present state (R355). The spec gives no state code for the other queues: a
free value. -/
def postDetail (s : State) (c : HostCmd) (cells : List Cell) : Nat :=
  let q := postNo c
  let w := (cells.getD 0 cellVoid).data
  let p := c.fn
  if q < 0x08 then 0x3000 + stOf s p (bitsOf w 13 4)
  else if q = 0x10 then 0xA000
  else if q = 0x18 then 0x6000 + phaseOfPart s p
  else if 0x20 ≤ q && q < 0x40 then
    let u := if q < 0x30 then q - 0x20 else 8 + (q - 0x30)
    let slot := if q < 0x30 then bitsOf w 5 4 else (specOf cells).slot
    0x5000 + (findJob s u slot).isSome.toNat + (!engPowered s u).toNat * 2
  else if q = 0x40 then 0x4000 + drvState s (bitsOf w 9 4)
  else Config.freeNat s.draw % 65536

/-- HOST_POST: the cells go to the queue with the function's rights; a drive FRAME that was queued ends when it applies. The
word a queue finds malformed is not told: DETAIL is free. -/
def hostPost (c : HostCmd) (s : State) : State :=
  match postCells s c with
  | .error e => cmdEnds c 8 e 0 0 s
  | .ok cells =>
    let r := hostPostAt (cmdRuns c (seenPost c s)) c cells
    let d := drawNat r.2
    if r.1 = 0 && postNo c = 0x40 && bitsOf (cells.getD 0 cellVoid).data 3 0 = 1 then r.2
    else if r.1 = 3 then cmdEnds c 3 (postDetail s c cells) 0 0 d.2
    else if r.1 = 4 then cmdEnds c 4 r.2.postCode 0 0 r.2
    else if r.1 = 5 then cmdEnds c 5 (d.1 % 65536) 0 0 d.2
    else cmdEnds c r.1 0 0 0 r.2

def execHostPost (f : Fin 9) (ring : Fin 8) (s : State) : Host.Outcome State Fault Refusal :=
  .next (actOn f.val ring.val opPost hostPost s)

/-! ### Checks (R355, R371) -/

/-- STATE_REFUSED: the state code. -/
def stateCode (s : State) (c : HostCmd) : Option Nat :=
  let ps := partState s c.fn
  let strict := c.op == opPost || c.op == opBind || c.op == opExport || c.op == opFw
  let free := c.op == opNop || c.op == opFence || c.op == opIdentify
  let ex := chanRange (exFirst c) (exCount c)
  let link := fget s fldSFL_CHT_A_LINK (exFirst c)
  if decide (c.fn < 8) && !free && (ps = ptFree || ps = ptResetting || (strict && ps = ptConfig)) then some (0x2000 + ps)
  else if c.op = opBind then
    (let t := bitsOf (cmdWord c 3) 14 5
     if cmdWord c 3 != nilWord && stOf s c.fn t == stFree then some (0x3000 + stFree) else none)
  else if c.op = opPost then
    (match postCells s c with
      | .error _ => none
      | .ok cells => if (hostPostAt s c cells).1 = 3 then some (postDetail s c cells) else none)
  else if c.op = opExport && !bitOf (cmdWord c 2) 22 then
    (let off := ex.any (fun i => !fbit s fldSFL_CHT_A_V i)
     let dup := ex.any (fun i => s.exports.any (fun e => decide (e.first ≤ i) && decide (i < e.first + e.count)))
     if off || dup then some (0x9000 + (!off).toNat + dup.toNat * 2)
     else if !linkUp s link then some (0x7000 + laneState s ((linkLanes s link).head?.getD link)) else none)
  else none

/-- Every entry of an EXPORT is the function's. -/
def exportOwned (s : State) (c : HostCmd) : Bool :=
  (chanRange (exFirst c) (exCount c)).all (fun i => chanPart s i == hostPart c.fn)

/-- CONTROL descriptors of a ring accepted in the last 100 µs. -/
def recentControl (s : State) (f ring : Nat) : List (Nat × Nat) :=
  (getFn s f).control.filter (fun q => q.1 == ring && decide (s.dtime < q.2 + 2 ^ 64 / 10000))

/-- Admission of a descriptor of class CONTROL: its refusal code. -/
def controlCode (s : State) (c : HostCmd) : Option Nat :=
  if c.cls != 2 then none
  else if c.op = opExport then
    (if bitOf (cmdWord c 2) 22 then none
     else admitExport s c.fn (16 + bitsOf (cmdWord c 2) 21 20) (exFirst c) (exCount c) (bitsOf (cmdWord c 3) 15 0 + 1))
  else admitHost s c.fn c.ring (recentControl s c.fn c.ring).length

/-- The checks of step 3: the status and DETAIL of a refusal. -/
def refusalOf (s : State) (c : HostCmd) : Option (Nat × Nat) :=
  if fnVer s c.fn = 1 && lateOp c.op then some (13, 0)
  else
    match badWord s c with
    | some i => some (5, i)
    | none =>
      if c.op = opExport && !exportOwned s c then some (2, 0)
      else
        match stateCode s c with
        | some d => some (3, d)
        | none => (controlCode s c).map (fun d => (4, d))

/-! ### Acceptance (R351, R360) -/

/-- The conditions under which the next descriptor of a ring is accepted, but for the journal's room. A reset that waits for its
warm trigger stops acceptance (R362). -/
def mayAccept (s : State) (f r : Nat) : Bool :=
  fnState s f == fnRunning && !fbit s fldGLB_RESET_PENDING 0 && ringOn s f r &&
  decide (0 < seqDiff (doorbell s f r) (ringSeq s f r)) &&
  decide (seqDiff (ringSeq s f r) (doorbell s f (8 + r)) < (ringSize s f (8 + r) : Int))

/-- Room for both records of a command. -/
def journalRoom (s : State) (f : Nat) : Bool := decide (journalUsed s f + 2 ≤ 2 ^ atticLog s f)

/-- The ACCEPT record (KIND 1). -/
def journalAccept (c : HostCmd) (s : State) : State :=
  writeJournal c.fn [w64 (1 + c.ring * 16 + c.seq * 2 ^ 16), 0, w64 c.op,
    w64 (crcOf c.words % 2 ^ 32 + bitsOf c.cookie 31 0 * 2 ^ 32)] s

/-- A descriptor takes its sequence number: accepted, or refused with one DONE record. -/
def takeDescriptor (c : HostCmd) (s : State) : State :=
  let s1 := ringAdvance c.fn c.ring (drawNat s).2
  match refusalOf s c with
  | some (st, d) =>
    let r : HostCmd := { c with
      stage := 4
      status := st
      detail := d }
    journalDone r { s1 with cmds := s1.cmds ++ [r] }
  | none =>
    let s2 := if c.cls = 2 then modFn c.fn (fun x => { x with
        control := x.control.filter (fun q => decide (s.dtime < q.2 + 2 ^ 64 / 10000)) ++ [(c.ring, s.dtime)] }) s1
      else s1
    let acc : HostCmd := { c with stage := if fnVer s c.fn = 3 then 0 else 1 }
    journalAccept c { s2 with cmds := s2.cmds ++ [acc] }

/-- DESCRIPTOR_FETCH: the next descriptor of a ring; without room in the journal acceptance stops (JFULL). -/
def fetchDescriptor (f r : Nat) (words : List Word) (s : State) : State :=
  if !mayAccept s f r then s
  else if fnVer s f = 3 && !journalRoom s f then
    (if fbit s fldHIF_FN_STAT_JFULL f then s else raiseKeeper 0x23 (fset fldHIF_FN_STAT_JFULL f 1 s))
  else takeDescriptor (cmdOf s f r words) (fset fldHIF_FN_STAT_JFULL f 0 s)

def execDescriptorFetch (f : Fin 9) (ring : Fin 8) (words : List Word) (s : State) : Host.Outcome State Fault Refusal :=
  .next (fetchDescriptor f.val ring.val words s)

end Sys2Proof.Machine
end

