-- ==== Sys2Proof/Machine/Long.lean ====
section
/-!
DEFINITION. Machine/Long.lean: the long instructions LWALK, MEMQ, ASSQ and BCOPY (R94), their progress latch (R95) and the
CONT record (R96). One command runs its steps until it ends, faults, or meets an event or a switch.
-/

namespace Sys2Proof.Machine

/-- What a step leads to: the end, a fault with the steps completed, or the next step, with the steps completed and the
address the cursor was read from. -/
inductive LongStep where
  | done (s : State)
  | fault (t : Trap) (n : Nat) (s : State)
  | more (n : Nat) (slot : Word) (s : State)

/-- A step, from the steps completed and the address the cursor was read from: none when it is not known. -/
abbrev Stepper := Nat → Option Word → State → LongStep

/-- The CONT record (R96). DONE has 32 bits: what it holds of a longer copy is free. -/
def contCell (fn : Nat) (down : Bool) (n : Nat) (s : State) : Cell × State :=
  if n < 2 ^ 32 then (⟨tagCont, w64 (n + fn * 2 ^ 32 + down.toNat * 2 ^ 43)⟩, s)
  else
    let d := drawNat s
    (⟨tagCont, w64 (d.1 % 2 ^ 32 + fn * 2 ^ 32 + down.toNat * 2 ^ 43)⟩, d.2)

/-- What an interrupted instruction leaves behind: its record, from the steps completed and the cursor's address. -/
abbrev Recorder := Nat → Option Word → State → Cell × State

/-- The dispatcher owes a switch away from core `k`'s task (R130, R134), and R126 permits it. -/
def owesSwitch (s : State) (k : Nat) : Bool :=
  (runningTask s k).isSome && switchOk s k &&
  ((getCore s k).ctl.isSome || (owedPreemptions s (k / 8)).any (fun e => e.1 == k))

/-- The steps of a long instruction; an enabled event is taken at a step boundary (R95). Where a switch is owed the instruction
stops there with its record in the latch, which the drain puts in PROG (R139); DISPATCH_SWITCH makes the switch. -/
def longLoop (k : Nat) (cont : Recorder) (step : Stepper) : Nat → Nat → Option Word → State → State
  | 0, _, _, s => finish k .seq s
  | fuel + 1, n, slot, s =>
    match step n slot s with
    | .done t => finish k .seq t
    | .fault tr m t =>
      let c := cont m slot t
      takeTrapWith k tr c.1 c.2
    | .more m a t =>
      match eventChoice t k with
      | some e =>
        let c := cont m (some a) t
        takeEvent k e c.1 c.2
      | none =>
        if owesSwitch t k then
          let c := cont m (some a) t
          modFront k (fun x => { x with latch := c.1, fresh := true, ran := true }) c.2
        else longLoop k cont step fuel m (some a) t

/-- The record of an interrupted instruction that started at `n0` steps: `first` is the latch where it was the first
instruction after a return, and stays unchanged until a step is completed (R95). -/
def contFor (fn : Nat) (down : Bool) (first : Option Cell) (n0 n : Nat) (s : State) : Cell × State :=
  match first with
  | some l => if n = n0 then (l, s) else contCell fn down n s
  | none => contCell fn down n s

/-- The latch, at the first instruction after it was loaded. -/
def firstLatch (s : State) (k : CoreId) : Option Cell :=
  let x := front s k.val
  if x.fresh then some x.latch else none

/-! ### Where a cursor was read from (R94) -/

/-- The key of a cursor: whose registers it lies in, and its cell of them. -/
def cursorKey (s : State) (k : CoreId) (rd : Gpr) : Nat :=
  let x := front s k.val
  (match ctxTask x with
    | some (p, t) => 1024 * p + t
    | none => 8192 + k.val) * 1024 + regLoc x rd.val

/-- The address of an interrupted cursor is kept, or that it has none. -/
def keepCursor (k : CoreId) (rd : Gpr) (slot : Option Word) (s : State) : State :=
  let key := cursorKey s k rd
  { s with cursors := match slot with
      | some a => recPut key (readReg s k.val rd, a) s.cursors
      | none => s.cursors.filter (fun e => e.1 != key) }

/-- The address a resumed cursor was read from, where it is the cell that was interrupted. -/
def cursorSlot (s : State) (k : CoreId) (rd : Gpr) : Option Word :=
  match s.cursors.find? (fun e => e.1 == cursorKey s k rd) with
  | some e => if e.2.1 = readReg s k.val rd then some e.2.2 else none
  | none => none

/-- The latch, when it holds a record of function `fn` (R95). -/
def resumeOf (s : State) (k : CoreId) (fn : Nat) : Option Cell :=
  let l := (front s k.val).latch
  if l.tag = tagCont && bitsOf l.data 42 32 == fn then some l else none

/-- The latch is taken, and the shadow of an earlier load ends: the operands have been read. -/
def longBegin (k : CoreId) (s : State) : State := modFront k.val (fun x => { x with latch := cellVoid, shadow := none }) s

/-- A long instruction: its checks at issue, then its run. -/
def runLong (k : CoreId) (start : State → Except Trap (State → State)) (s : State) : Host.Outcome State Fault Refusal :=
  if canRun s k.val then
    match preScan k.val s with
    | .error f => .next (takeTrap k.val (xTrap f .load (w64 f.ipa)) s)
    | .ok s1 =>
      match start s1 with
      | .error t => .next (takeTrap k.val t s1)
      | .ok run => .next (run (longBegin k s1))
  else .next s

/-! ### Lists -/

/-- What is wrong with a cell examined as a list cell or an element (R94; R26 for a reserved tag): vector and detail. -/
def listBad (c : Cell) : Option (Nat × Nat) :=
  if c.tag = tagVoid then some (vVoidUse, 0)
  else if c.tag = tagPoison then some (vPoisonUse, 0)
  else if c.tag = tagNil then none
  else if c.tag = tagCons then (if ptrOk c.data then none else some (vTagCheck, 2))
  else some (vTagCheck, if isReservedTag c.tag then 3 else 1)

/-- The list operand, at the first step of a fresh start. -/
def opList (s : State) (k : Nat) (r : Gpr) : Opnd :=
  let c := readReg s k r
  ⟨r.val, c, (listBad c).map (·.2)⟩

/-- Examines the cursor in rd: the end of the list, the trap of what it holds, or its pair. Where software has replaced a
cursor while its instruction was interrupted, the address is free. -/
def examine (k : CoreId) (rd : Gpr) (n : Nat) (slot : Option Word) (s : State) (go : Word → State → LongStep) : LongStep :=
  let c := readReg s k.val rd
  match listBad c with
  | some (v, d) =>
    match slot with
    | some a => .fault (trapAt v d a c.tag) n s
    | none =>
      let w := drawWord s
      .fault (trapAt v d w.1 c.tag) n w.2
  | none =>
    if c.tag = tagNil then .done s
    else if n = 2 ^ 32 - 1 then .fault (trapOn vTagCheck 6 rd.val c.tag) n s
    else go c.data s

/-- The cursor moves to the cdr of the pair at `a`. -/
def toCdr (k : CoreId) (rd : Gpr) (n : Nat) (a : Word) (s : State) : LongStep :=
  match loadCell k (a + 8) s with
  | .error t => .fault t n s
  | .ok (c, s1) => .more (n + 1) (a + 8) (writeReg k.val rd c s1)

/-- A car that is used: its cell, or the trap of R27 or R26. -/
def useCar (k : CoreId) (a : Word) (s : State) : Except Trap (Cell × State) :=
  match loadCell k a s with
  | .error t => .error t
  | .ok (c, s1) =>
    if c.tag = tagVoid then .error (trapAt vVoidUse 0 a c.tag)
    else if c.tag = tagPoison then .error (trapAt vPoisonUse 0 a c.tag)
    else if isReservedTag c.tag then .error (trapAt vTagCheck 3 a c.tag)
    else .ok (c, s1)

def lwalkStep (k : CoreId) (rd : Gpr) (count : Nat) : Stepper := fun n slot s =>
  if count ≤ n then .done s else examine k rd n slot s (fun a t => toCdr k rd n a t)

def memqStep (k : CoreId) (rd : Gpr) (key : Cell) : Stepper := fun n slot s =>
  examine k rd n slot s (fun a t =>
    match useCar k a t with
    | .error e => .fault e n t
    | .ok (c, t1) => if c = key then .done t1 else toCdr k rd n a t1)

def assqStep (k : CoreId) (rd : Gpr) (key : Cell) : Stepper := fun n slot s =>
  examine k rd n slot s (fun a t =>
    match loadCell k a t with
    | .error e => .fault e n t
    | .ok (el, t1) =>
      match listBad el with
      | some (v, d) => .fault (trapAt v d a el.tag) n t1
      | none =>
        if el.tag = tagNil then toCdr k rd n a t1
        else
          match useCar k el.data t1 with
          | .error e => .fault e n t1
          | .ok (c, t2) => if c = key then .done (writeReg k.val rd el t2) else toCdr k rd n a t2)

/-- The run of a list instruction: resumed at its record, or fresh with rd at the list operand. -/
def listRun (k : CoreId) (fn : Nat) (rd rl : Gpr) (fuel : Nat) (step : Stepper) (s0 : State) : State → State := fun s =>
  let record (n0 : Nat) : Recorder := fun n slot t => contFor fn false (firstLatch s0 k) n0 n (keepCursor k rd slot t)
  match resumeOf s0 k fn with
  | some l => longLoop k.val (record (bitsOf l.data 31 0)) step fuel (bitsOf l.data 31 0) (cursorSlot s0 k rd) s
  | none => longLoop k.val (record 0) step fuel 0 none (writeReg k.val rd (readReg s0 k.val rl) s)

/-- Checks of operands at issue, before a run. -/
def startOps (ops : List Opnd) (next : Except Trap (State → State)) : Except Trap (State → State) :=
  match checkOps ops with
  | .error t => .error t
  | .ok _ => next
def startGuard (bad : Bool) (t : Trap) (next : Except Trap (State → State)) : Except Trap (State → State) :=
  if bad then .error t else next

/-- LWALK: the count first; the list operand is examined where a first step is due. -/
def lwalkStart (k : CoreId) (rd ra rb : Gpr) (s : State) : Except Trap (State → State) :=
  let n := (readReg s k.val rb).data
  startGuard (rd == rb) (illegalOp 0) (startOps [opTags s k.val rb tagIsFix] (startGuard (n.toInt < 0) (outOfBounds s k rb)
    (startOps (if (resumeOf s k 0x20).isSome || n.toNat = 0 then [] else [opList s k.val ra])
      (.ok (listRun k 0x20 rd ra (n.toNat + 1) (lwalkStep k rd n.toNat) s)))))

def execLwalk (k : CoreId) (rd ra rb : Gpr) (s : State) : Host.Outcome State Fault Refusal :=
  runLong k (lwalkStart k rd ra rb) s

/-- MEMQ and ASSQ: the key first, then the list operand of a fresh start. -/
def findStart (k : CoreId) (fn : Nat) (step : CoreId → Gpr → Cell → Stepper) (rd ra rb : Gpr) (s : State) :
    Except Trap (State → State) :=
  startGuard (rd == ra) (illegalOp 0) (startOps [opTags s k.val ra (fun _ => true)]
    (startOps (if (resumeOf s k fn).isSome then [] else [opList s k.val rb])
      (.ok (listRun k fn rd rb (2 ^ 32 + 1) (step k rd (readReg s k.val ra)) s))))

def execMemq (k : CoreId) (rd ra rb : Gpr) (s : State) : Host.Outcome State Fault Refusal :=
  runLong k (findStart k 0x21 memqStep rd ra rb) s
def execAssq (k : CoreId) (rd ra rb : Gpr) (s : State) : Host.Outcome State Fault Refusal :=
  runLong k (findStart k 0x22 assqStep rd ra rb) s

/-! ### BCOPY -/

/-- An address operand of BCOPY: a PTR names element 0. -/
def copyAddr (s : State) (k : CoreId) (r : Gpr) : Word :=
  let c := readReg s k.val r
  if isPtr c.tag then c.data + 8 else c.data

/-- One cell, through both barriers. -/
def copyCell (k : CoreId) (src dst : Word) (s : State) : Except Trap State :=
  match loadCell k src s with
  | .error t => .error t
  | .ok (c, s1) => storeCell k (trapAt vTagCheck 1 src c.tag) dst c s1

/-- The cells of one step: at most `fuel`, all in one line on each side. `n` cells of `count` are copied. -/
def copyLine (k : CoreId) (down : Bool) (count : Nat) (src dst : Word) (line : Nat × Nat) :
    Nat → Nat → State → LongStep
  | 0, n, s => if count ≤ n then .done s else .more n src s
  | fuel + 1, n, s =>
    if count ≤ n then .done s
    else
      let i := w64 (8 * (if down then count - 1 - n else n))
      if ((src + i).toNat / 64, (dst + i).toNat / 64) ≠ line then .more n src s
      else
        match copyCell k (src + i) (dst + i) s with
        | .error t => .fault t n s
        | .ok s1 => copyLine k down count src dst line fuel (n + 1) s1

def bcopyStep (k : CoreId) (down : Bool) (count : Nat) (src dst : Word) : Stepper := fun n _ s =>
  let i := w64 (8 * (if down then count - 1 - n else n))
  copyLine k down count src dst ((src + i).toNat / 64, (dst + i).toNat / 64) 8 n s

/-- BCOPY: from the highest cell down when the destination lies above an overlapping source. DESIGN CHOICE (log): an address
that is no multiple of 8 raises MISALIGNED at issue, with the base address, also where the copy goes down. -/
def bcopyStart (k : CoreId) (rd ra rb : Gpr) (s : State) : Except Trap (State → State) :=
  let n := (readReg s k.val rb).data
  let src := copyAddr s k ra
  let dst := copyAddr s k rd
  startOps [opAddr s k.val rd, opAddr s k.val ra, opTags s k.val rb tagIsFix] (startGuard (n.toInt < 0) (outOfBounds s k rb)
    (startGuard (n.toNat != 0 && src.toNat % 8 != 0) (misaligned src)
      (startGuard (n.toNat != 0 && dst.toNat % 8 != 0) (misaligned dst)
        (match resumeOf s k 0x23 with
          | some l => .ok (longLoop k.val (fun n _ => contFor 0x23 (bitOf l.data 43) (firstLatch s k) (bitsOf l.data 31 0) n)
              (bcopyStep k (bitOf l.data 43) n.toNat src dst) (n.toNat + 1) (bitsOf l.data 31 0) none)
          | none =>
            let down := decide (src.toNat < dst.toNat) && decide (dst.toNat < src.toNat + 8 * n.toNat)
            .ok (longLoop k.val (fun n _ => contFor 0x23 down (firstLatch s k) 0 n) (bcopyStep k down n.toNat src dst) (n.toNat + 1) 0 none)))))

/-- BCOPY. Where it has changed registers, the clocks are judged (R412). -/
def execBcopy (k : CoreId) (rd ra rb : Gpr) (s : State) : Host.Outcome State Fault Refusal :=
  match runLong k (bcopyStart k rd ra rb) s with
  | .next t => storeOutcome (t.regs != s.regs) (.next t)
  | o => o

end Sys2Proof.Machine
end

