-- ==== Sys2Proof/Machine/PhaseInstr.lean ====
section
/-!
DEFINITION. Machine/PhaseInstr.lean: the phase group of Caraerik (R97 of 04_caraerik_instruction_groups.md): PHRD, PHAT,
PHST, PHMK, PHREV and PHFR.
-/

namespace Sys2Proof.Machine

/-- A source operand: FIX holding 0 to 15, else TAG_CHECK with SOFT_TYPE or BOUNDS (R97). -/
def opSource (s : State) (k : Nat) (r : Gpr) : Opnd :=
  let c := readReg s k r
  ⟨r.val, c, if isReservedTag c.tag then some 3
    else if c.tag != tagFix then some 1
    else if 16 ≤ c.data.toNat then some 5 else none⟩

/-- The source a checked operand names. -/
def sourceOf (s : State) (k : Nat) (r : Gpr) : Nat := (readReg s k r).data.toNat

/-- A source the core's partition may not read raises PRIV_OP with detail NOT_OWNED (R97). -/
def needSource (s : State) (k : CoreId) (i : Nat) (next : Except Trap (State × Flow)) : Except Trap (State × Flow) :=
  guardTrap (!agentReads s (.core k) i) (privOp 1) next

/-- PHRD: the current phase of a source, or UNBOUND. -/
def execPhrd (k : CoreId) (rd rb : Gpr) (s : State) : Host.Outcome State Fault Refusal :=
  runInstr k (fun s =>
    let i := sourceOf s k.val rb
    withOps [opSource s k.val rb] (needSource s k i (done k rd (phaseCell s i) s))) s

/-- PHAT: the phase of a source at a device-time stamp. A PHASE cell of another source raises PHASE_SOURCE, which ranks before
a source number beyond 15 (R81). -/
def execPhat (k : CoreId) (rd ra rb : Gpr) (s : State) : Host.Outcome State Fault Refusal :=
  runInstr k (fun s =>
    let a := opTags s k.val ra isPhase
    let i := sourceOf s k.val rb
    withOps [a, opTags s k.val rb tagIsFix]
      (guardTrap (a.cell.tag != tagPhase15) (trapOn vPhaseSource 0 ra.val a.cell.tag)
        (withOps [opSource s k.val rb] (needSource s k i (done k rd (phaseAtCell s i a.cell.data) s))))) s

/-- PHST: the lock state of a source. -/
def execPhst (k : CoreId) (rd ra : Gpr) (s : State) : Host.Outcome State Fault Refusal :=
  runInstr k (fun s =>
    let i := sourceOf s k.val ra
    withOps [opSource s k.val ra] (needSource s k i (done k rd (cellFix (w64 (srcState s i))) s))) s

/-- PHMK: revolutions as a phase of a source, wrapped (R234). -/
def execPhmk (k : CoreId) (rd ra rb : Gpr) (s : State) : Host.Outcome State Fault Refusal :=
  runInstr k (fun s =>
    let a := opTags s k.val ra (fun t => t == tagQ32 || t == tagFix)
    let i := sourceOf s k.val rb
    withOps [a, opSource s k.val rb]
      (needSource s k i (done k rd
        ⟨tagPhase i, if a.cell.tag = tagFix then a.cell.data * w64 (2 ^ 32) else a.cell.data⟩ s))) s

/-- PHREV: whole revolutions. -/
def execPhrev (k : CoreId) (rd ra : Gpr) (s : State) : Host.Outcome State Fault Refusal :=
  runInstr k (fun s =>
    let a := opTags s k.val ra isPhase
    withOps [a] (done k rd (cellFix (w64 (bitsOf a.cell.data 63 32))) s)) s

/-- PHFR: the fraction of a revolution, as Q32. -/
def execPhfr (k : CoreId) (rd ra : Gpr) (s : State) : Host.Outcome State Fault Refusal :=
  runInstr k (fun s =>
    let a := opTags s k.val ra isPhase
    withOps [a] (done k rd ⟨tagQ32, w64 (bitsOf a.cell.data 31 0)⟩ s)) s

end Sys2Proof.Machine
end

