-- ==== Sys2Proof/Machine/Dispatch.lean ====
section
/-!
DEFINITION. Machine/Dispatch.lean: one arm per command, each one call of its meaning.
-/

namespace Sys2Proof.Machine

def exec (i : Instr) (s : State) : Host.Outcome State Fault Refusal :=
  match i with
  | .regReadLowHalf who off => Sys2Proof.Machine.execRegReadLowHalf who off s
  | .regReadHighHalf who off => Sys2Proof.Machine.execRegReadHighHalf who off s
  | .regBadAccess who write off size value => Sys2Proof.Machine.execRegBadAccess who write off size value s
  | .registerWrite who off wide value => Sys2Proof.Machine.execRegisterWrite who off wide value s
  | .mov k rd ra => Sys2Proof.Machine.execMov k rd ra s
  | .addr k rd ra rb => Sys2Proof.Machine.execAddr k rd ra rb s
  | .subr k rd ra rb => Sys2Proof.Machine.execSubr k rd ra rb s
  | .and k rd ra rb => Sys2Proof.Machine.execAnd k rd ra rb s
  | .or k rd ra rb => Sys2Proof.Machine.execOr k rd ra rb s
  | .xor k rd ra rb => Sys2Proof.Machine.execXor k rd ra rb s
  | .andn k rd ra rb => Sys2Proof.Machine.execAndn k rd ra rb s
  | .shl k rd ra rb => Sys2Proof.Machine.execShl k rd ra rb s
  | .shr k rd ra rb => Sys2Proof.Machine.execShr k rd ra rb s
  | .sar k rd ra rb => Sys2Proof.Machine.execSar k rd ra rb s
  | .ror k rd ra rb => Sys2Proof.Machine.execRor k rd ra rb s
  | .cmpeqr k rd ra rb => Sys2Proof.Machine.execCmpeqr k rd ra rb s
  | .cmplt k rd ra rb => Sys2Proof.Machine.execCmplt k rd ra rb s
  | .cmpltu k rd ra rb => Sys2Proof.Machine.execCmpltu k rd ra rb s
  | .addi k rd ra imm => Sys2Proof.Machine.execAddi k rd ra imm s
  | .addiw k rd ra imm => Sys2Proof.Machine.execAddiw k rd ra imm s
  | .andi k rd ra imm => Sys2Proof.Machine.execAndi k rd ra imm s
  | .ori k rd ra imm => Sys2Proof.Machine.execOri k rd ra imm s
  | .xori k rd ra imm => Sys2Proof.Machine.execXori k rd ra imm s
  | .shi k rd ra imm => Sys2Proof.Machine.execShi k rd ra imm s
  | .cmpi k rd ra imm => Sys2Proof.Machine.execCmpi k rd ra imm s
  | .movw k rd imm => Sys2Proof.Machine.execMovw k rd imm s
  | .shlw k rd imm => Sys2Proof.Machine.execShlw k rd imm s
  | .bfx k rd ra rb => Sys2Proof.Machine.execBfx k rd ra rb s
  | .bfxu k rd ra rb => Sys2Proof.Machine.execBfxu k rd ra rb s
  | .bfi k rd ra rb => Sys2Proof.Machine.execBfi k rd ra rb s
  | .clz k rd ra => Sys2Proof.Machine.execClz k rd ra s
  | .ctz k rd ra => Sys2Proof.Machine.execCtz k rd ra s
  | .popc k rd ra => Sys2Proof.Machine.execPopc k rd ra s
  | .bperm k rd ra rb => Sys2Proof.Machine.execBperm k rd ra rb s
  | .muls k rd ra rb => Sys2Proof.Machine.execMuls k rd ra rb s
  | .mulu k rd ra rb => Sys2Proof.Machine.execMulu k rd ra rb s
  | .divs k rd ra rb => Sys2Proof.Machine.execDivs k rd ra rb s
  | .divu k rd ra rb => Sys2Proof.Machine.execDivu k rd ra rb s
  | .mhMlProductWrite k => Sys2Proof.Machine.execMhMlProductWrite k s
  | .add k rd ra rb => Sys2Proof.Machine.execAdd k rd ra rb s
  | .sub k rd ra rb => Sys2Proof.Machine.execSub k rd ra rb s
  | .mul k rd ra rb => Sys2Proof.Machine.execMul k rd ra rb s
  | .div k rd ra rb => Sys2Proof.Machine.execDiv k rd ra rb s
  | .eq k rd ra rb => Sys2Proof.Machine.execEq k rd ra rb s
  | .lt k rd ra rb => Sys2Proof.Machine.execLt k rd ra rb s
  | .le k rd ra rb => Sys2Proof.Machine.execLe k rd ra rb s
  | .mkmeas k rd ra rb => Sys2Proof.Machine.execMkmeas k rd ra rb s
  | .mval k rd ra => Sys2Proof.Machine.execMval k rd ra s
  | .munit k rd ra => Sys2Proof.Machine.execMunit k rd ra s
  | .mflag k rd ra => Sys2Proof.Machine.execMflag k rd ra s
  | .qor k rd ra rb => Sys2Proof.Machine.execQor k rd ra rb s
  | .qclr k rd ra rb => Sys2Proof.Machine.execQclr k rd ra rb s
  | .conv k rd ra rb => Sys2Proof.Machine.execConv k rd ra rb s
  | .msqrt k rd ra => Sys2Proof.Machine.execMsqrt k rd ra s
  | .utset k rd ra rb => Sys2Proof.Machine.execUtset k rd ra rb s
  | .tagr k rd ra => Sys2Proof.Machine.execTagr k rd ra s
  | .tcls k rd ra => Sys2Proof.Machine.execTcls k rd ra s
  | .tset k rd ra rb => Sys2Proof.Machine.execTset k rd ra rb s
  | .btag k annul hint ra m tag disp => Sys2Proof.Machine.execBtag k annul hint ra m tag disp s
  | .bntag k annul hint ra m tag disp => Sys2Proof.Machine.execBntag k annul hint ra m tag disp s
  | .ldc k rd ra imm => Sys2Proof.Machine.execLdc k rd ra imm s
  | .ldw k rd ra imm => Sys2Proof.Machine.execLdw k rd ra imm s
  | .ldwu k rd ra imm => Sys2Proof.Machine.execLdwu k rd ra imm s
  | .ldh k rd ra imm => Sys2Proof.Machine.execLdh k rd ra imm s
  | .ldhu k rd ra imm => Sys2Proof.Machine.execLdhu k rd ra imm s
  | .ldb k rd ra imm => Sys2Proof.Machine.execLdb k rd ra imm s
  | .ldbu k rd ra imm => Sys2Proof.Machine.execLdbu k rd ra imm s
  | .stc k rd ra imm => Sys2Proof.Machine.execStc k rd ra imm s
  | .stw k rd ra imm => Sys2Proof.Machine.execStw k rd ra imm s
  | .sth k rd ra imm => Sys2Proof.Machine.execSth k rd ra imm s
  | .stb k rd ra imm => Sys2Proof.Machine.execStb k rd ra imm s
  | .cas k rd ra rb fn => Sys2Proof.Machine.execCas k rd ra rb fn s
  | .car k rd ra => Sys2Proof.Machine.execCar k rd ra s
  | .cdr k rd ra => Sys2Proof.Machine.execCdr k rd ra s
  | .setcar k rd ra rb => Sys2Proof.Machine.execSetcar k rd ra rb s
  | .setcdr k rd ra rb => Sys2Proof.Machine.execSetcdr k rd ra rb s
  | .eqq k rd ra rb => Sys2Proof.Machine.execEqq k rd ra rb s
  | .vlen k rd ra => Sys2Proof.Machine.execVlen k rd ra s
  | .vref k rd ra rb => Sys2Proof.Machine.execVref k rd ra rb s
  | .vset k rd ra rb => Sys2Proof.Machine.execVset k rd ra rb s
  | .lwalk k rd ra rb => Sys2Proof.Machine.execLwalk k rd ra rb s
  | .memq k rd ra rb => Sys2Proof.Machine.execMemq k rd ra rb s
  | .assq k rd ra rb => Sys2Proof.Machine.execAssq k rd ra rb s
  | .bcopy k rd ra rb => Sys2Proof.Machine.execBcopy k rd ra rb s
  | .phrd k rd rb => Sys2Proof.Machine.execPhrd k rd rb s
  | .phat k rd ra rb => Sys2Proof.Machine.execPhat k rd ra rb s
  | .phst k rd ra => Sys2Proof.Machine.execPhst k rd ra s
  | .phmk k rd ra rb => Sys2Proof.Machine.execPhmk k rd ra rb s
  | .phrev k rd ra => Sys2Proof.Machine.execPhrev k rd ra s
  | .phfr k rd ra => Sys2Proof.Machine.execPhfr k rd ra s
  | .nop k => Sys2Proof.Machine.execNop k s
  | .jmp k ra => Sys2Proof.Machine.execJmp k ra s
  | .jmpl k ra => Sys2Proof.Machine.execJmpl k ra s
  | .ret k => Sys2Proof.Machine.execRet k s
  | .call k disp => Sys2Proof.Machine.execCall k disp s
  | .ba k annul hint ra disp => Sys2Proof.Machine.execBa k annul hint ra disp s
  | .bn k annul hint ra disp => Sys2Proof.Machine.execBn k annul hint ra disp s
  | .bnil k annul hint ra disp => Sys2Proof.Machine.execBnil k annul hint ra disp s
  | .bnnil k annul hint ra disp => Sys2Proof.Machine.execBnnil k annul hint ra disp s
  | .bz k annul hint ra disp => Sys2Proof.Machine.execBz k annul hint ra disp s
  | .bnz k annul hint ra disp => Sys2Proof.Machine.execBnz k annul hint ra disp s
  | .bltz k annul hint ra disp => Sys2Proof.Machine.execBltz k annul hint ra disp s
  | .bgez k annul hint ra disp => Sys2Proof.Machine.execBgez k annul hint ra disp s
  | .blez k annul hint ra disp => Sys2Proof.Machine.execBlez k annul hint ra disp s
  | .bgtz k annul hint ra disp => Sys2Proof.Machine.execBgtz k annul hint ra disp s
  | .bnan k annul hint ra disp => Sys2Proof.Machine.execBnan k annul hint ra disp s
  | .enter k => Sys2Proof.Machine.execEnter k s
  | .leave k => Sys2Proof.Machine.execLeave k s
  | .spillw k => Sys2Proof.Machine.execSpillw k s
  | .fillw k => Sys2Proof.Machine.execFillw k s
  | .retx k => Sys2Proof.Machine.execRetx k s
  | .trap k detail => Sys2Proof.Machine.execTrap k detail s
  | .fenceM k => Sys2Proof.Machine.execFenceM k s
  | .fenceP k => Sys2Proof.Machine.execFenceP k s
  | .fenceT k => Sys2Proof.Machine.execFenceT k s
  | .fenceH k => Sys2Proof.Machine.execFenceH k s
  | .mfs k rd ra spr => Sys2Proof.Machine.execMfs k rd ra spr s
  | .mts k rd ra spr => Sys2Proof.Machine.execMts k rd ra spr s
  | .mtsPstat k rd ra => Sys2Proof.Machine.execMtsPstat k rd ra s
  | .mtsWstat k rd ra => Sys2Proof.Machine.execMtsWstat k rd ra s
  | .mtsTprog k rd ra => Sys2Proof.Machine.execMtsTprog k rd ra s
  | .predRekey k rd ra => Sys2Proof.Machine.execPredRekey k rd ra s
  | .predFlush k rd ra => Sys2Proof.Machine.execPredFlush k rd ra s
  | .wait k rd ra => Sys2Proof.Machine.execWait k rd ra s
  | .yieldCore k => Sys2Proof.Machine.execYieldCore k s
  | .send k rd ra rb => Sys2Proof.Machine.execSend k rd ra rb s
  | .recv k rd rb => Sys2Proof.Machine.execRecv k rd rb s
  | .post k rd ra rb => Sys2Proof.Machine.execPost k rd ra rb s
  | .tlbiVa k ra rb => Sys2Proof.Machine.execTlbiVa k ra rb s
  | .tlbiAsid k rb => Sys2Proof.Machine.execTlbiAsid k rb s
  | .tlbiSpace k => Sys2Proof.Machine.execTlbiSpace k s
  | .tlbiIpa k ra rb => Sys2Proof.Machine.execTlbiIpa k ra rb s
  | .tlbiPart k rb => Sys2Proof.Machine.execTlbiPart k rb s
  | .tlbiKs k ra => Sys2Proof.Machine.execTlbiKs k ra s
  | .tlbiAll k => Sys2Proof.Machine.execTlbiAll k s
  | .tlbiComplete k => Sys2Proof.Machine.execTlbiComplete k s
  | .xprobe k rd ra rb => Sys2Proof.Machine.execXprobe k rd ra rb s
  | .tableWalk w => Sys2Proof.Machine.execTableWalk w s
  | .lineFill k acc va => Sys2Proof.Machine.execLineFill k acc va s
  | .mergeBufferDrain k => Sys2Proof.Machine.execMergeBufferDrain k s
  | .wbcWriteback k line failed => Sys2Proof.Machine.execWbcWriteback k line failed s
  | .storeError k origin pa cells => Sys2Proof.Machine.execStoreError k origin pa cells s
  | .cclean k rd ra rb => Sys2Proof.Machine.execCclean k rd ra rb s
  | .cflush k rd ra rb => Sys2Proof.Machine.execCflush k rd ra rb s
  | .cinv k rd ra rb => Sys2Proof.Machine.execCinv k rd ra rb s
  | .cpre k rd ra rb => Sys2Proof.Machine.execCpre k rd ra rb s
  | .cmr k rd ra rb => Sys2Proof.Machine.execCmr k rd ra rb s
  | .cmrComplete k => Sys2Proof.Machine.execCmrComplete k s
  | .csw k rd ra rb => Sys2Proof.Machine.execCsw k rd ra rb s
  | .cacheDisable c => Sys2Proof.Machine.execCacheDisable c s
  | .cacheEnable c => Sys2Proof.Machine.execCacheEnable c s
  | .cacheSweepDone c => Sys2Proof.Machine.execCacheSweepDone c s
  | .wayLock c w => Sys2Proof.Machine.execWayLock c w s
  | .wayUnlock c w => Sys2Proof.Machine.execWayUnlock c w s
  | .wayDisable c w => Sys2Proof.Machine.execWayDisable c w s
  | .wayEnable c w => Sys2Proof.Machine.execWayEnable c w s
  | .larderPowerRequest b preq => Sys2Proof.Machine.execLarderPowerRequest b preq s
  | .larderTransitionDone b => Sys2Proof.Machine.execLarderTransitionDone b s
  | .lardHashKeyWrite c key => Sys2Proof.Machine.execLardHashKeyWrite c key s
  | .darningStep b fixed lost bad => Sys2Proof.Machine.execDarningStep b fixed lost bad s
  | .ddrTrainingDone ok size => Sys2Proof.Machine.execDdrTrainingDone ok size s
  | .ddrInitDone ok => Sys2Proof.Machine.execDdrInitDone ok s
  | .dramRefresh sub => Sys2Proof.Machine.execDramRefresh sub s
  | .dramTempAlert hot => Sys2Proof.Machine.execDramTempAlert hot s
  | .patrolScrub line bad corrected => Sys2Proof.Machine.execPatrolScrub line bad corrected s
  | .memSkewWindow lines => Sys2Proof.Machine.execMemSkewWindow lines s
  | .alloc k rd ra rb => Sys2Proof.Machine.execAlloc k rd ra rb s
  | .shade k rd ra => Sys2Proof.Machine.execShade k rd ra s
  | .rootSweep k inFront unit => Sys2Proof.Machine.execRootSweep k inFront unit s
  | .rackAdd who desc => Sys2Proof.Machine.execRackAdd who desc s
  | .rackRemove who desc => Sys2Proof.Machine.execRackRemove who desc s
  | .ncycle who desc => Sys2Proof.Machine.execNcycle who desc s
  | .mcycle who desc => Sys2Proof.Machine.execMcycle who desc s
  | .allocLarge who desc => Sys2Proof.Machine.execAllocLarge who desc s
  | .laundryFlip p => Sys2Proof.Machine.execLaundryFlip p s
  | .laundrySlice p => Sys2Proof.Machine.execLaundrySlice p s
  | .laundryPhaseEnd p => Sys2Proof.Machine.execLaundryPhaseEnd p s
  | .rackWipeDone p rack => Sys2Proof.Machine.execRackWipeDone p rack s
  | .eventEntry k => Sys2Proof.Machine.execEventEntry k s
  | .nibExpiry k => Sys2Proof.Machine.execNibExpiry k s
  | .taskStart who cl desc => Sys2Proof.Machine.execTaskStart who cl desc s
  | .taskHold who cl desc => Sys2Proof.Machine.execTaskHold who cl desc s
  | .taskRelease who cl desc => Sys2Proof.Machine.execTaskRelease who cl desc s
  | .taskKill who cl desc => Sys2Proof.Machine.execTaskKill who cl desc s
  | .taskRerole who cl desc => Sys2Proof.Machine.execTaskRerole who cl desc s
  | .taskWake who cl desc => Sys2Proof.Machine.execTaskWake who cl desc s
  | .dispatchSwitch cl => Sys2Proof.Machine.execDispatchSwitch cl s
  | .backContextLoad k => Sys2Proof.Machine.execBackContextLoad k s
  | .contextDrain k => Sys2Proof.Machine.execContextDrain k s
  | .partClaim p => Sys2Proof.Machine.execPartClaim p s
  | .partStart p => Sys2Proof.Machine.execPartStart p s
  | .partReset p => Sys2Proof.Machine.execPartReset p s
  | .partResetDone p => Sys2Proof.Machine.execPartResetDone p s
  | .partRelease p => Sys2Proof.Machine.execPartRelease p s
  | .coreMove who k assign p => Sys2Proof.Machine.execCoreMove who k assign p s
  | .coreMoveDone k => Sys2Proof.Machine.execCoreMoveDone k s
  | .encoderEdge e a b z => Sys2Proof.Machine.execEncoderEdge e a b z s
  | .mainsCrossing m rising => Sys2Proof.Machine.execMainsCrossing m rising s
  | .syncInEdge rising => Sys2Proof.Machine.execSyncInEdge rising s
  | .edgeTimeout src => Sys2Proof.Machine.execEdgeTimeout src s
  | .coastExpiry src => Sys2Proof.Machine.execCoastExpiry src s
  | .phaseSrcEnable who src value => Sys2Proof.Machine.execPhaseSrcEnable who src value s
  | .phaseSrcDisable who src value => Sys2Proof.Machine.execPhaseSrcDisable who src value s
  | .phaseSrcRestart who src value => Sys2Proof.Machine.execPhaseSrcRestart who src value s
  | .ncoRateWrite who src rate => Sys2Proof.Machine.execNcoRateWrite who src rate s
  | .phaseSrcOwnWrite who src value => Sys2Proof.Machine.execPhaseSrcOwnWrite who src value s
  | .historyRecord src => Sys2Proof.Machine.execHistoryRecord src s
  | .dtDiscipline interval => Sys2Proof.Machine.execDtDiscipline interval s
  | .dtHoldover => Sys2Proof.Machine.execDtHoldover s
  | .alarmArm who desc => Sys2Proof.Machine.execAlarmArm who desc s
  | .alarmCancel who desc => Sys2Proof.Machine.execAlarmCancel who desc s
  | .pclassResolve => Sys2Proof.Machine.execPclassResolve s
  | .alarmFire => Sys2Proof.Machine.execAlarmFire s
  | .syncOutPulse => Sys2Proof.Machine.execSyncOutPulse s
  | .rsmpStart who u desc => Sys2Proof.Machine.execRsmpStart who u desc s
  | .rsmpStop who u desc => Sys2Proof.Machine.execRsmpStop who u desc s
  | .rsmpBlockWrite u slot => Sys2Proof.Machine.execRsmpBlockWrite u slot s
  | .specRun who e desc => Sys2Proof.Machine.execSpecRun who e desc s
  | .specArm who e desc => Sys2Proof.Machine.execSpecArm who e desc s
  | .specDisarm who e desc => Sys2Proof.Machine.execSpecDisarm who e desc s
  | .specResetAvg who e desc => Sys2Proof.Machine.execSpecResetAvg who e desc s
  | .specExecStart e => Sys2Proof.Machine.execSpecExecStart e s
  | .specExecDone e => Sys2Proof.Machine.execSpecExecDone e s
  | .specLateDrop e slot => Sys2Proof.Machine.execSpecLateDrop e slot s
  | .engineOwnWrite who u value => Sys2Proof.Machine.execEngineOwnWrite who u value s
  | .laneEnable who lane value => Sys2Proof.Machine.execLaneEnable who lane value s
  | .laneDisable who lane value => Sys2Proof.Machine.execLaneDisable who lane value s
  | .blockLock lane => Sys2Proof.Machine.execBlockLock lane s
  | .seekRateTimeout lane => Sys2Proof.Machine.execSeekRateTimeout lane s
  | .capSend lane => Sys2Proof.Machine.execCapSend lane s
  | .capxTimeout lane => Sys2Proof.Machine.execCapxTimeout lane s
  | .laneFail lane => Sys2Proof.Machine.execLaneFail lane s
  | .failedRetryTimeout lane => Sys2Proof.Machine.execFailedRetryTimeout lane s
  | .bundleReceive lane blocks hdr payload crc => Sys2Proof.Machine.execBundleReceive lane blocks hdr payload crc s
  | .ackSend lane => Sys2Proof.Machine.execAckSend lane s
  | .heartbeatSend lane => Sys2Proof.Machine.execHeartbeatSend lane s
  | .replayTimeout link => Sys2Proof.Machine.execReplayTimeout link s
  | .tsyncStart lane => Sys2Proof.Machine.execTsyncStart lane s
  | .tsRspReceive lane exch t2 t3 => Sys2Proof.Machine.execTsRspReceive lane exch t2 t3 s
  | .tsyncTimeout lane => Sys2Proof.Machine.execTsyncTimeout lane s
  | .configRead who desc => Sys2Proof.Machine.execConfigRead who desc s
  | .configWrite who desc => Sys2Proof.Machine.execConfigWrite who desc s
  | .configTimeout link => Sys2Proof.Machine.execConfigTimeout link s
  | .bondEnable who g value => Sys2Proof.Machine.execBondEnable who g value s
  | .channelValidate who n value => Sys2Proof.Machine.execChannelValidate who n value s
  | .channelInvalidate who n value => Sys2Proof.Machine.execChannelInvalidate who n value s
  | .driveFrame who desc => Sys2Proof.Machine.execDriveFrame who desc s
  | .driveArm who desc => Sys2Proof.Machine.execDriveArm who desc s
  | .driveDisarm who desc => Sys2Proof.Machine.execDriveDisarm who desc s
  | .driveAbort who desc => Sys2Proof.Machine.execDriveAbort who desc s
  | .driveClear who desc => Sys2Proof.Machine.execDriveClear who desc s
  | .frameResolve o => Sys2Proof.Machine.execFrameResolve o s
  | .driveFrameApply o => Sys2Proof.Machine.execDriveFrameApply o s
  | .driveSampleSend o => Sys2Proof.Machine.execDriveSampleSend o s
  | .abortNLow low => Sys2Proof.Machine.execAbortNLow low s
  | .driveSoftAbort who value => Sys2Proof.Machine.execDriveSoftAbort who value s
  | .driveWdogTimeout o => Sys2Proof.Machine.execDriveWdogTimeout o s
  | .rampEnd o => Sys2Proof.Machine.execRampEnd o s
  | .cmdDoorbell f ring value => Sys2Proof.Machine.execCmdDoorbell f ring value s
  | .completionDoorbell f ring value => Sys2Proof.Machine.execCompletionDoorbell f ring value s
  | .recordDoorbell f ring value => Sys2Proof.Machine.execRecordDoorbell f ring value s
  | .taskDoorbell f slot => Sys2Proof.Machine.execTaskDoorbell f slot s
  | .versionRequest f value => Sys2Proof.Machine.execVersionRequest f value s
  | .fnAttach f value => Sys2Proof.Machine.execFnAttach f value s
  | .fnDetach f value => Sys2Proof.Machine.execFnDetach f value s
  | .fnRestore f recs => Sys2Proof.Machine.execFnRestore f recs s
  | .fnResume f value => Sys2Proof.Machine.execFnResume f value s
  | .descriptorFetch f ring words => Sys2Proof.Machine.execDescriptorFetch f ring words s
  | .journalFlushDone f => Sys2Proof.Machine.execJournalFlushDone f s
  | .hostNop f ring => Sys2Proof.Machine.execHostNop f ring s
  | .hostFence f ring => Sys2Proof.Machine.execHostFence f ring s
  | .identify f ring => Sys2Proof.Machine.execIdentify f ring s
  | .hostWrite f ring bytes bad => Sys2Proof.Machine.execHostWrite f ring bytes bad s
  | .hostRead f ring bad => Sys2Proof.Machine.execHostRead f ring bad s
  | .hostPost f ring => Sys2Proof.Machine.execHostPost f ring s
  | .bind f ring => Sys2Proof.Machine.execBind f ring s
  | .exportStream f ring => Sys2Proof.Machine.execExportStream f ring s
  | .fw f ring => Sys2Proof.Machine.execFw f ring s
  | .commandDone f ring => Sys2Proof.Machine.execCommandDone f ring s
  | .completionPost f ring => Sys2Proof.Machine.execCompletionPost f ring s
  | .exportRecord f first => Sys2Proof.Machine.execExportRecord f first s
  | .fwFetch k desc => Sys2Proof.Machine.execFwFetch k desc s
  | .fwComplete k desc => Sys2Proof.Machine.execFwComplete k desc s
  | .taskRecord k desc => Sys2Proof.Machine.execTaskRecord k desc s
  | .interruptModeration f ring => Sys2Proof.Machine.execInterruptModeration f ring s
  | .flr f => Sys2Proof.Machine.execFlr f s
  | .grantWrite who n value => Sys2Proof.Machine.execGrantWrite who n value s
  | .admSrcWrite who n value => Sys2Proof.Machine.execAdmSrcWrite who n value s
  | .activationOverrun p t => Sys2Proof.Machine.execActivationOverrun p t s
  | .fullBoot xbMode xdly bootWait otpOk fails xaGood xbGood => Sys2Proof.Machine.execFullBoot xbMode xdly bootWait otpOk fails xaGood xbGood s
  | .xaRetest good => Sys2Proof.Machine.execXaRetest good s
  | .pllLock k => Sys2Proof.Machine.execPllLock k s
  | .bootRelease who value => Sys2Proof.Machine.execBootRelease who value s
  | .bootGo who value bme => Sys2Proof.Machine.execBootGo who value bme s
  | .bundleVerifyDone bytes bad => Sys2Proof.Machine.execBundleVerifyDone bytes bad s
  | .keeperColdEntry => Sys2Proof.Machine.execKeeperColdEntry s
  | .attKeyReady => Sys2Proof.Machine.execAttKeyReady s
  | .verify who desc => Sys2Proof.Machine.execVerify who desc s
  | .quote who desc => Sys2Proof.Machine.execQuote who desc s
  | .epochAdv who desc => Sys2Proof.Machine.execEpochAdv who desc s
  | .mcLoad who desc => Sys2Proof.Machine.execMcLoad who desc s
  | .serviceRequestDone => Sys2Proof.Machine.execServiceRequestDone s
  | .otpProgramSlot who slot good => Sys2Proof.Machine.execOtpProgramSlot who slot good s
  | .otpRevokeSlot who slot good => Sys2Proof.Machine.execOtpRevokeSlot who slot good s
  | .otpBlowPol who bit good => Sys2Proof.Machine.execOtpBlowPol who bit good s
  | .coreGo k value => Sys2Proof.Machine.execCoreGo k value s
  | .partEntryWrite p value => Sys2Proof.Machine.execPartEntryWrite p value s
  | .domainSwitch who d value => Sys2Proof.Machine.execDomainSwitch who d value s
  | .domainSwitchDone d => Sys2Proof.Machine.execDomainSwitchDone d s
  | .pllReconfig who k value => Sys2Proof.Machine.execPllReconfig who k value s
  | .pllRelock who k value => Sys2Proof.Machine.execPllRelock who k value s
  | .spreadConfig who k value => Sys2Proof.Machine.execSpreadConfig who k value s
  | .clockMonitorFail m bad => Sys2Proof.Machine.execClockMonitorFail m bad s
  | .avsAdjust r up ok => Sys2Proof.Machine.execAvsAdjust r up ok s
  | .powerDomainRequest who d value => Sys2Proof.Machine.execPowerDomainRequest who d value s
  | .powerDomainDone d => Sys2Proof.Machine.execPowerDomainDone d s
  | .thermalSample temps => Sys2Proof.Machine.execThermalSample temps s
  | .throttleExit => Sys2Proof.Machine.execThrottleExit s
  | .warmResetRequest who value => Sys2Proof.Machine.execWarmResetRequest who value s
  | .warmResetEffect => Sys2Proof.Machine.execWarmResetEffect s
  | .clusterReset who cl value => Sys2Proof.Machine.execClusterReset who cl value s
  | .clusterResetDone cl => Sys2Proof.Machine.execClusterResetDone cl s
  | .powerOnReset => Sys2Proof.Machine.execPowerOnReset s
  | .pcieReset => Sys2Proof.Machine.execPcieReset s
  | .eccError site uncorr => Sys2Proof.Machine.execEccError site uncorr s
  | .faultActionDone => Sys2Proof.Machine.execFaultActionDone s
  | .fltCoreOffWrite who value => Sys2Proof.Machine.execFltCoreOffWrite who value s
  | .fltLaneRetWrite who value => Sys2Proof.Machine.execFltLaneRetWrite who value s
  | .cachePatrol c => Sys2Proof.Machine.execCachePatrol c s
  | .smbusTransaction off => Sys2Proof.Machine.execSmbusTransaction off s
  | .fetchFault k => Sys2Proof.Machine.execFetchFault k s
  | .unassignedOpcode k => Sys2Proof.Machine.execUnassignedOpcode k s
  | .lardSkewWindow c lines => Sys2Proof.Machine.execLardSkewWindow c lines s
  | .anchorPeriodEstimate => Sys2Proof.Machine.execAnchorPeriodEstimate s
  | .ddrRecalibrationDone => Sys2Proof.Machine.execDdrRecalibrationDone s

end Sys2Proof.Machine
end

