-- ==== Sys2Proof/Machine/Tick.lean ====
section
/-!
DEFINITION. Machine/Tick.lean: what time does: one PHASE cycle passes (R246). The command table has no row for it: it is what a
step does when no command waits.
-/

namespace Sys2Proof.Machine

/-- CORE cycles of core `k` in the next PHASE cycle: the ratio of the two clocks, with what is left over carried on. -/
def coreCycles (s : State) (k : Nat) : Nat :=
  let d := k / 8
  let fa := if onFirc s d then fircFreq else vcoSet s (domPll d)
  let p := phaseClock s
  let upTo (n : Nat) : Nat := n * fa * p.2 / max 1 (domDiv s d * p.1)
  upTo (s.phaseCycles + 1) - upTo s.phaseCycles

/-- A running budget counts CORE cycles down (R116). Its end is the command NIB_EXPIRY: the count stops at 1 before it. -/
def countNib (n : Nat) (x : Ctx) : Ctx :=
  if nibRunOf x then { x with pstat := putBits x.pstat 19 8 (max 1 (nibRemOf x - n)) } else x

/-- A core whose cluster has power counts its cycles since its reset, stopped or not (CYCLE, R62); the budget of what it
executes counts too. -/
def coreTick (on : Bool) (n : Nat) (c : CoreState) : CoreState :=
  { c with
    cycle := if on then c.cycle + n else c.cycle
    front := if c.run then countNib n c.front else c.front }

/-- CORE cycles are counted for the activation of a task with a TASK grant that lies in the front context of a core, stalls
included (R375). -/
def countActivation (s : State) (k : Nat) (m : Sparse Nat) : Sparse Nat :=
  match (if (getCore s k).run then ctxTask (front s k) else none) with
  | none => m
  | some (p, t) =>
    if (taskGrant s p t).isNone then m
    else recPut (1024 * p + t) (sparseGet (fun _ => 0) m (1024 * p + t) + coreCycles s k) m

/-- One PHASE cycle. -/
def idleTick (s : State) : State :=
  { s with
    phaseCycles := s.phaseCycles + 1
    dtime := s.dtime + phaseTick s
    activations := (List.range 64).foldl (fun m k => countActivation s k m) s.activations
    cores := (List.range 64).foldl (fun m k =>
      recPut k (coreTick (k / 8 == 0 || pwrOn s (k / 8)) (coreCycles s k) (getCore s k)) m) s.cores }

end Sys2Proof.Machine
end

