-- ==== Sys2Proof/Safety.lean ====
section
/-!
DEFINITION. Safety.lean: the words claims are stated in: the canonical forms of the state, when an instruction of a core
runs and how it ends, and what a register-only instruction leaves alone.
-/

namespace Sys2Proof.Machine

/-- The canonical form of memory: addresses rising, nothing listed that reads as an unlisted cell (VOID). -/
def Memory.wf (m : Sparse Cell) : Bool := sparseWf memDefault m

/-- The canonical form of the register map: nothing listed that equals a register's reset value. -/
def Registers.wf (r : Sparse Word) : Bool := sparseWf regDefault r

/-- What a step answers. -/
abbrev Answer := Host.Outcome State Fault Refusal

/-- Core `k` executes an instruction in state `s`, whose register units are scanned to give `s1` (R218). -/
def Ready (k : CoreId) (s s1 : State) : Prop := canRun s k.val = true ∧ preScan k.val s = .ok s1

/-- A command answers a next state, of which `P` holds. -/
def Does (c : Instr) (s : State) (P : State → Prop) : Prop := ∃ t, exec c s = .next t ∧ P t

/-- No BAR0 register outside `l` differs. -/
def OnlyRegs (l : List (Reg × Nat)) (s t : State) : Prop :=
  ∀ r i, i < 65536 → (r, i) ∉ l → getReg t r i = getReg s r i

/-- An instruction has written `v` to rd and execution goes on in order (R69). -/
def wrote (k : CoreId) (rd : Gpr) (v : Cell) (s : State) : State := finish k.val .seq (writeReg k.val rd v s)

/-- The instruction ends with `v` in rd. -/
def gives (k : CoreId) (rd : Gpr) (v : Cell) (s : State) : Answer := .next (wrote k rd v s)

/-- The instruction ends in a trap. -/
def trapsWith (k : CoreId) (t : Trap) (s : State) : Answer := .next (takeTrap k.val t s)

/-- A raw operand: tagged FIX or RAW64 (R82). -/
def RawCell (c : Cell) : Prop := c.tag = tagFix ∨ c.tag = tagRaw64

/-- An address operand that passes its checks: FIX, RAW64, or a pointer that obeys R24 (R91). -/
def AddrCell (c : Cell) : Prop :=
  c.tag = tagFix ∨ c.tag = tagRaw64 ∨ (isPtr c.tag = true ∧ isReservedTag c.tag = false ∧ ptrOk c.data = true)

/-- Memory answers at a physical address: DDR that is not retired, or a larder bank that is ON (R193, R442). -/
def Answers (s : State) (pa : Nat) : Prop :=
  (regionOf s pa = .ddr ∧ subRetired s pa = false) ∨ ∃ b i, regionOf s pa = .larder b i ∧ bankOn s b = true

/-- Whatever a cache holds that differs from the level below it is marked dirty there, so that an eviction changes no
memory (only a discard, R182, leaves another state). -/
def Settled (s : State) : Prop :=
  ∀ c line, underOf s c line ≠ [] → ∃ e, cacheFind s c line = some e ∧ e.dirty = true

/-- Core `k` has no store waiting, and evictions change no memory. -/
def Quiet (k : CoreId) (s : State) : Prop := (getCore s k.val).merge = [] ∧ Settled s

/-- The task control blocks of partition `p` can be read and written, and evictions change no memory. -/
def TcbUp (p : Nat) (s : State) : Prop := bankOn s (fget s fldGLB_PART_CTL_TCBBANK p) = true ∧ Settled s

/-- Two addresses name one stored cell. -/
def SameCell (s : State) (a b : Nat) : Prop := cellKey (canonPa s a) = cellKey (canonPa s b)

/-- Byte `j` of a word. -/
def byteAt (w : Word) (j : Nat) : Nat := w.toNat / 2 ^ (8 * j) % 256

/-- Register location `l` holds `v`, every other location of the core and all of memory and BAR0 are as in `s`. -/
def OnlyCell (k : CoreId) (l : Nat) (v : Cell) (s t : State) : Prop :=
  readLoc (getCore t k.val) l = v ∧ (∀ l' < 336, l' ≠ l → readLoc (getCore t k.val) l' = readLoc (getCore s k.val) l') ∧
  t.mem = s.mem ∧ t.regs = s.regs

/-- The flow of control of a context after an instruction that only goes on (R69). -/
def inOrder (x : Ctx) : Ctx :=
  { x with pc := x.npc, npc := x.npc + 4, dslot := false, shadow := none, fresh := false, ran := true }

/-- Execution went on in order: PC took NPC; level, CLOAK state and mode are as before. -/
def WentOn (k : CoreId) (s t : State) : Prop :=
  (front t k.val).pc = (front s k.val).npc ∧ (front t k.val).npc = (front s k.val).npc + 4 ∧
  (front t k.val).pstat = (front s k.val).pstat ∧ (front t k.val).cmode = (front s k.val).cmode

/-- An instruction loads into rd the cell at an aligned address, where memory answers, no store waits and the load barrier
has nothing to do (R91, R220): only rd and the flow of control change. -/
def LoadsCell (k : CoreId) (i : Instr) (rd : Gpr) (va : Word) (s s1 : State) : Prop :=
  ∀ x' s2, va.toNat % 8 = 0 → xlate k.val (plOf (front s1 k.val)) .load va s1 = .ok (x', s2) →
    Answers s1 x'.pa → Quiet k s1 →
    let r := coreLoad k.val x' s2
    loadBarrier k.val (some x'.pa) va r.1 r.2 = .ok r →
    ∃ t, exec i s = .next t ∧ OnlyCell k (regLoc (front s1 k.val) rd.val) (memCell s1 x'.pa) s1 t ∧ WentOn k s1 t

/-- An instruction stores a cell at an aligned address, where memory answers, no store waits and the store barrier has
nothing to do (R91, R221): the core reads it there at once, memory holds it once the buffer has drained, and no other cell of
memory and no register changes. -/
def StoresCell (k : CoreId) (i : Instr) (va : Word) (c : Cell) (s s1 : State) : Prop :=
  ∀ x' s2, va.toNat % 8 = 0 → gcInto s1 k va c = false → xlate k.val (plOf (front s1 k.val)) .store va s1 = .ok (x', s2) →
    Answers s1 x'.pa → Quiet k s1 → markStore s2 k va = false →
    storeBarrier k.val va.toNat (corePeek s2 k.val x'.pa) c s2 = .ok (some c, s2) →
    ∃ t, exec i s = .next t ∧ (∀ l < 336, readLoc (getCore t k.val) l = readLoc (getCore s1 k.val) l) ∧ t.regs = s1.regs ∧
      WentOn k s1 t ∧ corePeek t k.val x'.pa = c ∧
      memCell (drainAll k.val t) x'.pa = c ∧
      ∀ a, ¬ SameCell s1 a x'.pa → memCell (drainAll k.val t) a = memCell s1 a

/-! ### What the long instructions do, said once more without their machinery (R94) -/

/-- Goes on in a state in which neither an event nor an owed switch interrupts the instruction. -/
def unlessEvent (k : CoreId) (s : State) (next : State → Option State) : Option State :=
  if (eventChoice s k.val).isNone && !owesSwitch s k.val then next s else none

/-- The list in rd is replaced by its cdr, `n` times or until it is NIL; none where a cell is no list, an access faults or
an event interrupts. -/
def cdrWalk (k : CoreId) (rd : Gpr) : Nat → State → Option State
  | 0, s => some s
  | n + 1, s =>
    let c := readReg s k.val rd
    if c.tag = tagNil then some s
    else if c.tag = tagCons ∧ ptrOk c.data = true then
      match loadCell k (c.data + 8) s with
      | .error _ => none
      | .ok (d, s1) => unlessEvent k (writeReg k.val rd d s1) (cdrWalk k rd n)
    else none

/-- The list in rd is replaced by its first sub-list whose car is `key`, or NIL, in at most `n` cells. -/
def carSearch (k : CoreId) (rd : Gpr) (key : Cell) : Nat → State → Option State
  | 0, _ => none
  | n + 1, s =>
    let c := readReg s k.val rd
    if c.tag = tagNil then some s
    else if c.tag = tagCons ∧ ptrOk c.data = true then
      match loadCell k c.data s with
      | .error _ => none
      | .ok (a, s1) =>
        if a.tag = tagVoid ∨ a.tag = tagPoison ∨ isReservedTag a.tag = true then none
        else if a = key then some s1
        else
          match loadCell k (c.data + 8) s1 with
          | .error _ => none
          | .ok (d, s2) => unlessEvent k (writeReg k.val rd d s2) (carSearch k rd key n)
    else none

/-- The association list in rd is replaced by its first pair whose car is `key`, or NIL, in at most `n` cells. -/
def pairSearch (k : CoreId) (rd : Gpr) (key : Cell) : Nat → State → Option State
  | 0, _ => none
  | n + 1, s =>
    let c := readReg s k.val rd
    let onward := fun (q : State) => match loadCell k (c.data + 8) q with
      | .error _ => none
      | .ok (d, q1) => unlessEvent k (writeReg k.val rd d q1) (pairSearch k rd key n)
    if c.tag = tagNil then some s
    else if c.tag = tagCons ∧ ptrOk c.data = true then
      match loadCell k c.data s with
      | .error _ => none
      | .ok (el, s1) =>
        if el.tag = tagNil then onward s1
        else if el.tag = tagCons ∧ ptrOk el.data = true then
          match loadCell k el.data s1 with
          | .error _ => none
          | .ok (a, s2) =>
            if a.tag = tagVoid ∨ a.tag = tagPoison ∨ isReservedTag a.tag = true then none
            else if a = key then some (writeReg k.val rd el s2)
            else onward s2
        else none
    else none

/-- Cells are copied whole, one by one, in an order. -/
def cellCopies (k : CoreId) (src dst : Word) : List Nat → State → Option State
  | [], s => some s
  | i :: rest, s =>
    match loadCell k (src + w64 (8 * i)) s with
    | .error _ => none
    | .ok (c, s1) =>
      match storeCell k (trapAt vTagCheck 1 (src + w64 (8 * i)) c.tag) (dst + w64 (8 * i)) c s1 with
      | .error _ => none
      | .ok s2 => unlessEvent k s2 (cellCopies k src dst rest)

end Sys2Proof.Machine
end

