-- ==== Sys2Proof/Certificates/Slice0/Obligations.lean ====
section
/-!
DEFINITION. Certificates/Slice0/Obligations.lean: the statements for the provers.
-/

open Sys2Proof Sys2Proof.Machine

/-- For every command c and state s, a step of s with c put at the front of its queue is exec of c on s with the rest
of the queue. (The queue is the model's own: log entry on the queue of commands.) -/
def Obligations.StepRunsFrontCommand : Prop :=
  ∀ (c : Instr) (rest : List Instr) (s : State),
    step { s with pending := c :: rest } = exec c { s with pending := rest }

/-- With an empty queue a step answers a next state in which one more PHASE cycle has passed and device time has not
run backward; nothing but time, the counts of activations (R375) and the cores differs, and in a core only CYCLE and,
where its budget runs, the count in PSTAT. That time advances on an empty queue is the model's choice (log entry on
the PHASE cycle). -/
def Obligations.IdleStepIsOnePhaseCycle : Prop :=
  ∀ s : State, s.pending = [] → ∃ t, step s = .next t ∧
    t = { s with phaseCycles := s.phaseCycles + 1, dtime := t.dtime, activations := t.activations, cores := t.cores } ∧
    s.dtime ≤ t.dtime ∧
    ∀ k : Nat, getCore t k = { getCore s k with
        cycle := (getCore t k).cycle
        front := { front s k with pstat := (front t k).pstat } } ∧
      (nibRunOf (front s k) = false → (front t k).pstat = (front s k).pstat)

/-- For every state whose memory and register map are canonical (keys strictly rising, and nothing listed that equals
what an unlisted key reads as: VOID for a cell, the reset value for a register), if a step answers a next state, that
state's memory and register map are canonical. So equal memories are equal data, and a read after a write is what was
written. -/
def Obligations.StepKeepsCanonicalForms : Prop :=
  ∀ s t : State, Memory.wf s.mem = true → Registers.wf s.regs = true → step s = .next t →
    Memory.wf t.mem = true ∧ Registers.wf t.regs = true

/-- For every command c and state s, if exec of c on s answers a next state, the queue of waiting commands is the same
in it. With StepRunsFrontCommand: every step with a waiting command shortens the queue by exactly one, so commands
take effect first in, first out, each once. -/
def Obligations.CommandsKeepTheQueue : Prop :=
  ∀ (c : Instr) (s t : State), exec c s = .next t → t.pending = s.pending

/-- Right after power-on reset memory and the register map are canonical, every cell of memory reads VOID (the spec
leaves DDR contents open: log entry on VOID), every register reads its reset value, no core runs, each is at level K,
and no command, message, alarm, job, drive work, field-link work or host command is under way. -/
def Obligations.ResetStateIsCanonical : Prop :=
  Memory.wf State.reset.mem = true ∧ Registers.wf State.reset.regs = true ∧
  (∀ pa, memCell State.reset pa = cellVoid) ∧ (∀ r i, getReg State.reset r i = regDefault (regKey r i)) ∧
  (∀ k, (getCore State.reset k).run = false ∧ plOf (front State.reset k) = 2) ∧
  State.reset.pending = [] ∧ State.reset.mail = [] ∧ State.reset.alarms = [] ∧ State.reset.jobs = [] ∧
  State.reset.drives = [] ∧ State.reset.lanes = [] ∧ State.reset.cmds = []

/-- For a core that executes and operands tagged FIX or RAW64: each raw ALU instruction writes its result to rd,
tagged RAW64 when either operand is and FIX otherwise, with shift amounts rb[5:0]; comparisons give TRUE or NIL; MOV
copies the whole cell of any tag (not a use); any other operand tag raises TAG_CHECK with detail SOFT_TYPE, after
POISON_USE and VOID_USE. -/
def Obligations.RawAluResults : Prop :=
  ∀ (k : CoreId) (rd ra rb : Gpr) (s s1 : State), Ready k s s1 →
    let a := readReg s1 k.val ra
    let b := readReg s1 k.val rb
    let n := b.data.toNat % 64
    let put := fun (w : Word) => gives k rd ⟨if a.tag = tagRaw64 ∨ b.tag = tagRaw64 then tagRaw64 else tagFix, w⟩ s1
    let test := fun (p : Prop) [Decidable p] => gives k rd (if p then cellTrue else cellNil) s1
    exec (.mov k rd ra) s = gives k rd a s1 ∧
    (RawCell a → RawCell b →
      exec (.addr k rd ra rb) s = put (w64 (a.data.toNat + b.data.toNat)) ∧
      exec (.subr k rd ra rb) s = put (a.data - b.data) ∧
      exec (.and k rd ra rb) s = put (a.data &&& b.data) ∧
      exec (.or k rd ra rb) s = put (a.data ||| b.data) ∧
      exec (.xor k rd ra rb) s = put (a.data ^^^ b.data) ∧
      exec (.andn k rd ra rb) s = put (a.data &&& ~~~b.data) ∧
      exec (.shl k rd ra rb) s = put (w64 (a.data.toNat * 2 ^ n)) ∧
      exec (.shr k rd ra rb) s = put (w64 (a.data.toNat / 2 ^ n)) ∧
      exec (.sar k rd ra rb) s = put (BitVec.ofInt 64 (a.data.toInt / 2 ^ n)) ∧
      exec (.ror k rd ra rb) s = put (a.data >>> n ||| a.data <<< (64 - n)) ∧
      exec (.cmpeqr k rd ra rb) s = test (a.data = b.data) ∧
      exec (.cmplt k rd ra rb) s = test (a.data.toInt < b.data.toInt) ∧
      exec (.cmpltu k rd ra rb) s = test (a.data.toNat < b.data.toNat)) ∧
    (∀ c ∈ [Instr.addr k rd ra rb, .subr k rd ra rb, .and k rd ra rb, .or k rd ra rb, .xor k rd ra rb, .andn k rd ra rb,
        .shl k rd ra rb, .shr k rd ra rb, .sar k rd ra rb, .ror k rd ra rb, .cmpeqr k rd ra rb, .cmplt k rd ra rb,
        .cmpltu k rd ra rb],
      (a.tag = tagPoison → exec c s = trapsWith k (trapOn vPoisonUse 0 ra.val tagPoison) s1) ∧
      (a.tag = tagVoid → b.tag ≠ tagPoison → exec c s = trapsWith k (trapOn vVoidUse 0 ra.val tagVoid) s1) ∧
      (¬ RawCell a → isReservedTag a.tag = false → a.tag ≠ tagPoison → a.tag ≠ tagVoid → b.tag ≠ tagPoison →
        b.tag ≠ tagVoid → exec c s = trapsWith k (trapOn vTagCheck 1 ra.val a.tag) s1) ∧
      (RawCell a → ¬ RawCell b → isReservedTag b.tag = false → b.tag ≠ tagPoison → b.tag ≠ tagVoid →
        exec c s = trapsWith k (trapOn vTagCheck 1 rb.val b.tag) s1))

/-- For a core that executes: ADDI and CMPI on a FIX operand, ADDIW, ANDI, ORI, XORI and SHI on FIX or RAW64 with the
tag kept, MOVW for any rd, and SHLW on FIX or RAW64, each with imm16 sign-extended; ADDI raises FIX_OVERFLOW when the
sum leaves 64 bits; SHI raises ILLEGAL_OP when imm[15:8] is not 0. A VOID or POISON operand raises its use trap, any
other operand tag TAG_CHECK with detail SOFT_TYPE. -/
def Obligations.ImmediateResults : Prop :=
  ∀ (k : CoreId) (rd ra : Gpr) (imm : BitVec 16) (wide : BitVec 21) (s s1 : State), Ready k s s1 →
    let a := readReg s1 k.val ra
    let d := readReg s1 k.val rd
    let i : Word := BitVec.ofInt 64 imm.toInt
    let sum : Int := a.data.toInt + imm.toInt
    let n := imm.toNat % 64
    let kind := imm.toNat / 64 % 4
    (a.tag = tagFix → -(2 ^ 63) ≤ sum → sum < 2 ^ 63 →
      exec (.addi k rd ra imm) s = gives k rd ⟨tagFix, BitVec.ofInt 64 sum⟩ s1) ∧
    (a.tag = tagFix → sum < -(2 ^ 63) ∨ 2 ^ 63 ≤ sum →
      exec (.addi k rd ra imm) s = trapsWith k (trapOf vFixOverflow 0) s1) ∧
    (a.tag = tagFix → exec (.cmpi k rd ra imm) s = gives k rd ⟨tagFix, BitVec.ofInt 64
      (if a.data.toInt < imm.toInt then -1 else if imm.toInt < a.data.toInt then 1 else 0)⟩ s1) ∧
    (RawCell a →
      exec (.addiw k rd ra imm) s = gives k rd ⟨a.tag, a.data + i⟩ s1 ∧
      exec (.andi k rd ra imm) s = gives k rd ⟨a.tag, a.data &&& i⟩ s1 ∧
      exec (.ori k rd ra imm) s = gives k rd ⟨a.tag, a.data ||| i⟩ s1 ∧
      exec (.xori k rd ra imm) s = gives k rd ⟨a.tag, a.data ^^^ i⟩ s1 ∧
      (imm.toNat < 256 → exec (.shi k rd ra imm) s = gives k rd ⟨a.tag,
        if kind = 0 then w64 (a.data.toNat * 2 ^ n) else if kind = 1 then w64 (a.data.toNat / 2 ^ n)
        else if kind = 2 then BitVec.ofInt 64 (a.data.toInt / 2 ^ n) else a.data.rotateRight n⟩ s1)) ∧
    (256 ≤ imm.toNat → exec (.shi k rd ra imm) s = trapsWith k (trapOf vIllegalOp 0) s1) ∧
    exec (.movw k rd wide) s = gives k rd ⟨tagFix, BitVec.ofInt 64 wide.toInt⟩ s1 ∧
    (RawCell d → exec (.shlw k rd wide) s = gives k rd ⟨d.tag, w64 (d.data.toNat * 2 ^ 21 + wide.toNat)⟩ s1) ∧
    (∀ i ∈ [Instr.addi k rd ra imm, .cmpi k rd ra imm, .addiw k rd ra imm, .andi k rd ra imm, .ori k rd ra imm,
        .xori k rd ra imm] ++ (if imm.toNat < 256 then [Instr.shi k rd ra imm] else []),
      (a.tag = tagPoison → exec i s = trapsWith k (trapOn vPoisonUse 0 ra.val tagPoison) s1) ∧
      (a.tag = tagVoid → exec i s = trapsWith k (trapOn vVoidUse 0 ra.val tagVoid) s1) ∧
      (¬ RawCell a → a.tag ≠ tagPoison → a.tag ≠ tagVoid → isReservedTag a.tag = false →
        exec i s = trapsWith k (trapOn vTagCheck 1 ra.val a.tag) s1)) ∧
    (a.tag = tagRaw64 → ∀ i ∈ [Instr.addi k rd ra imm, .cmpi k rd ra imm],
      exec i s = trapsWith k (trapOn vTagCheck 1 ra.val tagRaw64) s1)

/-- For a core that executes and operands tagged FIX or RAW64, with pos = rb[5:0] and len = rb[13:8] + 1: BFX and BFXU
give the field of ra, sign- or zero-extended, as FIX (positions above 63 read as zero); BFI replaces the bits pos to
min(63, pos + len - 1) of rd by those of ra and keeps the other bits and the tag; CLZ, CTZ and POPC give the number of
leading zeros, trailing zeros and ones as FIX; BPERM places in byte i the byte of ra that rb[4i+2:4i] names, or 0 when
rb[4i+3] is set, with the tag of ra. -/
def Obligations.BitFieldResults : Prop :=
  ∀ (k : CoreId) (rd ra rb : Gpr) (s s1 : State), Ready k s s1 →
    let a := readReg s1 k.val ra
    let b := readReg s1 k.val rb
    let d := readReg s1 k.val rd
    let pos := b.data.toNat % 64
    let len := b.data.toNat / 256 % 64 + 1
    let field := a.data.toNat / 2 ^ pos % 2 ^ len
    (RawCell a → RawCell b →
      exec (.bfxu k rd ra rb) s = gives k rd (cellFix (w64 field)) s1 ∧
      exec (.bfx k rd ra rb) s = gives k rd (cellFix (BitVec.ofInt 64
        (if field < 2 ^ (len - 1) then (field : Int) else (field : Int) - 2 ^ len))) s1 ∧
      (∃ w : Word, exec (.bperm k rd ra rb) s = gives k rd ⟨a.tag, w⟩ s1 ∧
        ∀ i < 8, w.toNat / 2 ^ (8 * i) % 256 = (if (b.data.toNat / 2 ^ (4 * i + 3)) % 2 = 1 then 0
          else a.data.toNat / 2 ^ (8 * (b.data.toNat / 2 ^ (4 * i) % 8)) % 256))) ∧
    (RawCell d → RawCell a → RawCell b →
      ∃ w : Word, exec (.bfi k rd ra rb) s = gives k rd ⟨d.tag, w⟩ s1 ∧
        ∀ i < 64, w.getLsbD i = (if pos ≤ i ∧ i < pos + len then a.data.getLsbD (i - pos) else d.data.getLsbD i)) ∧
    (RawCell a →
      (∃ n ≤ 64, exec (.clz k rd ra) s = gives k rd (cellFix (w64 n)) s1 ∧
        (∀ i < 64, 64 - n ≤ i → a.data.getLsbD i = false) ∧ (n < 64 → a.data.getLsbD (63 - n) = true)) ∧
      (∃ n ≤ 64, exec (.ctz k rd ra) s = gives k rd (cellFix (w64 n)) s1 ∧
        (∀ i < n, a.data.getLsbD i = false) ∧ (n < 64 → a.data.getLsbD n = true)) ∧
      exec (.popc k rd ra) s = gives k rd (cellFix (w64 ((List.range 64).countP (fun i => a.data.getLsbD i)))) s1)

/-- For a core that executes, rd = 0 and operands tagged FIX or RAW64: a multiply leaves in MH:ML the 128-bit product,
at once when CMODE.MULX is 0, else as the newest of the products that wait, of which MH_ML_PRODUCT_WRITE writes the
oldest; a divide by a non-zero divisor (and not -2^63 by -1) leaves no product waiting, ML the quotient truncated
toward zero and MH the remainder. No general register, memory cell or BAR0 register changes. A zero divisor raises
FIX_OVERFLOW with detail DIV_ZERO, -2^63 by -1 with detail OVERFLOW, and rd other than 0 ILLEGAL_OP. -/
def Obligations.MultiplyDivideResults : Prop :=
  ∀ (k : CoreId) (rd ra rb : Gpr) (s s1 : State), Ready k s s1 →
    let a := readReg s1 k.val ra
    let b := readReg s1 k.val rb
    let x := front s1 k.val
    let quiet := fun (t : State) => t.mem = s1.mem ∧ t.regs = s1.regs ∧ (front t k.val).cells = x.cells ∧
      (front t k.val).ck = x.ck ∧ (getCore t k.val).mantle = (getCore s1 k.val).mantle ∧
      (front t k.val).wstat = x.wstat ∧ (front t k.val).pstat = x.pstat ∧ (front t k.val).pc = x.npc
    let product := fun (i : Instr) (p : Int) => ∃ t, exec i s = .next t ∧ quiet t ∧
      (if x.cmode.getLsbD 1 then (front t k.val).mulq =
          x.mulq ++ [(BitVec.ofInt 64 (p / 2 ^ 64), BitVec.ofInt 64 p)] ∧
          (front t k.val).mh = x.mh ∧ (front t k.val).ml = x.ml
        else (front t k.val).mh = BitVec.ofInt 64 (p / 2 ^ 64) ∧ (front t k.val).ml = BitVec.ofInt 64 p)
    let divide := fun (i : Instr) (q r : Word) => ∃ t, exec i s = .next t ∧ quiet t ∧
      (front t k.val).mulq = [] ∧ (front t k.val).ml = q ∧ (front t k.val).mh = r
    (RawCell a → RawCell b → rd.val = 0 →
      product (.muls k rd ra rb) (a.data.toInt * b.data.toInt) ∧
      product (.mulu k rd ra rb) ((a.data.toNat : Int) * b.data.toNat) ∧
      (b.data ≠ 0 → divide (.divu k rd ra rb) (w64 (a.data.toNat / b.data.toNat)) (w64 (a.data.toNat % b.data.toNat))) ∧
      (b.data ≠ 0 → ¬ (a.data.toInt = -(2 ^ 63) ∧ b.data.toInt = -1) →
        divide (.divs k rd ra rb) (BitVec.ofInt 64 (a.data.toInt.tdiv b.data.toInt))
          (BitVec.ofInt 64 (a.data.toInt.tmod b.data.toInt))) ∧
      (b.data = 0 → exec (.divs k rd ra rb) s = trapsWith k (trapOf vFixOverflow 1) s1 ∧
        exec (.divu k rd ra rb) s = trapsWith k (trapOf vFixOverflow 1) s1) ∧
      (a.data.toInt = -(2 ^ 63) → b.data.toInt = -1 →
        exec (.divs k rd ra rb) s = trapsWith k (trapOf vFixOverflow 0) s1)) ∧
    (rd.val ≠ 0 → ∀ i ∈ [Instr.muls k rd ra rb, .mulu k rd ra rb, .divs k rd ra rb, .divu k rd ra rb],
      exec i s = trapsWith k (trapOf vIllegalOp 0) s1) ∧
    (∀ (h l : Word) (rest : List (Word × Word)), (front s k.val).mulq = (h, l) :: rest →
      ∃ t, exec (.mhMlProductWrite k) s = .next t ∧ (front t k.val).mh = h ∧ (front t k.val).ml = l ∧
        (front t k.val).mulq = rest ∧ t.mem = s.mem ∧ t.regs = s.regs)

/-- For every state, core, register and cell, the state in which an instruction ends that delivers v to rd (the one
the result statements name) differs only in that core: reading rd gives v; every other cell a register number can name
(physical, CK and MK cells) reads as before; WSTAT changes only by setting the dirty bit of the valid window whose
cell was written (R57), and not at all for CK, MK and global cells (R121); PC takes NPC and NPC the next address; the
load shadow and the delay-slot mark are cleared, and the progress latch, which stays, is no longer that of a first
instruction. PSTAT, CMODE, MH, ML and every other special register, every other core, all of memory and every BAR0
register are as before. -/
def Obligations.RegisterResultFrame : Prop :=
  ∀ (k : CoreId) (rd : Gpr) (v : Cell) (s : State),
    let t := wrote k rd v s
    let x := front s k.val
    let y := front t k.val
    let l := regLoc x rd.val
    t = { s with cores := t.cores } ∧
    (∀ j, j ≠ k.val → getCore t j = getCore s j) ∧
    getCore t k.val = { getCore s k.val with front := y, mantle := (getCore t k.val).mantle } ∧
    y = { x with cells := y.cells, ck := y.ck, wstat := y.wstat, pc := x.npc, npc := x.npc + 4, dslot := false,
                 shadow := none, fresh := false, ran := true } ∧
    readLoc (getCore t k.val) l = v ∧
    (∀ l', l' < 336 → l' ≠ l → readLoc (getCore t k.val) l' = readLoc (getCore s k.val) l') ∧
    y.wstat = (if 8 ≤ l ∧ l < 300 ∧ x.wstat.getLsbD (16 + (l - 8) / 18) = true
      then putBit x.wstat (32 + (l - 8) / 18) true else x.wstat)

/-- For a core that executes. FIX with FIX: the exact sum, difference, product or quotient truncated toward zero, as
FIX. FIX or Q32 with Q32, in either order: Q32, in units of 2^-32 of X and Y; sums and differences exact, products and
quotients within half a unit of the exact value, a tie giving an even unit. A result outside 64-bit two's complement
raises FIX_OVERFLOW with detail OVERFLOW, a zero divisor with detail DIV_ZERO. -/
def Obligations.GenericIntegerArithmetic : Prop :=
  ∀ (k : CoreId) (rd ra rb : Gpr) (s s1 : State), Ready k s s1 →
    let a := readReg s1 k.val ra
    let b := readReg s1 k.val rb
    let x := a.data.toInt
    let y := b.data.toInt
    let fits := fun (r : Int) => -(2 ^ 63) ≤ r ∧ r < 2 ^ 63
    let answers := fun (i : Instr) (t : Tag) (r : Int) =>
      (fits r → exec i s = gives k rd ⟨t, BitVec.ofInt 64 r⟩ s1) ∧
      (¬ fits r → exec i s = trapsWith k (trapOf vFixOverflow 0) s1)
    let u := fun (c : Cell) => if c.tag = tagFix then c.data.toInt * 2 ^ 32 else c.data.toInt
    (a.tag = tagFix → b.tag = tagFix →
      answers (.add k rd ra rb) tagFix (x + y) ∧ answers (.sub k rd ra rb) tagFix (x - y) ∧
      answers (.mul k rd ra rb) tagFix (x * y) ∧ (y ≠ 0 → answers (.div k rd ra rb) tagFix (x.tdiv y)) ∧
      (y = 0 → exec (.div k rd ra rb) s = trapsWith k (trapOf vFixOverflow 1) s1)) ∧
    (((a.tag = tagQ32 ∧ b.tag = tagQ32) ∨ (a.tag = tagQ32 ∧ b.tag = tagFix) ∨ (a.tag = tagFix ∧ b.tag = tagQ32)) →
      answers (.add k rd ra rb) tagQ32 (u a + u b) ∧ answers (.sub k rd ra rb) tagQ32 (u a - u b) ∧
      (∃ r : Int, answers (.mul k rd ra rb) tagQ32 r ∧ 2 * (r * 2 ^ 32 - u a * u b).natAbs ≤ 2 ^ 32 ∧
        (2 * (r * 2 ^ 32 - u a * u b).natAbs = 2 ^ 32 → r % 2 = 0)) ∧
      (u b ≠ 0 → ∃ r : Int, answers (.div k rd ra rb) tagQ32 r ∧
        2 * (r * u b - u a * 2 ^ 32).natAbs ≤ (u b).natAbs ∧
        (2 * (r * u b - u a * 2 ^ 32).natAbs = (u b).natAbs → r % 2 = 0)) ∧
      (u b = 0 → exec (.div k rd ra rb) s = trapsWith k (trapOf vFixOverflow 1) s1))

/-- For a core that executes. A FLO with a number: FLO, the exact operation on the two values as binary64, rounded
once. F32X2 pairs and I32X2 pairs: each 32-bit half by itself, I32X2 wrapping, a zero divisor lane raising
FIX_OVERFLOW. PHASE n plus or minus FIX or Q32: PHASE n moved by that many revolutions (modulo 2^32 revolutions);
PHASE n minus PHASE n: Q32, the signed difference; PHASE n with PHASE m: PHASE_SOURCE. Any other combination of
operand tags that generic operations know raises TAG_CHECK with detail SOFT_TYPE on the left operand. -/
def Obligations.GenericFloatLanePhase : Prop :=
  ∀ (k : CoreId) (rd ra rb : Gpr) (s s1 : State), Ready k s s1 →
    let a := readReg s1 k.val ra
    let b := readReg s1 k.val rb
    let ops : List (Instr × GenOp) := [(.add k rd ra rb, .add), (.sub k rd ra rb, .sub), (.mul k rd ra rb, .mul),
      (.div k rd ra rb, .div)]
    let f32 := fun (w : Word) (i : Nat) => fvOf fmt32 (w.toNat / 2 ^ (32 * i) % 2 ^ 32)
    let i32 := fun (w : Word) (i : Nat) => (BitVec.ofNat 32 (w.toNat / 2 ^ (32 * i)))
    ((a.tag = tagFlo ∧ isNumber b.tag = true) ∨ (isNumber a.tag = true ∧ b.tag = tagFlo) →
      ∀ p ∈ ops, exec p.1 s = gives k rd ⟨tagFlo,
        w64 (fvTo fmt64 (fvOp p.2 (fvRound fmt64 (numVal a)) (fvRound fmt64 (numVal b))))⟩ s1) ∧
    (a.tag = tagF32x2 → b.tag = tagF32x2 →
      ∀ p ∈ ops, ∃ w : Word, exec p.1 s = gives k rd ⟨tagF32x2, w⟩ s1 ∧
        ∀ i < 2, w.toNat / 2 ^ (32 * i) % 2 ^ 32 = fvTo fmt32 (fvOp p.2 (f32 a.data i) (f32 b.data i)) % 2 ^ 32) ∧
    (a.tag = tagI32x2 → b.tag = tagI32x2 →
      (∃ w : Word, exec (.add k rd ra rb) s = gives k rd ⟨tagI32x2, w⟩ s1 ∧ ∀ i < 2, i32 w i = i32 a.data i + i32 b.data i) ∧
      (∃ w : Word, exec (.sub k rd ra rb) s = gives k rd ⟨tagI32x2, w⟩ s1 ∧ ∀ i < 2, i32 w i = i32 a.data i - i32 b.data i) ∧
      (∃ w : Word, exec (.mul k rd ra rb) s = gives k rd ⟨tagI32x2, w⟩ s1 ∧ ∀ i < 2, i32 w i = i32 a.data i * i32 b.data i) ∧
      (i32 b.data 0 ≠ 0 → i32 b.data 1 ≠ 0 → ∃ w : Word, exec (.div k rd ra rb) s = gives k rd ⟨tagI32x2, w⟩ s1 ∧
        ∀ i < 2, i32 w i = (i32 a.data i).sdiv (i32 b.data i)) ∧
      (i32 b.data 0 = 0 ∨ i32 b.data 1 = 0 →
        exec (.div k rd ra rb) s = trapsWith k (trapOf vFixOverflow 1) s1)) ∧
    (isPhase a.tag = true →
      (b.tag = tagFix → exec (.add k rd ra rb) s = gives k rd ⟨a.tag, w64 (a.data.toNat + b.data.toNat * 2 ^ 32)⟩ s1 ∧
        exec (.sub k rd ra rb) s = gives k rd ⟨a.tag, a.data - w64 (b.data.toNat * 2 ^ 32)⟩ s1) ∧
      (b.tag = tagQ32 → exec (.add k rd ra rb) s = gives k rd ⟨a.tag, a.data + b.data⟩ s1 ∧
        exec (.sub k rd ra rb) s = gives k rd ⟨a.tag, a.data - b.data⟩ s1) ∧
      (b.tag = a.tag → exec (.sub k rd ra rb) s = gives k rd ⟨tagQ32, a.data - b.data⟩ s1 ∧
        exec (.add k rd ra rb) s = trapsWith k (trapOn vTagCheck 1 ra.val a.tag) s1) ∧
      (isPhase b.tag = true → b.tag ≠ a.tag → ∀ i ∈ [Instr.add k rd ra rb, .sub k rd ra rb],
        exec i s = trapsWith k { vec := vPhaseSource, opnd := some (ra.val, a.tag) } s1) ∧
      (b.tag = tagFix ∨ b.tag = tagQ32 ∨ isPhase b.tag = true → ∀ i ∈ [Instr.mul k rd ra rb, .div k rd ra rb],
        exec i s = trapsWith k (trapOn vTagCheck 1 ra.val a.tag) s1)) ∧
    (tagGeneric a.tag = true → tagGeneric b.tag = true → b.tag ≠ a.tag →
      (a.tag = tagF32x2 ∨ a.tag = tagI32x2 ∨ b.tag = tagF32x2 ∨ b.tag = tagI32x2 ∨
        (isPhase b.tag = true ∧ isPhase a.tag = false) ∨
        (isPhase a.tag = true ∧ isPhase b.tag = false ∧ b.tag ≠ tagFix ∧ b.tag ≠ tagQ32)) →
      ∀ p ∈ ops, exec p.1 s = trapsWith k (trapOn vTagCheck 1 ra.val a.tag) s1)

/-- For a core that executes and two measurands of defined units u and w, neither LOG: unequal dimensions raise
UNIT_MISMATCH with detail DIM; otherwise: neither AFFINE, the result is in the left unit, the right operand converted
by R42; left AFFINE, the left unit, the right converted by scale only; right AFFINE, ADD gives the right unit with the
left converted by scale only, SUB raises UNIT_MISMATCH with detail AFFINE; both AFFINE, ADD raises it, and SUB gives
the NAMED unit of the dimension, both made absolute. Each result is round52 of the exact sum or difference, with the
flags of both operands and OVR added when an infinite result came of finite operands. An undefined unit raises
UNIT_MISS with detail UNDEFINED; a LOG unit raises UNIT_MISMATCH with detail LOG whatever the dimensions, the model's
reading of R46 over R43 (log entry 32). -/
def Obligations.MeasurandSumsFollowTheUnitTable : Prop :=
  ∀ (k : CoreId) (rd ra rb : Gpr) (s s1 : State), Ready k s s1 →
    let a := readReg s1 k.val ra
    let b := readReg s1 k.val rb
    let u := measUnit a.data
    let w := measUnit b.data
    let x := fvOfMeas a.data
    let y := fvOfMeas b.data
    let result := fun (v : FV) (unit : Nat) =>
      gives k rd (measCell v unit (Nat.lor (measFlags a.tag) (measFlags b.tag)) (isFin x && isFin y)) s1
    let both := [Instr.add k rd ra rb, Instr.sub k rd ra rb]
    isMeas a.tag = true → isMeas b.tag = true →
    (unitDefined s1 u = false → ∀ i ∈ both, exec i s = trapsWith k (unitMiss 1 u w (some (ra.val, a.tag))) s1) ∧
    (unitDefined s1 u = true → unitDefined s1 w = false →
      ∀ i ∈ both, exec i s = trapsWith k (unitMiss 1 u w (some (rb.val, b.tag))) s1) ∧
    (unitDefined s1 u = true → unitDefined s1 w = true →
      (unitDim s1 u ≠ unitDim s1 w → unitLog s1 u = false → unitLog s1 w = false →
        ∀ i ∈ both, exec i s = trapsWith k (unitMismatch 1 u w) s1) ∧
      (unitLog s1 u = true ∨ unitLog s1 w = true → ¬ (unitAffine s1 u = true ∧ unitAffine s1 w = true) →
        ∀ i ∈ both, exec i s = trapsWith k (unitMismatch 3 u w) s1) ∧
      (unitDim s1 u = unitDim s1 w → unitLog s1 u = false → unitLog s1 w = false →
        (unitAffine s1 u = false → unitAffine s1 w = false →
          exec (.add k rd ra rb) s = result (fvAdd x (convVal s1 y w u)) u ∧
          exec (.sub k rd ra rb) s = result (fvSub x (convVal s1 y w u)) u) ∧
        (unitAffine s1 u = true → unitAffine s1 w = false →
          exec (.add k rd ra rb) s = result (fvAdd x (convScale s1 y w u)) u ∧
          exec (.sub k rd ra rb) s = result (fvSub x (convScale s1 y w u)) u) ∧
        (unitAffine s1 u = false → unitAffine s1 w = true →
          exec (.add k rd ra rb) s = result (fvAdd (convScale s1 x u w) y) w ∧
          exec (.sub k rd ra rb) s = trapsWith k (unitMismatch 2 u w) s1) ∧
        (unitAffine s1 u = true → unitAffine s1 w = true →
          exec (.add k rd ra rb) s = trapsWith k (unitMismatch 2 u w) s1 ∧
          (∀ n, namedUnit s1 (unitDim s1 u) = some n →
            exec (.sub k rd ra rb) s = result (fvSub (toNamed s1 x u) (toNamed s1 y w)) n))))

/-- For a core that executes and two measurands of defined units, neither LOG, AFFINE operands first made absolute by
R42 with scale 1 and offset 0 (whether or not their own dimension has a NAMED unit, log entry 123): with dim the
base-by-base sum (MUL) or difference (DIV) of the dimensions and n its NAMED unit, the result is round52 of va * vb *
k (or va / vb * k), k = round64 of the product (quotient) of the scales, in unit n with the flags of both. An exponent
outside -8..+7 raises UNIT_MISS with detail DIM_RANGE, no NAMED unit NO_NAMED; both before the LOG check. Besides rd
and the flow of control only the core's product cache changes. A measurand times or divided by a number keeps its
unit. -/
def Obligations.MeasurandProductsFollowTheUnitTable : Prop :=
  ∀ (k : CoreId) (rd ra rb : Gpr) (s s1 : State), Ready k s s1 →
    let a := readReg s1 k.val ra
    let b := readReg s1 k.val rb
    let u := measUnit a.data
    let w := measUnit b.data
    let x := fvOfMeas a.data
    let y := fvOfMeas b.data
    let absolute := fun (v : FV) (n : Nat) => if unitAffine s1 n = true then toNamed s1 v n else v
    let scale := fun (n : Nat) => if unitAffine s1 n = true then FV.fin false 1 1 else unitScale s1 n
    let cases := [(Instr.mul k rd ra rb, fvMul, (fun i j => i + j : Int → Int → Int)),
      (Instr.div k rd ra rb, fvDiv, (fun i j => i - j : Int → Int → Int))]
    (isMeas a.tag = true → isMeas b.tag = true → unitDefined s1 u = true → unitDefined s1 w = true →
      ∀ p ∈ cases,
        (dimComb p.2.2 (unitDim s1 u) (unitDim s1 w) = none →
          exec p.1 s = trapsWith k (unitMiss 2 u w none) s1) ∧
        (∀ dim, dimComb p.2.2 (unitDim s1 u) (unitDim s1 w) = some dim →
          (namedUnit s1 dim = none → exec p.1 s = trapsWith k (unitMiss 3 u w none) s1) ∧
          (∀ n, namedUnit s1 dim = some n →
            (unitLog s1 u = true ∨ unitLog s1 w = true → exec p.1 s = trapsWith k (unitMismatch 3 u w) s1) ∧
            (unitLog s1 u = false → unitLog s1 w = false →
              ∃ s2, exec p.1 s = gives k rd (measCell
                  (fvMul (p.2.1 (absolute x u) (absolute y w)) (fvRound fmt64 (p.2.1 (scale u) (scale w)))) n
                  (Nat.lor (measFlags a.tag) (measFlags b.tag)) (isFin x && isFin y)) s2 ∧
                s2 = modCore k.val (fun c => { c with products := (getCore s2 k.val).products,
                                                      productLru := (getCore s2 k.val).productLru }) s1)))) ∧
    (isMeas a.tag = true → isNumber b.tag = true → unitDefined s1 u = true → unitLog s1 u = false →
      exec (.mul k rd ra rb) s = gives k rd (measCell (fvMul x (numVal b)) u (measFlags a.tag)
        (isFin x && isFin (numVal b))) s1 ∧
      exec (.div k rd ra rb) s = gives k rd (measCell (fvDiv x (numVal b)) u (measFlags a.tag)
        (isFin x && isFin (numVal b))) s1) ∧
    (isNumber a.tag = true → isMeas b.tag = true → unitDefined s1 w = true → unitLog s1 w = false →
      exec (.mul k rd ra rb) s = gives k rd (measCell (fvMul (numVal a) y) w (measFlags b.tag)
        (isFin (numVal a) && isFin y)) s1)

/-- For a core that executes. Two numbers compare by their exact values, a NaN comparing false and +0 equal to -0: for
FIX and Q32 the result is that of the integers in units of 2^-32. Two measurands need equal dimensions (else
UNIT_MISMATCH, detail DIM); the right one is converted into the left unit by R42 and compared exactly, both made
absolute first when both are AFFINE; a LOG unit compares only with itself, any other unit beside it raising
UNIT_MISMATCH with detail LOG whatever the dimensions (R46 read over R45, log entry 32). Phases of one source by the
sign of their 64-bit difference; those of two sources raise PHASE_SOURCE, lanes TAG_CHECK with detail SOFT_TYPE. The
result is TRUE or NIL. -/
def Obligations.GenericComparisons : Prop :=
  ∀ (k : CoreId) (rd ra rb : Gpr) (s s1 : State), Ready k s s1 →
    let a := readReg s1 k.val ra
    let b := readReg s1 k.val rb
    let u := fun (c : Cell) => if c.tag = tagFix then c.data.toInt * 2 ^ 32 else c.data.toInt
    let v := measUnit a.data
    let w := measUnit b.data
    let all := [Instr.eq k rd ra rb, Instr.lt k rd ra rb, Instr.le k rd ra rb]
    let test := fun (i : Instr) (p : Bool) => exec i s = gives k rd (if p then cellTrue else cellNil) s1
    let byOrder := fun (o : Option Ordering) => test (.eq k rd ra rb) (o == some .eq) ∧
      test (.lt k rd ra rb) (o == some .lt) ∧ test (.le k rd ra rb) (o == some .lt || o == some .eq)
    ((a.tag = tagFix ∨ a.tag = tagQ32) → (b.tag = tagFix ∨ b.tag = tagQ32) →
      test (.eq k rd ra rb) (decide (u a = u b)) ∧ test (.lt k rd ra rb) (decide (u a < u b)) ∧
      test (.le k rd ra rb) (decide (u a ≤ u b))) ∧
    (isNumber a.tag = true → isNumber b.tag = true → byOrder (fvCmp (numVal a) (numVal b))) ∧
    (isMeas a.tag = true → isMeas b.tag = true → unitDefined s1 v = true → unitDefined s1 w = true →
      (unitLog s1 v = true ∨ unitLog s1 w = true →
        (v = w → byOrder (fvCmp (fvOfMeas a.data) (fvOfMeas b.data))) ∧
        (v ≠ w → ∀ i ∈ all, exec i s = trapsWith k (unitMismatch 3 v w) s1)) ∧
      (unitLog s1 v = false → unitLog s1 w = false →
        (unitDim s1 v ≠ unitDim s1 w → ∀ i ∈ all, exec i s = trapsWith k (unitMismatch 1 v w) s1) ∧
        (unitDim s1 v = unitDim s1 w →
          (¬ (unitAffine s1 v = true ∧ unitAffine s1 w = true) →
            byOrder (fvCmp (fvOfMeas a.data) (convVal s1 (fvOfMeas b.data) w v))) ∧
          (unitAffine s1 v = true → unitAffine s1 w = true →
            byOrder (fvCmp (toNamed s1 (fvOfMeas a.data) v) (toNamed s1 (fvOfMeas b.data) w)))))) ∧
    (isPhase a.tag = true → b.tag = a.tag →
      test (.eq k rd ra rb) (decide (a.data = b.data)) ∧
      test (.lt k rd ra rb) (decide ((a.data - b.data).toInt < 0)) ∧
      test (.le k rd ra rb) (decide ((a.data - b.data).toInt ≤ 0))) ∧
    (isPhase a.tag = true → isPhase b.tag = true → b.tag ≠ a.tag →
      ∀ i ∈ all, exec i s = trapsWith k { vec := vPhaseSource, opnd := some (ra.val, a.tag) } s1) ∧
    ((a.tag = tagF32x2 ∨ a.tag = tagI32x2) → b.tag = a.tag →
      ∀ i ∈ all, exec i s = trapsWith k (trapOn vTagCheck 1 ra.val a.tag) s1)

/-- For a core that executes. MKMEAS rounds a FIX or FLO to binary52 in unit rb[11:0] without flags (OVR if a finite
value becomes infinite). On a measurand: MVAL gives its value as FLO, MUNIT its unit and MFLAG its flags as FIX; QOR
and QCLR set and clear flags under rb[4:0] and keep the payload; CONV to the same unit returns the operand, to another
unit of the same dimension converts by R42 keeping the flags, between a LOG unit and the NAMED unit of its dimension
by R46 (the exact value, or one of its two neighbours by the control-store image), and raises UNIT_MISMATCH with
detail LOG for a LOG unit and a unit that is not the NAMED one of its dimension, and with detail DIM across dimensions
when neither is LOG (log entry 32); MSQRT of a FLO is the binary64 root, of a measurand round52 of the root of v *
SCALE, plus OFFSET for an AFFINE unit, in the NAMED unit of the halved dimension. MUNIT, MVAL and MFLAG need no
defined unit. -/
def Obligations.MeasurandInstructions : Prop :=
  ∀ (k : CoreId) (rd ra rb : Gpr) (s s1 : State), Ready k s s1 →
    let a := readReg s1 k.val ra
    let b := readReg s1 k.val rb
    let u := measUnit a.data
    let w := measUnit b.data
    let v := fvOfMeas a.data
    let fl := a.tag.toNat % 32
    let answersWith := fun (r : FV) => ∃ s2, exec (.conv k rd ra rb) s = gives k rd (measCell r w fl (isFin v)) s2 ∧
      s2 = modCore k.val (fun c => { c with products := (getCore s2 k.val).products,
                                            productLru := (getCore s2 k.val).productLru }) s1
    ((a.tag = tagFix ∨ a.tag = tagFlo) → b.tag = tagFix →
      exec (.mkmeas k rd ra rb) s = gives k rd (measCell (numVal a) (b.data.toNat % 4096) 0 (isFin (numVal a))) s1) ∧
    (isMeas a.tag = true →
      exec (.mval k rd ra) s = gives k rd ⟨tagFlo, w64 (fvTo fmt64 v)⟩ s1 ∧
      exec (.munit k rd ra) s = gives k rd (cellFix (w64 (a.data.toNat % 4096))) s1 ∧
      exec (.mflag k rd ra) s = gives k rd (cellFix (w64 fl)) s1 ∧
      (RawCell b →
        exec (.qor k rd ra rb) s = gives k rd ⟨BitVec.ofNat 8 (0x60 + Nat.lor fl (b.data.toNat % 32)), a.data⟩ s1 ∧
        exec (.qclr k rd ra rb) s = gives k rd
          ⟨BitVec.ofNat 8 (0x60 + Nat.land fl (31 - b.data.toNat % 32)), a.data⟩ s1)) ∧
    (isMeas a.tag = true → b.tag = tagFix → unitDefined s1 u = true → unitDefined s1 w = true →
      (u = w → exec (.conv k rd ra rb) s = gives k rd a s1) ∧
      (u ≠ w → unitDim s1 u ≠ unitDim s1 w → unitLog s1 u = false → unitLog s1 w = false → exec (.conv k rd ra rb) s = trapsWith k (unitMismatch 1 u w) s1) ∧
      (u ≠ w → unitDim s1 u = unitDim s1 w → unitLog s1 u = false → unitLog s1 w = false →
        answersWith (convVal s1 v u w)) ∧
      (unitLog s1 u = false → unitLog s1 w = true → namedUnit s1 (unitDim s1 w) = some u →
        answersWith (logConv s1 k.val true w a.data)) ∧
      (unitLog s1 u = true → unitLog s1 w = false → namedUnit s1 (unitDim s1 u) = some w →
        answersWith (logConv s1 k.val false u a.data)) ∧
      (u ≠ w → unitLog s1 u = true ∨ unitLog s1 w = true →
        (unitLog s1 w = true → unitLog s1 u = false → namedUnit s1 (unitDim s1 w) ≠ some u) →
        (unitLog s1 u = true → unitLog s1 w = false → namedUnit s1 (unitDim s1 u) ≠ some w) →
        exec (.conv k rd ra rb) s = trapsWith k (unitMismatch 3 u w) s1)) ∧
    (isMeas a.tag = true → b.tag = tagFix → unitDefined s1 u = true → unitDefined s1 w = false →
      exec (.conv k rd ra rb) s = trapsWith k (unitMiss 1 u w (some (rb.val, tagFix))) s1) ∧
    (a.tag = tagFlo →
      exec (.msqrt k rd ra) s = gives k rd ⟨tagFlo, w64 (fvSqrtTo fmt64 (fvOfFlo a.data))⟩ s1) ∧
    (isMeas a.tag = true → unitDefined s1 u = true →
      (∀ dim n, dimHalf (unitDim s1 u) = some dim → namedUnit s1 dim = some n → unitLog s1 u = false →
        exec (.msqrt k rd ra) s = gives k rd (measCell (fvOf fmt52 (fvSqrtTo fmt52
          (if unitAffine s1 u then fvAdd (fvMul v (unitScale s1 u)) (unitOffset s1 u) else fvMul v (unitScale s1 u)))) n fl (isFin v)) s1) ∧
      (∀ dim, dimHalf (unitDim s1 u) = some dim → namedUnit s1 dim = none →
        exec (.msqrt k rd ra) s = trapsWith k (unitMiss 3 u 0 none) s1) ∧
      (dimHalf (unitDim s1 u) = none → exec (.msqrt k rd ra) s = trapsWith k (unitMismatch 1 u 0) s1))

/-- For a core that executes: TAGR and TCLS give the tag of ra and its class as FIX and are not uses. TSET, with rb
tagged FIX or RAW64 and ra not POISON, gives the payload of ra the tag rb[7:0]: at level T the classes NUM, IMM, MEAS
and RAW and VOID, at level S also PTR, GC and CODE, at level K also POISON; below that level it raises PRIV_OP and
writes nothing, and a reserved tag raises TAG_CHECK with detail RESERVED_TAG. -/
def Obligations.TagInstructionLevels : Prop :=
  ∀ (k : CoreId) (rd ra rb : Gpr) (s s1 : State), Ready k s s1 →
    let a := readReg s1 k.val ra
    let b := readReg s1 k.val rb
    let t : Tag := BitVec.ofNat 8 (b.data.toNat % 256)
    let cls := t.toNat / 32
    let level := plOf (front s1 k.val)
    let needed := if t = tagPoison then 2 else if cls = 2 ∨ cls = 4 ∨ cls = 5 then 1 else 0
    exec (.tagr k rd ra) s = gives k rd (cellFix (w64 a.tag.toNat)) s1 ∧
    exec (.tcls k rd ra) s = gives k rd (cellFix (w64 (a.tag.toNat / 32))) s1 ∧
    (a.tag ≠ tagPoison → RawCell b →
      (needed ≤ level → isReservedTag t = false → exec (.tset k rd ra rb) s = gives k rd ⟨t, a.data⟩ s1) ∧
      (level < needed → exec (.tset k rd ra rb) s = trapsWith k (trapOf vPrivOp 0) s1) ∧
      (needed ≤ level → isReservedTag t = true →
        exec (.tset k rd ra rb) s = trapsWith k (trapOn vTagCheck 3 rb.val b.tag) s1)) ∧
    (a.tag = tagPoison → exec (.tset k rd ra rb) s = trapsWith k (trapOn vPoisonUse 0 ra.val tagPoison) s1)

/-- For a core that executes, outside a delay slot, with PC and NPC the present ones and target = PC + 4 *
displacement: a branch that is not taken goes on at NPC and its slot executes; a taken one goes to NPC, then the
target, with the slot executing, or with a = 1 directly to the target with the slot annulled. BA is always taken, BN
never; BNIL and BNNIL test ra for NIL (any tag but POISON, VOID and reserved ones), BZ to BGTZ compare the value of a
FIX, FLO, Q32 or measurand with zero (for a NaN only BNZ and BNAN are taken), BTAG and BNTAG compare the tag of ra, or
only its class with m = 1, without a use. No register, memory cell or BAR0 register changes. In a delay slot each
raises ILLEGAL_OP with detail DELAY_SLOT. -/
def Obligations.BranchesTakeAndAnnul : Prop :=
  ∀ (k : CoreId) (annul hint m : Bool) (ra : Gpr) (tag : BitVec 8) (d10 : BitVec 10) (d15 : BitVec 15) (s s1 : State),
    Ready k s s1 →
    let a := readReg s1 k.val ra
    let x := front s1 k.val
    let target := fun (d : Int) => x.pc + BitVec.ofInt 64 (4 * d)
    let goes := fun (i : Instr) (taken : Bool) (d : Int) => ∃ t, exec i s = .next t ∧
      t.mem = s1.mem ∧ t.regs = s1.regs ∧
      (∀ l < 336, readLoc (getCore t k.val) l = readLoc (getCore s1 k.val) l) ∧
      (front t k.val).pstat = x.pstat ∧ (front t k.val).wstat = x.wstat ∧
      (if taken then
        if annul then (front t k.val).pc = target d ∧ (front t k.val).npc = target d + 4 ∧
          (front t k.val).dslot = false
        else (front t k.val).pc = x.npc ∧ (front t k.val).npc = target d ∧ (front t k.val).dslot = true
      else (front t k.val).pc = x.npc ∧ (front t k.val).npc = x.npc + 4 ∧ (front t k.val).dslot = true)
    let same := if m then a.tag.toNat / 32 == tag.toNat / 32 else a.tag == tag
    let order := fvCmp (if isMeas a.tag then fvOfMeas a.data else numVal a) (.fin false 0 1)
    (x.dslot = false →
      goes (.ba k annul hint ra d15) true d15.toInt ∧ goes (.bn k annul hint ra d15) false d15.toInt ∧
      goes (.btag k annul hint ra m tag d10) same d10.toInt ∧
      goes (.bntag k annul hint ra m tag d10) (!same) d10.toInt ∧
      (a.tag ≠ tagPoison → a.tag ≠ tagVoid → isReservedTag a.tag = false →
        goes (.bnil k annul hint ra d15) (a.tag == tagNil) d15.toInt ∧
        goes (.bnnil k annul hint ra d15) (a.tag != tagNil) d15.toInt) ∧
      (isNumber a.tag = true ∨ isMeas a.tag = true →
        goes (.bz k annul hint ra d15) (order == some .eq) d15.toInt ∧
        goes (.bnz k annul hint ra d15) (order != some .eq) d15.toInt ∧
        goes (.bltz k annul hint ra d15) (order == some .lt) d15.toInt ∧
        goes (.bgez k annul hint ra d15) (order == some .gt || order == some .eq) d15.toInt ∧
        goes (.blez k annul hint ra d15) (order == some .lt || order == some .eq) d15.toInt ∧
        goes (.bgtz k annul hint ra d15) (order == some .gt) d15.toInt ∧
        goes (.bnan k annul hint ra d15) (order == none) d15.toInt) ∧
      (isNumber a.tag = false → isMeas a.tag = false → a.tag ≠ tagPoison → a.tag ≠ tagVoid →
        isReservedTag a.tag = false →
        ∀ i ∈ [Instr.bz k annul hint ra d15, .bnz k annul hint ra d15, .bltz k annul hint ra d15,
          .bgez k annul hint ra d15, .blez k annul hint ra d15, .bgtz k annul hint ra d15, .bnan k annul hint ra d15],
          exec i s = trapsWith k (trapOn vTagCheck 1 ra.val a.tag) s1)) ∧
    (x.dslot = true → ∀ i ∈ [Instr.ba k annul hint ra d15, .bn k annul hint ra d15, .bnil k annul hint ra d15,
        .bnnil k annul hint ra d15, .bz k annul hint ra d15, .bnz k annul hint ra d15, .bltz k annul hint ra d15,
        .bgez k annul hint ra d15, .blez k annul hint ra d15, .bgtz k annul hint ra d15, .bnan k annul hint ra d15,
        .btag k annul hint ra m tag d10, .bntag k annul hint ra m tag d10],
      exec i s = trapsWith k (trapOf vIllegalOp 1) s1)

/-- For a core that executes: NOP only goes on. Outside a delay slot, JMP and JMPL go to a CODEPTR or RETADDR in ra
whose payload obeys R24, RET to a RETADDR in x0 (whatever CKMAP holds), CALL to the address of its cell plus 8 *
disp26; each with its slot executing first. JMPL and CALL write RETADDR of the next cell into x0 and, in slot 1, raise
ILLEGAL_OP with detail SLOT1_LINK; every other cell a register number can name keeps its value. In a delay slot each
raises ILLEGAL_OP with detail DELAY_SLOT; a target operand of another tag raises TAG_CHECK with detail SOFT_TYPE, one
whose payload breaks R24 with detail BAD_PTR. -/
def Obligations.JumpsAndCalls : Prop :=
  ∀ (k : CoreId) (ra : Gpr) (disp : BitVec 26) (s s1 : State), Ready k s s1 →
    let a := readReg s1 k.val ra
    let x := front s1 k.val
    let x0 := x0Loc x
    let r := readAt s1 k.val x0
    let slot1 := x.pc.toNat / 4 % 2 = 1
    let cellAddr := x.pc.toNat / 8 * 8
    let code := fun (c : Cell) => c.data.toNat % 8 = 0 ∧ c.data.toNat < 2 ^ 48
    let goes := fun (i : Instr) (target : Word) (link : Bool) => ∃ t, exec i s = .next t ∧
      t.mem = s1.mem ∧ t.regs = s1.regs ∧ (front t k.val).pstat = x.pstat ∧
      (front t k.val).pc = x.npc ∧ (front t k.val).npc = target ∧ (front t k.val).dslot = true ∧
      (∀ l < 336, l ≠ x0 → readLoc (getCore t k.val) l = readLoc (getCore s1 k.val) l) ∧
      readLoc (getCore t k.val) x0 = (if link then ⟨tagRetaddr, w64 (cellAddr + 8)⟩ else readLoc (getCore s1 k.val) x0)
    (exec (.nop k) s = .next (finish k.val .seq s1)) ∧
    (x.dslot = false →
      ((a.tag = tagCodeptr ∨ a.tag = tagRetaddr) → code a →
        goes (.jmp k ra) a.data false ∧ (¬ slot1 → goes (.jmpl k ra) a.data true)) ∧
      (r.tag = tagRetaddr → code r → goes (.ret k) r.data false) ∧
      (¬ slot1 → goes (.call k disp) (w64 cellAddr + BitVec.ofInt 64 (8 * disp.toInt)) true) ∧
      (slot1 → exec (.call k disp) s = trapsWith k (trapOf vIllegalOp 5) s1 ∧
        exec (.jmpl k ra) s = trapsWith k (trapOf vIllegalOp 5) s1) ∧
      (∀ i ∈ Instr.jmp k ra :: (if slot1 then [] else [Instr.jmpl k ra]),
        (a.tag ≠ tagCodeptr → a.tag ≠ tagRetaddr → a.tag ≠ tagPoison → a.tag ≠ tagVoid → isReservedTag a.tag = false →
          exec i s = trapsWith k (trapOn vTagCheck 1 ra.val a.tag) s1) ∧
        ((a.tag = tagCodeptr ∨ a.tag = tagRetaddr) → ¬ code a → exec i s = trapsWith k (trapOn vTagCheck 2 ra.val a.tag) s1)) ∧
      (r.tag ≠ tagRetaddr → r.tag ≠ tagPoison → r.tag ≠ tagVoid → isReservedTag r.tag = false →
        exec (.ret k) s = trapsWith k (trapOn vTagCheck 1 18 r.tag) s1) ∧
      (r.tag = tagRetaddr → ¬ code r → exec (.ret k) s = trapsWith k (trapOn vTagCheck 2 18 tagRetaddr) s1)) ∧
    (x.dslot = true → ∀ i ∈ [Instr.jmp k ra, .jmpl k ra, .ret k, .call k disp, .retx k],
      exec i s = trapsWith k (trapOf vIllegalOp 1) s1)

/-- For a core that executes, with n = CWP + 1 modulo 16: when window n or n + 1 is valid ENTER raises WOVF and
nothing has changed; otherwise CWP = n, window n is valid and dirty, the 12 home cells of n and the 6 incoming cells
of n + 1 are VOID, and every other cell, among them the incoming group of n, and every other bit of WSTAT is as
before. -/
def Obligations.EnterOpensAFrame : Prop :=
  ∀ (k : CoreId) (s s1 : State), Ready k s s1 →
    let x := front s1 k.val
    let n := (x.wstat.toNat % 16 + 1) % 16
    let n1 := (n + 1) % 16
    let valid := fun (w : Nat) => x.wstat.getLsbD (16 + w)
    let claimed := fun (p : Nat) => (8 + 18 * n + 6 ≤ p ∧ p < 8 + 18 * n + 18) ∨ (8 + 18 * n1 ≤ p ∧ p < 8 + 18 * n1 + 6)
    (valid n = true ∨ valid n1 = true → exec (.enter k) s = trapsWith k (trapOf vWovf 0) s1) ∧
    (valid n = false → valid n1 = false → ∃ t, exec (.enter k) s = .next t ∧
      t.mem = s1.mem ∧ t.regs = s1.regs ∧ (front t k.val).pc = x.npc ∧
      (front t k.val).pstat = x.pstat ∧ (front t k.val).csp = x.csp ∧
      (front t k.val).wstat.toNat % 16 = n ∧
      (∀ i, 4 ≤ i → i < 64 → (front t k.val).wstat.getLsbD i =
        (if i = 16 + n ∨ i = 32 + n then true else x.wstat.getLsbD i)) ∧
      ∀ p < 336, readLoc (getCore t k.val) p = (if claimed p then cellVoid else readLoc (getCore s1 k.val) p))

/-- For a core that executes, with w = CWP + 15 modulo 16: when window w is not valid LEAVE raises WUNF and nothing
has changed; otherwise CWP = w, the window left is neither valid nor dirty, every other bit of WSTAT is as before and
no cell changes. -/
def Obligations.LeaveReturnsToTheCaller : Prop :=
  ∀ (k : CoreId) (s s1 : State), Ready k s s1 →
    let x := front s1 k.val
    let cwp := x.wstat.toNat % 16
    let w := (cwp + 15) % 16
    (x.wstat.getLsbD (16 + w) = false → exec (.leave k) s = trapsWith k (trapOf vWunf 0) s1) ∧
    (x.wstat.getLsbD (16 + w) = true → ∃ t, exec (.leave k) s = .next t ∧
      t.mem = s1.mem ∧ t.regs = s1.regs ∧ (front t k.val).pc = x.npc ∧ (front t k.val).pstat = x.pstat ∧
      (front t k.val).csp = x.csp ∧ (front t k.val).wstat.toNat % 16 = w ∧
      (∀ i, 4 ≤ i → i < 64 → (front t k.val).wstat.getLsbD i =
        (if i = 16 + cwp ∨ i = 32 + cwp then false else x.wstat.getLsbD i)) ∧
      ∀ p < 336, readLoc (getCore t k.val) p = readLoc (getCore s1 k.val) p)

/-- For a core that executes and is scanned. SPILLW with the bottom window b not the current one and CSP + 144 at most
CLIM: when the 18 whole-cell stores of the incoming and home cells of b from CSP on all succeed, CSP grows by 144 and
window b is neither valid nor dirty. FILLW with fewer than 15 valid windows and CSP - 144 at least CBASE: when the 18
loads from CSP - 144 all succeed, CSP shrinks by 144, the window below the bottom one takes the cells and is valid and
clean. CELLAR_LIMIT reports CSP, with detail SPILLW or FILLW; b = CWP, or 15 valid windows, raises ILLEGAL_OP with
detail STATE; a store or load that faults takes that trap, a store after the cells it has stored. -/
def Obligations.SpillAndFillMoveOneFrame : Prop :=
  ∀ (k : CoreId) (s s1 : State),
    let x := front s1 k.val
    let b := bottomWindow x.wstat
    let f := (b + 15) % 16
    (canRun s k.val = true →
      scanUnits k.val true (frameUnits (front s k.val) ++ [2 + bottomWindow (front s k.val).wstat,
        18 + bottomWindow (front s k.val).wstat]) s = .ok s1 → bottomWindow (front s k.val).wstat = b →
      (b = x.wstat.toNat % 16 → exec (.spillw k) s = trapsWith k (trapOf vIllegalOp 2) s1) ∧
      (b ≠ x.wstat.toNat % 16 → x.clim.toNat < x.csp.toNat + 144 →
        exec (.spillw k) s = trapsWith k { vec := vCellarLimit, detail := 0, addr := some x.csp } s1) ∧
      (b ≠ x.wstat.toNat % 16 → x.csp.toNat + 144 ≤ x.clim.toNat →
        (∀ s2, storeFrame k.val x.csp (((List.range 18).map (fun i => 8 + 18 * b + i)).map (readLoc (getCore s1 k.val))) s1
            = (s2, none) →
          ∃ t, exec (.spillw k) s = .next t ∧ t.mem = s2.mem ∧ (front t k.val).csp = x.csp + 144 ∧
            (front t k.val).wstat = putBit (putBit (front s2 k.val).wstat (16 + b) false) (32 + b) false) ∧
        (∀ s2 tr, storeFrame k.val x.csp (((List.range 18).map (fun i => 8 + 18 * b + i)).map
            (readLoc (getCore s1 k.val))) s1 = (s2, some tr) →
          exec (.spillw k) s = .next (takeTrap k.val tr s2)))) ∧
    (Ready k s s1 →
      (validCount x.wstat = 15 → exec (.fillw k) s = trapsWith k (trapOf vIllegalOp 2) s1) ∧
      (validCount x.wstat ≠ 15 → x.csp.toNat < x.cbase.toNat + 144 →
        exec (.fillw k) s = trapsWith k { vec := vCellarLimit, detail := 1, addr := some x.csp } s1) ∧
      (validCount x.wstat ≠ 15 → x.cbase.toNat + 144 ≤ x.csp.toNat →
        (∀ cs s2, loadFrame k.val 18 (x.csp - 144) s1 = .ok (cs, s2) →
          ∃ t, exec (.fillw k) s = .next t ∧ t.mem = s2.mem ∧ (front t k.val).csp = x.csp - 144 ∧
            (front t k.val).wstat = putBit (putBit (front s2 k.val).wstat (16 + f) true) (32 + f) false ∧
            ∀ i < 18, readLoc (getCore t k.val) (8 + 18 * f + i) = cs.getD i cellVoid) ∧
        (∀ tr s2, loadFrame k.val 18 (x.csp - 144) s1 = .error (tr, s2) →
          exec (.fillw k) s = trapsWith k tr s1)))

/-- For every state, core and trap, with the CLOAK and the MANTLE free (CB = MB = 0) and H the higher of PSTAT.PL and
the vector's minimum level: when the handler cell at VBR_H + 8 * vector and the budget cell of the level block can be
read and are well formed, TPC and TNPC take bits [47:2] of PC and NPC, TSTAT takes PSTAT as it reads (EE 1 at level T,
log entry 126), TCAUSE holds vector, DSLOT, the reported operand and DETAIL, TADDR the address as RAW64 or VOID, TPROG
the progress latch at the first instruction after it was loaded, else VOID; PSTAT gets PL = H, CB = 1, CKMAP = 1, MB =
0, and EE = 0 with the budget running, or EE = 1 when the budget is 0; PC is the handler and NPC the next address. The
register cells, CK cells, WSTAT, memory, BAR0 registers and every other core are as before. The same trap while MB = 1
stops the core's handlers: it is the third fault. -/
def Obligations.SynchronousTrapEntry : Prop :=
  ∀ (k : CoreId) (tr : Machine.Trap) (s : State),
    let x := front s k.val
    let h := max (plOf x) (vecMin tr.vec)
    let q := wrongPathCount k.val 0 s
    let y := front (takeTrap k.val tr s) k.val
    (cbOf x = false → mbOf x = false → (∀ o, tr.opnd = some o → o.1 < 32) → ∀ handler nib,
      handlerAt q k.val h (vbrOf s k.val h + w64 (8 * tr.vec)) = some handler → syncNib q k.val h = some nib →
      (takeTrap k.val tr s).mem = s.mem ∧ (takeTrap k.val tr s).regs = s.regs ∧
      (∀ j, j ≠ k.val → getCore (takeTrap k.val tr s) j = getCore s j) ∧
      y.cells = x.cells ∧ y.ck = x.ck ∧ y.wstat = x.wstat ∧
      y.tpc = addrField x.pc ∧ y.tnpc = addrField x.npc ∧ y.tstat = pstatRead x ∧ y.tprog = progOf x ∧
      y.taddr = (match tr.addr with | some a => cellRaw a | none => cellVoid) ∧
      y.tcause.toNat % 64 = tr.vec % 64 ∧ y.tcause.getLsbD 7 = x.dslot ∧ y.tcause.getLsbD 6 = false ∧
      y.tcause.toNat / 2 ^ 22 % 2 ^ 10 = tr.detail % 1024 ∧ y.tcause.getLsbD 21 = tr.opnd.isSome ∧
      (∀ o, tr.opnd = some o → y.tcause.toNat / 2 ^ 16 % 32 = o.1 ∧ y.tcause.toNat / 2 ^ 56 = o.2.toNat) ∧
      plOf y = h ∧ cbOf y = true ∧ ckmapOf y = true ∧ mbOf y = false ∧
      (nib = 0 → y.pstat.getLsbD 2 = true ∧ nibRunOf y = false) ∧
      (nib ≠ 0 → y.pstat.getLsbD 2 = false ∧ nibRunOf y = true ∧ nibRemOf y = nib) ∧
      y.pc = handler ∧ y.npc = handler + 4 ∧ y.dslot = false ∧ y.shadow = none ∧ y.mulq = []) ∧
    (mbOf x = true → takeTrap k.val tr s = thirdFault k.val (causeOf tr x.dslot) false q)

/-- For every state and core with MB = 0, a trap whose handler cell cannot be read or is malformed takes a double
fault with detail BAD_VECTOR: MTPC, MTNPC and MTSTAT receive PC, NPC and PSTAT as they read (log entries 125 and 126),
MTCAUSE has VEC 0, the failed vector in EVNO and the detail, MTADDR the address that failed as RAW64, MK15 is DFSP as
RAW64; when the cell at VBR_K is a well-formed CODEPTR, PSTAT has PL = K, MB = 1, EE = 0 with CB unchanged and PC is
that handler; otherwise it is the third fault. The CLOAK and memory are untouched. -/
def Obligations.FailedEntryEntersTheMantle : Prop :=
  ∀ (k : CoreId) (tr : Machine.Trap) (s : State),
    let x := front s k.val
    let c := getCore s k.val
    let h := max (plOf x) (vecMin tr.vec)
    let q := wrongPathCount k.val 0 s
    let va := vbrOf s k.val h + w64 (8 * tr.vec)
    let t := takeTrap k.val tr s
    let y := front t k.val
    let d := getCore t k.val
    let cause := putBits (putBits (putBits (causeOf tr x.dslot) 5 0 0) 31 22 1) 15 8 tr.vec
    let pstat := putBits (putBits (putBits x.pstat 19 6 0) 5 5 1) 2 0 2
    mbOf x = false → handlerAt q k.val h va = none → ∀ q1,
    q1 = setCore k.val { getCore q k.val with
      mtpc := addrField x.pc, mtnpc := addrField x.npc, mtstat := pstatRead x, mtcause := cause, mtaddr := cellRaw va, mtprog := progOf x,
      mantle := sparsePut (fun _ => cellVoid) 15 (cellRaw c.dfsp) c.mantle,
      front := { flushMul x with pstat := pstat, dslot := false, shadow := none, latch := cellVoid } } q →
    (readVa q1 k.val 2 c.vbrK = none → t = thirdFault k.val 0 true q1) ∧
    (∀ hc s2, readVa q1 k.val 2 c.vbrK = some (hc, s2) → hc.tag ≠ tagCodeptr ∨ ptrOk hc.data = false →
      t = thirdFault k.val 0 true s2) ∧
    (∀ hc s2, readVa q1 k.val 2 c.vbrK = some (hc, s2) → hc.tag = tagCodeptr → ptrOk hc.data = true →
      d.mtpc = addrField x.pc ∧ d.mtnpc = addrField x.npc ∧ d.mtstat = pstatRead x ∧ d.mtaddr = cellRaw va ∧ d.mtprog = progOf x ∧
      d.mtcause.toNat % 64 = 0 ∧ d.mtcause.toNat / 2 ^ 22 % 2 ^ 10 = 1 ∧ d.mtcause.toNat / 2 ^ 8 % 2 ^ 8 = tr.vec % 256 ∧
      readLoc d 335 = cellRaw c.dfsp ∧
      plOf y = 2 ∧ mbOf y = true ∧ y.pstat.getLsbD 2 = false ∧ cbOf y = cbOf x ∧
      y.tpc = x.tpc ∧ y.tcause = x.tcause ∧ y.ck = x.ck ∧ y.cells = x.cells ∧ y.pc = hc.data ∧ y.npc = hc.data + 4 ∧
      t.mem = s2.mem ∧ t.regs = s2.regs)

/-- For a core that executes: TRAP outside a delay slot takes KCALL at level S or K when detail bit 9 is set, else
SOFTWARE, with its detail; in a delay slot ILLEGAL_OP. An unassigned opcode takes ILLEGAL_OP with detail ENCODING. A
fetch from PC takes the translation's fetch trap, or FETCH_TAG with TAGSEEN when the cell there is not INSN2, at PC;
when the fetch meets neither, the command changes nothing. A core that does not execute ignores all three. -/
def Obligations.TrapInstructionAndFetchTraps : Prop :=
  ∀ (k : CoreId) (detail : BitVec 10) (s s1 : State),
    let x := front s1 k.val
    (Ready k s s1 →
      (x.dslot = false → exec (.trap k detail) s = trapsWith k { vec := (
        if plOf x ≠ 0 ∧ detail.getLsbD 9 = true then 21 else 20), detail := detail.toNat } s1) ∧
      (x.dslot = true → exec (.trap k detail) s = trapsWith k (trapOf vIllegalOp 1) s1) ∧
      exec (.unassignedOpcode k) s = trapsWith k (trapOf vIllegalOp 0) s1) ∧
    (canRun s k.val = true →
      let x0 := front s k.val
      (∀ f, translate s k.val (plOf x0) .fetch x0.pc = .error f →
        exec (.fetchFault k) s = trapsWith k (xTrap f .fetch x0.pc) s) ∧
      (∀ l, translate s k.val (plOf x0) .fetch x0.pc = .ok l →
        let c := corePeek s k.val (l.pa / 8 * 8)
        (c.tag = tagInsn2 → exec (.fetchFault k) s = .next s) ∧
        (c.tag ≠ tagInsn2 → exec (.fetchFault k) s =
          trapsWith k { vec := 1, detail := 0, seen := some c.tag, addr := some x0.pc } s))) ∧
    (canRun s k.val = false →
      exec (.trap k detail) s = .next s ∧ exec (.unassignedOpcode k) s = .next s ∧ exec (.fetchFault k) s = .next s)

/-- For a core that runs and that no reset or move stops where it stands: with no event it can take EVENT_ENTRY
changes nothing; otherwise it takes a pending event it may take, of level K if there is one. When that event's
descriptor is well formed and the CLOAK is free, the event is no longer pending, TPC, TNPC and TSTAT take PC, NPC and
PSTAT, TCAUSE has ASYNC and EVNO, CK0 holds CONTEXT, PL is the descriptor's level with CB = CKMAP = 1, and PC its
handler. NIB_EXPIRY with NIBRUN = 1 sets EE and TSTAT.NIB_EXPIRED and ends the budget, and changes nothing else. -/
def Obligations.EventEntryAndBudgets : Prop :=
  ∀ (k : CoreId) (s : State),
    let x := front s k.val
    (going s k.val = false ∨ eventChoice s k.val = none → exec (.eventEntry k) s = .next s) ∧
    (going s k.val = true → ∀ e d, eventChoice s k.val = some e →
      readDescriptor (wrongPathCount k.val 0 s) k.val e = .ok d → d.ok = true → cbOf x = false →
      ∃ t, exec (.eventEntry k) s = .next t ∧
        let y := front t k.val
        e ∈ (getCore s k.val).events ∧ (∀ n, n ∈ (getCore t k.val).events ↔ n ∈ (getCore s k.val).events ∧ n ≠ e) ∧
        (∀ n ∈ (getCore s k.val).events, eventPermitted x (eventLevel s k.val n) = true →
          (eventLevel s k.val e = 2 ∨ eventLevel s k.val n ≠ 2)) ∧
        y.tpc = addrField x.pc ∧ y.tnpc = addrField x.npc ∧ y.tstat = pstatRead x ∧ y.tprog = progOf x ∧
        y.taddr = (if e = 0 then cellRaw (getCore s k.val).storeErr.1 else cellVoid) ∧
        y.tcause.getLsbD 6 = true ∧ y.tcause.toNat / 2 ^ 8 % 2 ^ 8 = e % 256 ∧
        sparseGet (fun _ => cellVoid) y.ck 0 = d.context ∧
        (∀ i, i ≠ 0 → sparseGet (fun _ => cellVoid) y.ck i = sparseGet (fun _ => cellVoid) x.ck i) ∧
        plOf y = d.ctl.data.toNat / 2 % 4 ∧ cbOf y = true ∧ ckmapOf y = true ∧
        y.pc = d.handler.data ∧ y.npc = d.handler.data + 4 ∧ y.cells = x.cells ∧ t.mem = s.mem ∧ t.regs = s.regs) ∧
    (nibRunOf x = true → ∃ t, exec (.nibExpiry k) s = .next t ∧
      (front t k.val).pstat.getLsbD 2 = true ∧ nibRunOf (front t k.val) = false ∧ nibRemOf (front t k.val) = 0 ∧
      (front t k.val).tstat.getLsbD 6 = true ∧
      front t k.val = { x with pstat := (front t k.val).pstat, tstat := (front t k.val).tstat } ∧
      t = { s with cores := t.cores }) ∧
    (nibRunOf x = false → exec (.nibExpiry k) s = .next s)

/-- For a core that executes, outside a delay slot: at level T RETX raises PRIV_OP; a saved level 3 or above the
present one raises PRIV_RESTORE; a saved TPC or TNPC with bits [1:0] or [63:48] set, or a saved MB, raises ILLEGAL_OP
with detail RETURN. Otherwise, from the CLOAK with saved CB = 0: PC and NPC are TPC and TNPC, PSTAT is TSTAT with
NIB_EXPIRED and PHDR cleared, the progress latch takes TPROG, which becomes VOID, and the CK cells stay; from the
MANTLE: PC, NPC, PSTAT and the latch come from MTPC, MTNPC, MTSTAT and MTPROG, which becomes VOID, and the CLOAK is
untouched. From the CLOAK with saved CB = 1, when the frame at the header that PHDR names can be read and the header
written, the 22 cells of the frame replace the CLOAK. -/
def Obligations.RetxRestoresTheSavedSet : Prop :=
  ∀ (k : CoreId) (s s1 : State), Ready k s s1 → (front s1 k.val).dslot = false →
    let x := front s1 k.val
    let c := getCore s1 k.val
    let mb := mbOf x
    let pc := if mb then c.mtpc else x.tpc
    let npc := if mb then c.mtnpc else x.tnpc
    let stat := if mb then c.mtstat else x.tstat
    let prog := if mb then c.mtprog else x.tprog
    let level := stat.toNat % 4
    let bad := fun (w : Word) => w.toNat % 4 ≠ 0 ∨ 2 ^ 48 ≤ w.toNat
    let resumed := fun (y : Ctx) => y.pc = pc ∧ y.npc = npc ∧ y.latch = prog ∧ y.fresh = true ∧
      y.pstat = putBits (putBit stat 6 false) 63 20 0 ∧ y.cells = x.cells ∧ y.wstat = x.wstat ∧ y.shadow = none
    (plOf x = 0 → exec (.retx k) s = trapsWith k (trapOf vPrivOp 0) s1) ∧
    (plOf x ≠ 0 → level = 3 ∨ plOf x < level → exec (.retx k) s = trapsWith k (trapOf vPrivRestore 0) s1) ∧
    (plOf x ≠ 0 → level ≠ 3 → level ≤ plOf x → bad pc ∨ bad npc ∨ stat.getLsbD 5 = true →
      exec (.retx k) s = trapsWith k (trapOf vIllegalOp 3) s1) ∧
    (plOf x ≠ 0 → level ≠ 3 → level ≤ plOf x → ¬ bad pc → ¬ bad npc → stat.getLsbD 5 = false →
      (mb = false → stat.getLsbD 3 = false → ∃ t, exec (.retx k) s = .next t ∧ resumed (front t k.val) ∧
        (front t k.val).tprog = cellVoid ∧ (front t k.val).ck = x.ck ∧ (front t k.val).tpc = x.tpc ∧
        t.mem = s1.mem ∧ t.regs = s1.regs) ∧
      (mb = true → ∃ t, exec (.retx k) s = .next t ∧ resumed (front t k.val) ∧
        (getCore t k.val).mtprog = cellVoid ∧ (front t k.val).tprog = x.tprog ∧ (front t k.val).ck = x.ck ∧ (front t k.val).tpc = x.tpc ∧
        t.mem = s1.mem ∧ t.regs = s1.regs) ∧
      (mb = false → stat.getLsbD 3 = true → ∀ hs fr s2 s3 s4,
        let hdr := w64 (stat.toNat / 2 ^ 20 % 2 ^ 42 * 64)
        readVas k.val (plOf x) 2 hdr (wrongPathCount k.val 0 s1) = .ok (hs, s2) →
        headerOk (hs.getD 0 cellVoid) = true → headerOk (hs.getD 1 cellVoid) = true →
        readVas k.val (plOf x) 24 (hs.getD 0 cellVoid).data s2 = .ok (fr, s3) →
        writeVaNow s3 k.val (plOf x) hdr (cellRaw ((hs.getD 0 cellVoid).data + 192)) = some s4 →
        ∃ t, exec (.retx k) s = .next t ∧ (front t k.val).pc = pc ∧ (front t k.val).npc = npc ∧
          (front t k.val).pstat = putBits (putBit stat 6 false) 63 20 0 ∧ (front t k.val).latch = prog ∧ (front t k.val).fresh = true ∧
          (∀ i < 16, sparseGet (fun _ => cellVoid) (front t k.val).ck i = fr.getD i cellVoid) ∧
          (front t k.val).tpc = addrField (fr.getD 16 cellVoid).data ∧ (front t k.val).tnpc = addrField (fr.getD 17 cellVoid).data ∧
          (front t k.val).tstat = putBits (fr.getD 18 cellVoid).data 63 62 0 ∧ (front t k.val).tcause = (fr.getD 19 cellVoid).data ∧
          (front t k.val).taddr = fr.getD 20 cellVoid ∧ (front t k.val).tprog = fr.getD 21 cellVoid ∧ t.mem = s4.mem))

/-- For a core that executes and ra = 0: MFS of each special register of the map delivers its value at the level the
map gives, tagged RAW64 unless the map states another tag (CYCLE FIX, DTIME PHASE 15; CK and MK cells, TADDR and TPROG
as they stand; S2TTB with S2EN 1 on an assigned core; PSTAT reads EE as 1 at level T and NIB_EXPIRED and PHDR as 0).
Below that level it raises PRIV_OP; an unassigned number, or ra other than 0, raises ILLEGAL_OP. -/
def Obligations.SpecialRegisterReads : Prop :=
  ∀ (k : CoreId) (rd ra : Gpr) (spr : BitVec 10) (s s1 : State), Ready k s s1 →
    let x := front s1 k.val
    let c := getCore s1 k.val
    let n := spr.toNat
    let ck := fun (m : Sparse Cell) (i : Nat) => sparseGet (fun _ => cellVoid) m i
    let pstat := putBits (putBit (if plOf x = 0 then putBit x.pstat 2 true else x.pstat) 6 false) 63 20 0
    let table : List (Nat × Nat × Cell) :=
      [(0x000, 0, cellRaw pstat), (0x001, 0, cellRaw x.cmode), (0x002, 0, cellRaw x.wstat), (0x003, 0, cellRaw x.csp),
       (0x004, 0, cellRaw x.cbase), (0x005, 0, cellRaw x.clim), (0x006, 0, cellRaw x.mh), (0x007, 0, cellRaw x.ml),
       (0x008, 0, cellRaw x.ctxid), (0x009, 0, cellRaw (w64 x.predStatic.toNat)), (0x00A, 1, cellRaw x.s1ttb),
       (0x00B, 1, cellRaw x.attrpal), (0x010, 0, cellFix (w64 c.cycle)),
       (0x011, 0, ⟨0x3F, w64 (s1.dtime / 2 ^ 32)⟩), (0x050, 1, cellRaw x.tpc), (0x051, 1, cellRaw x.tnpc),
       (0x052, 1, cellRaw x.tstat), (0x053, 1, cellRaw x.tcause), (0x054, 1, x.taddr), (0x055, 1, x.tprog),
       (0x070, 2, cellRaw c.mtpc), (0x071, 2, cellRaw c.mtnpc), (0x072, 2, cellRaw c.mtstat),
       (0x073, 2, cellRaw c.mtcause), (0x074, 2, c.mtaddr), (0x075, 2, c.mtprog), (0x080, 1, cellRaw x.vbrS),
       (0x081, 2, cellRaw c.vbrK), (0x082, 2, cellRaw c.edtb), (0x083, 2, cellRaw c.dfsp),
       (0x0A0, 2, cellRaw (putBit c.s2ttb 0 (c.s2ttb.getLsbD 0 || (partOf s1 k.val).isSome))), (0x0C0, 0, cellRaw c.maint),
       (0x0D0, 1, cellRaw c.abcur), (0x0D1, 1, cellRaw c.abend), (0x110, 1, cellRaw c.wrongPath),
       (0x200, 0, cellRaw (w64 k.val)), (0x201, 0, cellRaw c.mcver)] ++
      (List.range 16).map (fun i => (0x040 + i, 1, ck x.ck i)) ++
      (List.range 16).map (fun i => (0x060 + i, 2, ck c.mantle i))
    (ra.val = 0 → ∀ p ∈ table, n = p.1 →
      (p.2.1 ≤ plOf x → exec (.mfs k rd ra spr) s = gives k rd p.2.2 s1) ∧
      (plOf x < p.2.1 → exec (.mfs k rd ra spr) s = trapsWith k (trapOf vPrivOp 0) s1)) ∧
    (ra.val = 0 → (∀ p ∈ table, n ≠ p.1) →
      exec (.mfs k rd ra spr) s = trapsWith k (trapOf vIllegalOp 0) s1) ∧
    (ra.val ≠ 0 → exec (.mfs k rd ra spr) s = trapsWith k (trapOf vIllegalOp 0) s1)

/-- For a core that executes, rd = 0 and a source that is no POISON or VOID (any cell for CK and MK cells): at or
above the level the map gives, MTS writes to each plain special register the defined bits of the data (CK and MK cells
whole; TPROG tagged CONT or VOID by its payload), and every other register of the list, every general cell, memory and
BAR0 are as before. Below the level it raises PRIV_OP; a register whose write level is none, an unassigned number, or
rd other than 0, raises ILLEGAL_OP. (PSTAT, WSTAT and PRED_CTL are the next statement's.) -/
def Obligations.SpecialRegisterWrites : Prop :=
  ∀ (k : CoreId) (rd ra : Gpr) (spr : BitVec 10) (s s1 : State), Ready k s s1 →
    let a := readReg s1 k.val ra
    let v := a.data
    let n := spr.toNat
    let level := plOf (front s1 k.val)
    let keep := fun (hi lo : Nat) => w64 (v.toNat / 2 ^ lo % 2 ^ (hi + 1 - lo) * 2 ^ lo)
    let cont := v.toNat / 2 ^ 32 % 2 ^ 11
    let prog : Cell := ⟨if 0x020 ≤ cont ∧ cont ≤ 0x023 ∧ v.toNat < 2 ^ 44 then tagCont else tagVoid, v⟩
    let x := fun (t : State) => front t k.val
    let c := fun (t : State) => getCore t k.val
    let table : List (Nat × Nat × (State → Cell) × Cell) :=
      [(0x003, 1, fun t => cellRaw (x t).csp, cellRaw (keep 47 3)), (0x004, 1, fun t => cellRaw (x t).cbase, cellRaw (keep 47 3)),
       (0x005, 1, fun t => cellRaw (x t).clim, cellRaw (keep 47 3)), (0x006, 0, fun t => cellRaw (x t).mh, cellRaw v),
       (0x007, 0, fun t => cellRaw (x t).ml, cellRaw v),
       (0x00A, 1, fun t => cellRaw (x t).s1ttb, cellRaw (keep 43 12 ||| keep 63 48)),
       (0x00B, 2, fun t => cellRaw (x t).attrpal, cellRaw (v &&& 0x0F0F0F0F0F0F0F0F)),
       (0x050, 1, fun t => cellRaw (x t).tpc, cellRaw (keep 47 2)), (0x051, 1, fun t => cellRaw (x t).tnpc, cellRaw (keep 47 2)),
       (0x052, 1, fun t => cellRaw (x t).tstat, cellRaw (keep 61 0)), (0x053, 1, fun t => cellRaw (x t).tcause, cellRaw v),
       (0x054, 1, fun t => (x t).taddr, cellRaw v), (0x055, 1, fun t => (x t).tprog, prog),
       (0x070, 2, fun t => cellRaw (c t).mtpc, cellRaw (keep 47 2)), (0x071, 2, fun t => cellRaw (c t).mtnpc, cellRaw (keep 47 2)),
       (0x072, 2, fun t => cellRaw (c t).mtstat, cellRaw (keep 61 0)), (0x073, 2, fun t => cellRaw (c t).mtcause, cellRaw v),
       (0x074, 2, fun t => (c t).mtaddr, cellRaw v), (0x075, 2, fun t => (c t).mtprog, prog),
       (0x080, 1, fun t => cellRaw (x t).vbrS, cellRaw (keep 47 10)), (0x081, 2, fun t => cellRaw (c t).vbrK, cellRaw (keep 47 10)),
       (0x082, 2, fun t => cellRaw (c t).edtb, cellRaw (keep 47 13)), (0x083, 2, fun t => cellRaw (c t).dfsp, cellRaw (keep 43 12)),
       (0x0A0, 2, fun t => cellRaw (c t).s2ttb, cellRaw (keep 43 12 ||| keep 0 0)),
       (0x0C0, 1, fun t => cellRaw (c t).maint,
         cellRaw (putBits (putBits (c s1).maint 51 0 v.toNat) 53 53 (v.toNat / 2 ^ 53))),
       (0x110, 1, fun t => cellRaw (c t).wrongPath, cellRaw v)] ++
      (List.range 16).map (fun i => (0x040 + i, 1, fun t => sparseGet (fun _ => cellVoid) (x t).ck i, a)) ++
      (List.range 16).map (fun i => (0x060 + i, 2, fun t => sparseGet (fun _ => cellVoid) (c t).mantle i, a))
    (rd.val = 0 → ∀ p ∈ table, n = p.1 →
      (plOf (x s1) < p.2.1 → exec (.mts k rd ra spr) s = trapsWith k (trapOf vPrivOp 0) s1) ∧
      (p.2.1 ≤ level → (a.tag ≠ tagPoison ∧ a.tag ≠ tagVoid ∧ isReservedTag a.tag = false ∨
          0x040 ≤ n ∧ n ≤ 0x04F ∨ 0x060 ≤ n ∧ n ≤ 0x06F) →
        ∀ i ∈ (if n = 0x055 then [Instr.mts k rd ra spr, .mtsTprog k rd ra] else [Instr.mts k rd ra spr]),
        ∃ t, exec i s = .next t ∧ p.2.2.1 t = p.2.2.2 ∧
          (∀ q ∈ table, q.1 ≠ p.1 → q.2.2.1 t = q.2.2.1 s1) ∧ (x t).cells = (x s1).cells ∧
          (x t).pstat = (x s1).pstat ∧ (x t).wstat = (x s1).wstat ∧ (x t).pc = (x s1).npc ∧
          t.mem = s1.mem ∧ t.regs = s1.regs)) ∧
    (rd.val = 0 → (∀ p ∈ table, n ≠ p.1) → n ≠ 0x000 → n ≠ 0x002 → n ≠ 0x009 →
      exec (.mts k rd ra spr) s = trapsWith k (trapOf vIllegalOp 0) s1) ∧
    (rd.val ≠ 0 → ∀ i ∈ [Instr.mts k rd ra spr, .mtsPstat k rd ra, .mtsWstat k rd ra, .mtsTprog k rd ra,
        .predRekey k rd ra, .predFlush k rd ra], exec i s = trapsWith k (trapOf vIllegalOp 0) s1)

/-- For a core that executes at level S or K, rd = 0 and a source that is no POISON, VOID or reserved tag. PSTAT:
another PL than the present raises PRIV_OP and writes nothing; CKMAP is written; EE = 1 takes effect and ends a
running budget; EE = 0 takes effect at level K and, at level S, only while a budget runs; PL, CB and MB keep their
values. WSTAT: a value with 1 to 15 valid windows in one run ending at CWP and no invalid window dirty is written,
with its undefined bits 0; any other raises ILLEGAL_OP with detail STATE. PRED_CTL: STATIC is written; REKEY draws a
new key (a free value); FLUSH empties the core's prediction tables, the history and the return stack. Beside that and
the flow of control nothing changes, in this core or another, in memory or BAR0. -/
def Obligations.StatusAndPredictionWrites : Prop :=
  ∀ (k : CoreId) (rd ra : Gpr) (s s1 : State), Ready k s s1 → rd.val = 0 →
    let a := readReg s1 k.val ra
    let v := a.data
    let x := front s1 k.val
    let c := getCore s1 k.val
    let p := x.pstat
    let only := fun (t : State) (y : Ctx) => getCore t k.val = { c with front := inOrder y } ∧
      ∀ j, j ≠ k.val → getCore t j = getCore s1 j
    1 ≤ plOf x → a.tag ≠ tagPoison → a.tag ≠ tagVoid → isReservedTag a.tag = false →
    (∀ i ∈ [Instr.mts k rd ra 0x000, .mtsPstat k rd ra],
      (v.toNat % 4 ≠ plOf x → exec i s = trapsWith k (trapOf vPrivOp 0) s1) ∧
      (v.toNat % 4 = plOf x → ∃ t, exec i s = .next t ∧
        let y := front t k.val
        plOf y = plOf x ∧ cbOf y = cbOf x ∧ mbOf y = mbOf x ∧ ckmapOf y = v.getLsbD 4 ∧
        (v.getLsbD 2 = true → y.pstat.getLsbD 2 = true ∧ nibRunOf y = false ∧ nibRemOf y = 0) ∧
        (v.getLsbD 2 = false → plOf x = 2 ∨ nibRunOf x = true → y.pstat.getLsbD 2 = false ∧ nibRunOf y = nibRunOf x) ∧
        (v.getLsbD 2 = false → plOf x ≠ 2 → nibRunOf x = false → y.pstat.getLsbD 2 = p.getLsbD 2) ∧
        only t { x with pstat := y.pstat } ∧ t = { s1 with cores := t.cores })) ∧
    (∀ i ∈ [Instr.mts k rd ra 0x002, .mtsWstat k rd ra],
      let cwp := v.toNat % 16
      let valid := fun (w : Nat) => v.getLsbD (16 + w)
      let run := fun (n : Nat) => ∀ w < 16, valid w = true ↔ (cwp + 16 - w) % 16 < n
      let clean := ∀ w < 16, v.getLsbD (32 + w) = true → valid w = true
      ((∃ n, 1 ≤ n ∧ n ≤ 15 ∧ run n) ∧ clean → ∃ t, exec i s = .next t ∧
        (front t k.val).wstat = w64 (v.toNat % 16 + v.toNat / 2 ^ 16 % 2 ^ 32 * 2 ^ 16) ∧
        only t { x with wstat := (front t k.val).wstat } ∧ t = { s1 with cores := t.cores }) ∧
      (¬ ((∃ n, 1 ≤ n ∧ n ≤ 15 ∧ run n) ∧ clean) → exec i s = trapsWith k (trapOf vIllegalOp 2) s1)) ∧
    (∀ i ∈ [Instr.mts k rd ra 0x009, .predRekey k rd ra, .predFlush k rd ra], ∃ t, exec i s = .next t ∧
      let d := getCore t k.val
      d.front.predStatic = v.getLsbD 0 ∧
      (v.getLsbD 1 = true → d.front.key = Config.freeWord s1.draw) ∧ (v.getLsbD 1 = false → d.front.key = x.key) ∧
      (v.getLsbD 2 = true → d.dirs = [] ∧ d.targets = [] ∧ d.front.history = 0 ∧ d.front.rstack = []) ∧
      (v.getLsbD 2 = false → d.dirs = c.dirs ∧ d.targets = c.targets ∧ d.front.history = x.history ∧
        d.front.rstack = x.rstack) ∧
      d.front = inOrder { x with
        predStatic := d.front.predStatic, key := d.front.key, history := d.front.history, rstack := d.front.rstack } ∧
      d = { c with front := d.front, dirs := d.dirs, targets := d.targets, targetLru := d.targetLru } ∧
      (∀ j, j ≠ k.val → getCore t j = getCore s1 j) ∧ t = { s1 with cores := t.cores, draw := t.draw })

/-- For a core that executes: after FENCE.M, FENCE.T and FENCE.H the core's merging buffer is empty, its stores having
drained oldest first; after FENCE.T no TLBI of the core is under way either; after FENCE.P a fence stands between what
the core has posted and what it posts from now on, as long as an earlier alarm or frame of its waits, and nothing else
has changed. After each, PC takes NPC and the general cells, CK cells and PSTAT are as before. -/
def Obligations.FencesDrainTheMergingBuffer : Prop :=
  ∀ (k : CoreId) (s s1 : State), Ready k s s1 →
    let x := front s1 k.val
    let goesOn := fun (t : State) => (front t k.val).pc = x.npc ∧ (front t k.val).cells = x.cells ∧
      (front t k.val).ck = x.ck ∧ (front t k.val).pstat = x.pstat
    (∀ i ∈ [Instr.fenceM k, .fenceH k], ∃ t, exec i s = .next t ∧ t = finish k.val .seq (drainAll k.val s1) ∧
      (getCore t k.val).merge = [] ∧ goesOn t) ∧
    (∃ t, exec (.fenceT k) s = .next t ∧ (getCore t k.val).merge = [] ∧ (getCore t k.val).tlbis = [] ∧ goesOn t ∧
      t.mem = (drainAll k.val s1).mem) ∧
    (∃ t, exec (.fenceP k) s = .next t ∧ goesOn t ∧ t = { s1 with cores := t.cores, fences := t.fences } ∧
      (∀ j, j ≠ k.val → getCore t j = getCore s1 j) ∧
      ((∃ a ∈ s1.alarms, a.poster = k.val ∧ a.seq < s1.seq) ∨
        (∃ q ∈ s1.drives, ∃ g ∈ q.2.frames, g.poster = k.val ∧ g.seq < s1.seq) → (k.val, s1.seq) ∈ t.fences) ∧
      (∀ f ∈ t.fences, f = (k.val, s1.seq) ∨ f ∈ s1.fences))

/-- For a core that executes and an address operand that passes R91, with va = ra + imm16 * size: a va that is no
multiple of the size and does not lead to the register region raises MISALIGNED, a translation fault its trap, both
with the address. Where memory answers at the translated address, the core has no store waiting and the load barrier
has nothing to do, LDC writes the stored cell whole to rd; LDW, LDWU, LDH, LDHU, LDB, LDBU write the addressed bytes,
sign- or zero-extended, as FIX, and raise VOID_USE or POISON_USE for such a cell. With CMODE.LDX = 1 the next
instruction still reads the old cell. Every other register, all memory and BAR0 registers are as before. In the
register region (evictions changing no memory) LDC reads 64 bits as RAW64, LDW and LDWU 32 bits, and smaller loads 0.
-/
def Obligations.LoadsDeliverTheirCell : Prop :=
  ∀ (k : CoreId) (rd ra : Gpr) (imm : BitVec 16) (s s1 : State), Ready k s s1 → AddrCell (readReg s1 k.val ra) →
    let x := front s1 k.val
    let l := regLoc x rd.val
    let va := fun (n : Nat) => (readReg s1 k.val ra).data + BitVec.ofInt 64 (imm.toInt * n)
    let parts : List (Instr × Nat × Bool) := [(.ldw k rd ra imm, 4, true), (.ldwu k rd ra imm, 4, false),
      (.ldh k rd ra imm, 2, true), (.ldhu k rd ra imm, 2, false), (.ldb k rd ra imm, 1, true), (.ldbu k rd ra imm, 1, false)]
    let shadowed := fun (t : State) => (front t k.val).shadow =
      (if x.cmode.getLsbD 0 then some (l, readLoc (getCore s1 k.val) l) else none)
    (∀ p ∈ (.ldc k rd ra imm, 8, false) :: parts,
      (misplaced s1 k .load p.2.1 (va p.2.1) = true → exec p.1 s = trapsWith k { vec := 14, detail := 0, addr := some (va p.2.1) } s1) ∧
      (∀ f, (va p.2.1).toNat % p.2.1 = 0 → xlate k.val (plOf x) .load (va p.2.1) s1 = .error f →
        exec p.1 s = trapsWith k (xTrap f .load (va p.2.1)) s1)) ∧
    (∀ x' s2, (va 8).toNat % 8 = 0 → xlate k.val (plOf x) .load (va 8) s1 = .ok (x', s2) →
      (∀ off, regionOf s2 x'.pa = .regs off → Settled s1 →
        loadBarrier k.val (some x'.pa) (va 8) (cellRaw (regRead64 (.core k) off s2)) s2 =
          .ok (cellRaw (regRead64 (.core k) off s2), s2) →
        ∃ t, exec (.ldc k rd ra imm) s = .next t ∧ OnlyCell k l (cellRaw (regRead64 (.core k) off s2)) s1 t ∧ WentOn k s1 t) ∧
      (Answers s1 x'.pa → Quiet k s1 →
        let r := coreLoad k.val x' s2
        loadBarrier k.val (some x'.pa) (va 8) r.1 r.2 = .ok r →
        ∃ t, exec (.ldc k rd ra imm) s = .next t ∧ OnlyCell k l (memCell s1 x'.pa) s1 t ∧ WentOn k s1 t ∧ shadowed t)) ∧
    (∀ p ∈ parts, ∀ x' s2, (va p.2.1).toNat % p.2.1 = 0 → xlate k.val (plOf x) .load (va p.2.1) s1 = .ok (x', s2) →
      (∀ off, regionOf s2 x'.pa = .regs off → Settled s1 →
        let v := if p.2.1 = 4 then (regRead32 (.core k) off s2).1 % 2 ^ 32 else 0
        ∃ t, exec p.1 s = .next t ∧ readLoc (getCore t k.val) l =
          cellFix (BitVec.ofInt 64 (if p.2.2 then signedOf 32 v else (v : Int))) ∧ t.mem = s1.mem ∧ WentOn k s1 t) ∧
      (Answers s1 x'.pa → Quiet k s1 →
        let c := memCell s1 x'.pa
        let v := c.data.toNat / 2 ^ (8 * (x'.pa % 8)) % 2 ^ (8 * p.2.1)
        (c.tag ≠ tagPoison → c.tag ≠ tagVoid →
          ∃ t, exec p.1 s = .next t ∧ OnlyCell k l (cellFix (BitVec.ofInt 64 (if p.2.2 = true ∧ 2 ^ (8 * p.2.1 - 1) ≤ v
            then (v : Int) - 2 ^ (8 * p.2.1) else (v : Int)))) s1 t ∧ WentOn k s1 t ∧ shadowed t) ∧
        (c.tag = tagVoid → exec p.1 s = trapsWith k { vec := 8, detail := 0, seen := some tagVoid, addr := some (va p.2.1) } s1) ∧
        (c.tag = tagPoison →
          exec p.1 s = trapsWith k { vec := 9, detail := 0, seen := some tagPoison, addr := some (va p.2.1) } s1)))

/-- For a core that executes, an address operand that passes R91, va = ra + imm16 * size aligned and translated to
where memory answers, no store waiting, and a store barrier with nothing to do. STC: the core then reads the cell of
rd (any tag) at the address; once its buffer has drained, that cell is in memory and every other cell of memory is as
before. STW, STH, STB with rd FIX or RAW64 over a cell that is RAW64 or VOID: the cell becomes RAW64 with the low
bytes of rd at the addressed bytes and its other bytes as before (0 over VOID); over any other tag TAG_CHECK with
detail PARTIAL_STORE. A va that is no multiple of the size raises MISALIGNED, but in the register region. No register
changes. (A store that reprograms a clock so that a ratio rule of R412 breaks is the clock statement's.) -/
def Obligations.StoresReachExactlyTheirCell : Prop :=
  ∀ (k : CoreId) (rd ra : Gpr) (imm : BitVec 16) (s s1 : State), Ready k s s1 → AddrCell (readReg s1 k.val ra) →
    let x := front s1 k.val
    let d := readReg s1 k.val rd
    let va := fun (n : Nat) => (readReg s1 k.val ra).data + BitVec.ofInt 64 (imm.toInt * n)
    let parts : List (Instr × Nat) := [(.stw k rd ra imm, 4), (.sth k rd ra imm, 2), (.stb k rd ra imm, 1)]
    let sameRegs := fun (t : State) => (∀ l < 336, readLoc (getCore t k.val) l = readLoc (getCore s1 k.val) l) ∧
      t.regs = s1.regs ∧ WentOn k s1 t
    clkAt s k (effAddr s k ra imm 8) = false → clkAt s k (effAddr s k ra imm 4) = false →
    (misplaced s1 k .store 8 (va 8) = true → gcInto s1 k (va 8) d = false →
      exec (.stc k rd ra imm) s = trapsWith k { vec := 14, detail := 0, addr := some (va 8) } s1) ∧
    (gcInto s1 k (va 8) d = true → exec (.stc k rd ra imm) s = trapsWith k (trapOn vTagCheck 1 rd.val d.tag) s1) ∧
    (∀ x' s2, (va 8).toNat % 8 = 0 → gcInto s1 k (va 8) d = false → xlate k.val (plOf x) .store (va 8) s1 = .ok (x', s2) →
      Answers s1 x'.pa → Quiet k s1 →
      markStore s2 k (va 8) = false → storeBarrier k.val (va 8).toNat (corePeek s2 k.val x'.pa) d s2 = .ok (some d, s2) →
      ∃ t, exec (.stc k rd ra imm) s = .next t ∧ sameRegs t ∧ corePeek t k.val x'.pa = d ∧
        let u := drainAll k.val t
        memCell u x'.pa = d ∧ ∀ a, ¬ SameCell s1 a x'.pa → memCell u a = memCell s1 a) ∧
    (∀ p ∈ parts, RawCell d →
      (misplaced s1 k .store p.2 (va p.2) = true → exec p.1 s = trapsWith k { vec := 14, detail := 0, addr := some (va p.2) } s1) ∧
      (∀ x' s2, (va p.2).toNat % p.2 = 0 → xlate k.val (plOf x) .store (va p.2) s1 = .ok (x', s2) →
        Answers s1 x'.pa → Quiet k s1 →
        let old := memCell s1 x'.pa
        let o := x'.pa % 8
        (old.tag = tagRaw64 ∨ old.tag = tagVoid → ∃ t, exec p.1 s = .next t ∧ sameRegs t ∧
          let u := drainAll k.val t
          (memCell u x'.pa).tag = tagRaw64 ∧
          (∀ j < 8, byteAt (memCell u x'.pa).data j = (if o ≤ j ∧ j < o + p.2 then byteAt d.data (j - o)
            else if old.tag = tagVoid then 0 else byteAt old.data j)) ∧
          ∀ a, ¬ SameCell s1 a x'.pa → memCell u a = memCell s1 a) ∧
        (old.tag ≠ tagRaw64 → old.tag ≠ tagVoid → exec p.1 s =
          trapsWith k { vec := 7, detail := 4, seen := some old.tag, addr := some (va p.2) } s1)))

/-- For a core that executes, fn = 0, an address operand that passes R91, an aligned address translated to where
memory answers, not of kind DEV, and no store waiting: a POISON cell there raises POISON_USE and writes nothing; a
cell other than rd's (by tag or payload) is delivered to rd and memory is unchanged; a cell equal to rd's is delivered
to rd and, the store barrier having nothing to do, the cell of rb is in memory and no other cell of memory changes.
Kind DEV raises ILLEGAL_OP with detail DEV_CAS, fn other than 0 with detail ENCODING, a misaligned address MISALIGNED.
-/
def Obligations.CasSwapsExactlyTheEqualCell : Prop :=
  ∀ (k : CoreId) (rd ra rb : Gpr) (fn : BitVec 11) (s s1 : State), Ready k s s1 →
    let x := front s1 k.val
    let va := (readReg s1 k.val ra).data
    let l := regLoc x rd.val
    (fn ≠ 0 → exec (.cas k rd ra rb fn) s = trapsWith k (trapOf vIllegalOp 0) s1) ∧
    (fn = 0 → AddrCell (readReg s1 k.val ra) →
      (misplaced s1 k .cas 8 va = true → exec (.cas k rd ra rb fn) s = trapsWith k { vec := 14, detail := 0, addr := some va } s1) ∧
      (∀ x' s2, va.toNat % 8 = 0 → xlate k.val (plOf x) .cas va s1 = .ok (x', s2) →
        (placedKind s2 x'.pa x'.kind = 0 → exec (.cas k rd ra rb fn) s = trapsWith k (trapOf vIllegalOp 4) s1) ∧
        (placedKind s2 x'.pa x'.kind ≠ 0 → Answers s1 x'.pa → Quiet k s1 →
          let old := memCell s1 x'.pa
          (old.tag = tagPoison → exec (.cas k rd ra rb fn) s =
            trapsWith k { vec := 9, detail := 0, seen := some tagPoison, addr := some va } s1) ∧
          (old.tag ≠ tagPoison → old ≠ readReg s1 k.val rd →
            ∃ t, exec (.cas k rd ra rb fn) s = .next t ∧ OnlyCell k l old s1 t ∧ WentOn k s1 t) ∧
          (old.tag ≠ tagPoison → old = readReg s1 k.val rd →
            storeBarrier k.val va.toNat old (readReg s1 k.val rb) s2 = .ok (some (readReg s1 k.val rb), s2) →
            ∃ t, exec (.cas k rd ra rb fn) s = .next t ∧ WentOn k s1 t ∧ readLoc (getCore t k.val) l = old ∧
              (∀ l' < 336, l' ≠ l → readLoc (getCore t k.val) l' = readLoc (getCore s1 k.val) l') ∧
              t.regs = s1.regs ∧ memCell t x'.pa = readReg s1 k.val rb ∧
              ∀ a, ¬ SameCell s1 a x'.pa → memCell t a = memCell s1 a))))

/-- For a core that executes. CAR and CDR of a CONS that obeys R24 deliver cell 0 or 1 of the pair, where memory
answers and the load barrier has nothing to do; SETCAR and SETCDR (rd = 0; clocks not concerned) store the cell of rb
there, where memory answers and the store barrier has nothing to do; an access that traps takes that trap. EQQ of two
cells, neither VOID, POISON nor reserved, gives TRUE when tag and payload are the same, else NIL. VLEN of a pointer
other than CONS that obeys R24 gives as FIX the length in the HEADER in its first cell, which must name the pointer's
tag; a VOID, POISON or other first cell that is no FWD makes VLEN, VREF and VSET raise VOID_USE, POISON_USE or
TAG_CHECK (log entry 128 for a reserved tag). VREF and VSET load and store element rb, the cell 8 + 8 * rb beyond, as
CAR and SETCAR do; an index below 0 or not below the length raises TAG_CHECK with detail BOUNDS. Another tag of ra
that is not VOID, POISON or reserved raises TAG_CHECK with detail SOFT_TYPE; rd other than 0 makes SETCAR and SETCDR
raise ILLEGAL_OP. -/
def Obligations.PairsAndObjects : Prop :=
  ∀ (k : CoreId) (rd ra rb : Gpr) (s s1 : State), Ready k s s1 →
    let a := readReg s1 k.val ra
    let b := readReg s1 k.val rb
    let plain := fun (c : Cell) => c.tag ≠ tagPoison ∧ c.tag ≠ tagVoid ∧ isReservedTag c.tag = false
    let object := isPtr a.tag = true ∧ a.tag ≠ tagCons ∧ isReservedTag a.tag = false ∧ ptrOk a.data = true
    let free := fun (va : Word) => clkAt s k va = false
    let a0 := (readReg s k.val ra).data
    let loads := fun (i : Instr) (va : Word) (q : State) =>
      (∀ c s2, loadCell k va q = .ok (c, s2) → exec i s = gives k rd c s2) ∧
      (∀ t, loadCell k va q = .error t → exec i s = trapsWith k t s1)
    let stores := fun (i : Instr) (r : Gpr) (va : Word) (q : State) =>
      let c := readReg s1 k.val r
      (∀ s2, storeCell k (trapOn vTagCheck 1 r.val c.tag) va c q = .ok s2 → exec i s = .next (finish k.val .seq s2)) ∧
      (∀ t, storeCell k (trapOn vTagCheck 1 r.val c.tag) va c q = .error t → exec i s = trapsWith k t s1)
    (a.tag = tagCons → ptrOk a.data = true →
      (LoadsCell k (.car k rd ra) rd a.data s s1 ∧ loads (.car k rd ra) a.data s1) ∧
      (LoadsCell k (.cdr k rd ra) rd (a.data + 8) s s1 ∧ loads (.cdr k rd ra) (a.data + 8) s1) ∧
      (rd.val = 0 →
        (free a0 → StoresCell k (.setcar k rd ra rb) a.data b s s1 ∧ stores (.setcar k rd ra rb) rb a.data s1) ∧
        (free (a0 + 8) → StoresCell k (.setcdr k rd ra rb) (a.data + 8) b s s1 ∧
          stores (.setcdr k rd ra rb) rb (a.data + 8) s1))) ∧
    (a.tag ≠ tagCons → plain a → (∀ i ∈ [Instr.car k rd ra, .cdr k rd ra] ++
        (if rd.val = 0 ∧ free a0 then [Instr.setcar k rd ra rb] else []) ++
        (if rd.val = 0 ∧ free (a0 + 8) then [Instr.setcdr k rd ra rb] else []),
      exec i s = trapsWith k (trapOn vTagCheck 1 ra.val a.tag) s1)) ∧
    (rd.val ≠ 0 → (free a0 → exec (.setcar k rd ra rb) s = trapsWith k (trapOf vIllegalOp 0) s1) ∧
      (free (a0 + 8) → exec (.setcdr k rd ra rb) s = trapsWith k (trapOf vIllegalOp 0) s1)) ∧
    (plain a → plain b → exec (.eqq k rd ra rb) s = gives k rd (if a = b then cellTrue else cellNil) s1) ∧
    (plain a → isPtr a.tag = false ∨ a.tag = tagCons →
      exec (.vlen k rd ra) s = trapsWith k (trapOn vTagCheck 1 ra.val a.tag) s1 ∧
      (plain b → exec (.vref k rd ra rb) s = trapsWith k (trapOn vTagCheck 1 ra.val a.tag) s1 ∧
        (vsetHitsClk k ra rb s = false → exec (.vset k rd ra rb) s = trapsWith k (trapOn vTagCheck 1 ra.val a.tag) s1))) ∧
    (object → ∀ h x s2, fetchCell k a.data s1 = .ok (h, x, s2) → h.tag ≠ tagFwd →
      let len := h.data.toNat % 2 ^ 32
      let well := h.tag = tagHeader ∧ h.data.toNat / 2 ^ 56 = a.tag.toNat
      let element := [Instr.vref k rd ra rb] ++ (if vsetHitsClk k ra rb s = false then [Instr.vset k rd ra rb] else [])
      (well → exec (.vlen k rd ra) s = gives k rd (cellFix (w64 len)) s2) ∧
      (¬ well → ∀ i ∈ [Instr.vlen k rd ra] ++ (if b.tag = tagFix ∧ 0 ≤ b.data.toInt then element else []),
        exec i s = trapsWith k ⟨if h.tag = tagVoid then 8 else if h.tag = tagPoison then 9 else 7,
          if h.tag = tagVoid ∨ h.tag = tagPoison then 0 else if isReservedTag h.tag = true then 3 else 1, none, some h.tag, 0, 0, some a.data⟩ s1) ∧
      (well → b.tag = tagFix → 0 ≤ b.data.toInt → b.data.toNat < len →
        let at' := a.data + w64 (8 + 8 * b.data.toNat)
        (LoadsCell k (.vref k rd ra rb) rd at' s s2 ∧ loads (.vref k rd ra rb) at' s2) ∧
        (vsetHitsClk k ra rb s = false →
          StoresCell k (.vset k rd ra rb) at' (readReg s1 k.val rd) s s2 ∧ stores (.vset k rd ra rb) rd at' s2)) ∧
      (well → b.tag = tagFix → b.data.toInt < 0 ∨ len ≤ b.data.toNat →
        ∀ i ∈ element, exec i s = trapsWith k (trapOn vTagCheck 5 rb.val tagFix) s1))

/-- For a core that executes and well-tagged operands, in a run whose accesses all succeed and that no event and no
owed switch interrupts. LWALK with rd other than rb and a count of 0 to 2^32 - 1 leaves in rd the sub-list reached by
that many cdrs, or NIL; resumed at a CONT record of its own with DONE steps, it takes the remaining ones, and none
when DONE is at least the count. MEMQ leaves the first sub-list whose car is EQQ to the key, ASSQ the first pair whose
car is, NIL elements skipped, or NIL; resumed, they go on from the list in rd. BCOPY copies its cells whole, from the
highest down when the destination lies above an overlapping source, else from the lowest up; resumed, the cells after
the first DONE, in the direction of its record; a copy that changes registers is judged by R412 and left out here.
Each then goes on in order. A negative count of LWALK and BCOPY raises TAG_CHECK with detail BOUNDS and writes
nothing; MEMQ and ASSQ with rd = ra, and LWALK with rd = rb, raise ILLEGAL_OP. -/
def Obligations.LongInstructionsComplete : Prop :=
  ∀ (k : CoreId) (rd ra rb : Gpr) (s s1 : State), Ready k s s1 →
    let a := readReg s1 k.val ra
    let b := readReg s1 k.val rb
    let d := readReg s1 k.val rd
    let n := b.data.toNat
    let latch := (front s1 k.val).latch
    let q := modFront k.val (fun x => { x with latch := cellVoid, shadow := none }) s1
    let resumes := fun (fn : Nat) => latch.tag = tagCont ∧ latch.data.toNat / 2 ^ 32 % 2 ^ 11 = fn
    let steps := latch.data.toNat % 2 ^ 32
    let ends := fun (i : Instr) (t : State) => exec i s = .next (finish k.val .seq t)
    let key := a.tag ≠ tagPoison ∧ a.tag ≠ tagVoid ∧ isReservedTag a.tag = false
    let list := fun (c : Cell) => c.tag = tagNil ∨ (c.tag = tagCons ∧ ptrOk c.data = true)
    (rd ≠ rb → b.tag = tagFix → 0 ≤ b.data.toInt → n < 2 ^ 32 →
      (¬ resumes 0x20 → list a → ∀ t, cdrWalk k rd n (writeReg k.val rd a q) = some t → ends (.lwalk k rd ra rb) t) ∧
      (resumes 0x20 → ∀ t, cdrWalk k rd (n - steps) q = some t → ends (.lwalk k rd ra rb) t)) ∧
    (rd ≠ rb → b.tag = tagFix → b.data.toInt < 0 →
      exec (.lwalk k rd ra rb) s = trapsWith k (trapOn vTagCheck 5 rb.val tagFix) s1) ∧
    (rd = rb → exec (.lwalk k rd ra rb) s = trapsWith k (trapOf vIllegalOp 0) s1) ∧
    (rd = ra → ∀ i ∈ [Instr.memq k rd ra rb, .assq k rd ra rb], exec i s = trapsWith k (trapOf vIllegalOp 0) s1) ∧
    (rd ≠ ra → key → ∀ fuel,
      (fuel < 2 ^ 32 →
        (¬ resumes 0x21 → ∀ t, carSearch k rd a fuel (writeReg k.val rd b q) = some t → ends (.memq k rd ra rb) t) ∧
        (¬ resumes 0x22 → ∀ t, pairSearch k rd a fuel (writeReg k.val rd b q) = some t → ends (.assq k rd ra rb) t)) ∧
      (steps + fuel < 2 ^ 32 →
        (resumes 0x21 → ∀ t, carSearch k rd a fuel q = some t → ends (.memq k rd ra rb) t) ∧
        (resumes 0x22 → ∀ t, pairSearch k rd a fuel q = some t → ends (.assq k rd ra rb) t))) ∧
    (AddrCell d → AddrCell a → b.tag = tagFix → 0 ≤ b.data.toInt →
      let src := if isPtr a.tag = true then a.data + 8 else a.data
      let dst := if isPtr d.tag = true then d.data + 8 else d.data
      let down := if resumes 0x23 then latch.data.toNat / 2 ^ 43 % 2 = 1 else
        src.toNat < dst.toNat ∧ dst.toNat < src.toNat + 8 * n
      let order := (if down then (List.range n).reverse else List.range n).drop (if resumes 0x23 then steps else 0)
      (n = 0 ∨ (src.toNat % 8 = 0 ∧ dst.toNat % 8 = 0)) →
      ∀ t, cellCopies k src dst order q = some t → t.regs = s.regs → ends (.bcopy k rd ra rb) t) ∧
    (AddrCell d → AddrCell a → b.tag = tagFix → b.data.toInt < 0 →
      exec (.bcopy k rd ra rb) s = trapsWith k (trapOn vTagCheck 5 rb.val tagFix) s1)

/-- For a core that executes and a source operand FIX 0 to 15 that the core may read (at level K every source; else
PS15, a source its partition owns, or one whose READ names it): PHRD gives the present phase tagged PHASE rb, or
UNBOUND without an estimate. PHAT takes a PHASE 15 stamp and gives UNBOUND where the stamp names no past instant or
one older than every history entry, and else the interpolated phase, for PS15 the stamp itself. PHST gives the lock
state, PHMK Q32 or FIX revolutions as PHASE rb, modulo 2^64, PHREV and PHFR the whole and the fractional revolutions
of a phase. A source without the right raises PRIV_OP with detail NOT_OWNED; a source above 15 TAG_CHECK with detail
BOUNDS; a PHAT stamp of another source PHASE_SOURCE; another tag that is not VOID, POISON or reserved, where the other
operand passes, TAG_CHECK with detail SOFT_TYPE. -/
def Obligations.PhaseInstructions : Prop :=
  ∀ (k : CoreId) (rd ra rb : Gpr) (s s1 : State), Ready k s s1 →
    let a := readReg s1 k.val ra
    let b := readReg s1 k.val rb
    let i := b.data.toNat
    let plain := fun (c : Cell) => c.tag ≠ tagPoison ∧ c.tag ≠ tagVoid ∧ isReservedTag c.tag = false
    let may := fun (n : Nat) => plOf (front s1 k.val) = 2 ∨ ∃ p, partOf s1 k.val = some p ∧
      (n = 15 ∨ srcOwner s1 n = some p ∨ fget s1 fldPHASE_SRC_OWN_READ n / 2 ^ p % 2 = 1)
    let tagged := fun (v : Word) => (⟨BitVec.ofNat 8 (0x30 + i), v⟩ : Cell)
    let revs := a.tag = tagQ32 ∨ a.tag = tagFix
    let notOwned := trapsWith k (trapOf vPrivOp 1) s1
    let bounds := fun (r : Gpr) => trapsWith k (trapOn vTagCheck 5 r.val tagFix) s1
    let soft := fun (r : Gpr) (c : Cell) => trapsWith k (trapOn vTagCheck 1 r.val c.tag) s1
    (b.tag = tagFix → i < 16 →
      (may i →
        (∀ v, estimate s1 i = some v → exec (.phrd k rd rb) s = gives k rd (tagged (phaseWord v.1)) s1) ∧
        (estimate s1 i = none → exec (.phrd k rd rb) s = gives k rd cellUnbound s1) ∧
        (a.tag = 0x3F →
          (stampTime s1 a.data = none → exec (.phat k rd ra rb) s = gives k rd cellUnbound s1) ∧
          (∀ t, stampTime s1 a.data = some t →
            ((∀ e ∈ (getSrc s1 i).hist, t < e.time) → exec (.phat k rd ra rb) s = gives k rd cellUnbound s1) ∧
            (∀ v, phaseAt s1 i t = some v →
              exec (.phat k rd ra rb) s = gives k rd (tagged (if i = 15 then a.data else phaseWord v)) s1))) ∧
        (revs → exec (.phmk k rd ra rb) s =
          gives k rd (tagged (if a.tag = tagFix then w64 (a.data.toNat * 2 ^ 32) else a.data)) s1)) ∧
      (¬ may i → exec (.phrd k rd rb) s = notOwned ∧ (a.tag = 0x3F → exec (.phat k rd ra rb) s = notOwned) ∧
        (revs → exec (.phmk k rd ra rb) s = notOwned))) ∧
    (b.tag = tagFix → 16 ≤ i → exec (.phrd k rd rb) s = bounds rb ∧ (a.tag = 0x3F → exec (.phat k rd ra rb) s = bounds rb) ∧
      (revs → exec (.phmk k rd ra rb) s = bounds rb)) ∧
    (b.tag = tagFix → isPhase a.tag = true → a.tag ≠ 0x3F →
      exec (.phat k rd ra rb) s = trapsWith k (trapOn vPhaseSource 0 ra.val a.tag) s1) ∧
    (plain b → b.tag ≠ tagFix → exec (.phrd k rd rb) s = soft rb b ∧
      (isPhase a.tag = true → exec (.phat k rd ra rb) s = soft rb b) ∧
      (revs → exec (.phmk k rd ra rb) s = soft rb b)) ∧
    (plain a → b.tag = tagFix →
      (isPhase a.tag = false → exec (.phat k rd ra rb) s = soft ra a) ∧
      (¬ revs → exec (.phmk k rd ra rb) s = soft ra a)) ∧
    (a.tag = tagFix →
      (a.data.toNat < 16 → may a.data.toNat → exec (.phst k rd ra) s =
        gives k rd (cellFix (w64 (if a.data.toNat = 15 then 1 else fget s1 fldPHASE_SRC_STAT_STATE a.data.toNat))) s1) ∧
      (a.data.toNat < 16 → ¬ may a.data.toNat → exec (.phst k rd ra) s = notOwned) ∧
      (16 ≤ a.data.toNat → exec (.phst k rd ra) s = bounds ra)) ∧
    (plain a → a.tag ≠ tagFix → exec (.phst k rd ra) s = soft ra a) ∧
    (isPhase a.tag = true →
      exec (.phrev k rd ra) s = gives k rd (cellFix (w64 (a.data.toNat / 2 ^ 32))) s1 ∧
      exec (.phfr k rd ra) s = gives k rd ⟨tagQ32, w64 (a.data.toNat % 2 ^ 32)⟩ s1) ∧
    (plain a → isPhase a.tag = false →
      exec (.phrev k rd ra) s = soft ra a ∧ exec (.phfr k rd ra) s = soft ra a)

/-- For a core that executes at level S or K with a FIX index and an address operand whose three cells can be read: an
index above 4,095, 0, or outside the caller's grant (level K: any other; level S: its partition's) gives status 1 and
changes nothing; three VOID cells make the entry undefined, status 0; a well-formed image of three RAW64 cells (R37)
becomes the entry, status 0, unless it is NAMED and another NAMED entry has its dimension (status 3) or four others
fill its index set (status 4); anything else gives status 2. Where the entry is written, no core's product cache names
the unit any more and every other entry is as before. At level T UTSET raises PRIV_OP. -/
def Obligations.UtsetWritesTheUnitTable : Prop :=
  ∀ (k : CoreId) (rd ra rb : Gpr) (s s1 : State), Ready k s s1 →
    let a := readReg s1 k.val ra
    let u := a.data.toNat
    let level := plOf (front s1 k.val)
    (level = 0 → exec (.utset k rd ra rb) s = trapsWith k (trapOf vPrivOp 0) s1) ∧
    (level ≠ 0 → a.tag = tagFix → AddrCell (readReg s1 k.val rb) → ∀ cells s2,
      fetchCells k 3 (readReg s1 k.val rb).data s1 = .ok (cells, s2) →
      let granted := u ≠ 0 ∧ u < 4096 ∧ (level = 2 ∨ ∃ p < 8, partOf s2 k.val = some p ∧
        fget s2 fldGLB_UNIT_GRANT_BASE p ≤ u ∧
        u < fget s2 fldGLB_UNIT_GRANT_BASE p + fget s2 fldGLB_UNIT_GRANT_COUNT p)
      let void := ∀ c ∈ cells, c.tag = tagVoid
      let raw := ∀ c ∈ cells, c.tag = tagRaw64
      let img := cells.map (fun c => c.data)
      let twin := ∃ p ∈ namedUnits s2, p.1 ≠ u ∧ p.2 = imageDim img
      let full := 4 ≤ ((namedUnits s2).filter (fun p => p.1 != u && dimSet p.2 == dimSet (imageDim img))).length
      let status := fun (n : Nat) => exec (.utset k rd ra rb) s = gives k rd (cellFix (w64 n)) s2
      let written := fun (entry : List Word) => ∃ s3, exec (.utset k rd ra rb) s = gives k rd (cellFix 0) s3 ∧
        unitOf s3 u = entry ∧ (∀ w, w ≠ u → unitOf s3 w = unitOf s2 w) ∧
        (∀ p ∈ s3.cores, ∀ e ∈ p.2.products, e.ua ≠ u ∧ e.ub ≠ u ∧ e.unit ≠ u) ∧ s3.mem = s2.mem ∧ s3.regs = s2.regs
      plOf (front s2 k.val) = level →
      (¬ granted → status 1) ∧
      (granted → void → written []) ∧
      (granted → raw → imageOk img = true → (imageNamed img = true → ¬ twin ∧ ¬ full) → written img) ∧
      (granted → raw → imageOk img = true → imageNamed img = true → twin → status 3) ∧
      (granted → raw → imageOk img = true → imageNamed img = true → ¬ twin → full → status 4) ∧
      (granted → raw → imageOk img = false → status 2) ∧
      (granted → ¬ void → ¬ raw → status 2))

/-- A 32-bit read of the low half of a 64-bit register answers that half and loads the requester's half latch with the
offset and the high half; a later read of the high half answers the latched half if the latch names it, whatever the
register holds by then, and empties the latch, and else answers the present high half and leaves the latch. At a
reserved offset, or one not served to the requester, a read answers zero and changes nothing else. A 32-bit register
read at its offset answers its value. An access of a wrong size or alignment completes: a read answers zero, a write
changes nothing. An aligned 64-bit read of a 64-bit register answers it whole. A write of the right width, served to
the requester, to a register whose fields have no operation of their own: if the register's chapter admits it
(writeRule, with the value that chapter stores), each field takes the written bits where it is RW or RWS, or RWL in a
block that is not locked; clears the bits written 1 where W1C, sets them where W1S, and stays where RO, WO or RWL
locked; fields that have a command of their own stay; no other register, no memory and no core changes. A write that
the chapter turns away, to a reserved offset, of the wrong width, or not served to the requester has no effect. -/
def Obligations.RegisterAccesses : Prop :=
  (∀ (who : Agent) (off : BitVec 23) (s : State),
      (∀ r i, served s who off.toNat = true → regAt off.toNat = some (r, i, 0) →
        let v := (readFor s who r i).toNat
        Does (.regReadLowHalf who off) s (fun t => t.readData = w64 (v % 2 ^ 32) ∧ t.regs = s.regs ∧ t.mem = s.mem ∧
          (r.desc.wide = true → halfOf t who = some (off.toNat, v / 2 ^ 32)) ∧
          (r.desc.wide = false → halfOf t who = halfOf s who))) ∧
      (∀ r i, served s who off.toNat = true → regAt off.toNat = some (r, i, 4) →
        (∀ h, halfOf s who = some (off.toNat - 4, h) → Does (.regReadHighHalf who off) s (fun t =>
          t.readData = w64 h ∧ halfOf t who = none ∧ t.regs = s.regs ∧ t.mem = s.mem)) ∧
        ((∀ h, halfOf s who ≠ some (off.toNat - 4, h)) → Does (.regReadHighHalf who off) s (fun t =>
          t.readData = w64 ((readFor s who r i).toNat / 2 ^ 32) ∧ halfOf t who = halfOf s who ∧ t.regs = s.regs ∧
          t.mem = s.mem))) ∧
      (served s who off.toNat = false ∨ regAt off.toNat = none → ∀ i ∈ [Instr.regReadLowHalf who off, .regReadHighHalf who off],
        exec i s = .next { s with readData := 0 }) ∧
      (∀ size v, badAccess true off.toNat size = true → exec (.regBadAccess who true off size v) s = .next s) ∧
      (∀ size v, badAccess false off.toNat size = true →
        exec (.regBadAccess who false off size v) s = .next { s with readData := 0 }) ∧
      (∀ r i v, served s who off.toNat = true → regAt off.toNat = some (r, i, 0) → r.desc.wide = true → off.toNat % 8 = 0 →
        exec (.regBadAccess who false off 8 v) s = .next { s with readData := readFor s who r i })) ∧
  (∀ (who : Agent) (off : BitVec 23) (wide : Bool) (value : Word) (s : State),
      (∀ r i, served s who off.toNat = true → writeTarget off.toNat wide = some (r, i) →
        wholeWrite who r i (neutral s r i value) s = none →
        (∀ v, writeRule s who r i value = some v → Does (.registerWrite who off wide value) s (fun t =>
          (∀ f ∈ r.desc.fields,
            let old := bitsOf (getReg s r i) f.hi f.lo
            let new := bitsOf v f.hi f.lo
            bitsOf (getReg t r i) f.hi f.lo = if ownCommand r f.hi = true then old else match f.acc with
              | .rw => new
              | .rws => new
              | .rwl => if blockLocked s r = true then old else new
              | .w1c => old - Nat.land old new
              | .w1s => Nat.lor old new
              | .ro => old
              | .wo => old) ∧
          OnlyRegs [(r, i)] s t ∧ t.mem = s.mem ∧ t.cores = s.cores)) ∧
        (writeRule s who r i value = none → exec (.registerWrite who off wide value) s = .next s)) ∧
      (served s who off.toNat = false ∨ writeTarget off.toNat wide = none →
        exec (.registerWrite who off wide value) s = .next s))

/-- For a core that executes with task (p, t) in its front context, whose TCB bank answers. WAIT with a FIX mask below
64: where a code that is pending is in the mask or 4, the lowest such code is delivered to rd as FIX and its bit is
cleared, code 1 excepted; else the task becomes WAITING with MASK saved, and PC stays at the WAIT. A larger mask
raises ILLEGAL_OP; a mask that is not FIX, nor VOID, POISON or reserved, TAG_CHECK with detail SOFT_TYPE. YIELD
without a task, or without a candidate of the same or a higher band, only goes on; where the best one is in the core's
back context, a switch may happen and no HOLD or KILL waits, that task takes the front context as RUNNING, the
yielding task is READY in the back context, and its PC is past the YIELD. -/
def Obligations.WaitAndYield : Prop :=
  ∀ (k : CoreId) (rd ra : Gpr) (s s1 : State), Ready k s s1 →
    let a := readReg s1 k.val ra
    let m := a.data.toNat
    (a.tag = tagFix → 64 ≤ m → exec (.wait k rd ra) s = trapsWith k (trapOf vIllegalOp 0) s1) ∧
    (a.tag ≠ tagFix → a.tag ≠ tagVoid → a.tag ≠ tagPoison → isReservedTag a.tag = false →
      exec (.wait k rd ra) s = trapsWith k (trapOn vTagCheck 1 ra.val a.tag) s1) ∧
    (ctxTask (front s1 k.val) = none → exec (.yieldCore k) s = .next (finish k.val .seq s1)) ∧
    (∀ p t, ctxTask (front s1 k.val) = some (p, t) → TcbUp p s1 →
      (a.tag = tagFix → m < 64 →
        (∀ i, wakeCode s1 p t m = some i → ∃ q, exec (.wait k rd ra) s = gives k rd (cellFix (w64 i)) q ∧
          q.mail = s1.mail ∧ q.regs = s1.regs ∧ (i = 1 → q.mem = s1.mem) ∧ (i ≠ 1 → tcbPend q p t / 2 ^ i % 2 = 0)) ∧
        (wakeCode s1 p t m = none → Does (.wait k rd ra) s (fun q => stOf q p t = stWaiting ∧ tcbMask q p t = m ∧
          tcbPend q p t = tcbPend s1 p t ∧ (front q k.val).pc = (front s1 k.val).pc ∧ q.regs = s1.regs))) ∧
      (yieldTo s1 k.val p t = none → exec (.yieldCore k) s = .next (finish k.val .seq s1)) ∧
      (∀ u, yieldTo s1 k.val p t = some u → switchOk s1 k.val = true → (getCore s1 k.val).ctl = none →
        contextOf s1 p u = some (k.val, false) →
        Does (.yieldCore k) s (fun q => ctxTask (front q k.val) = some (p, u) ∧ stOf q p u = stRunning ∧
          ctxTask (getCore q k.val).back = some (p, t) ∧ stOf q p t = stReady ∧
          (getCore q k.val).back.pc = (front s1 k.val).npc)))

/-- For a core that executes and well-tagged, aligned operands whose cells can be read. SEND answers BAD_DESC (5) for
a KIND above 1, a reserved bit or a core number above 7, NOT_OWNED (2) for a core its partition does not own, FULL (1)
without a free slot, else OK (0): the message, its header naming the sender and the epoch it was addressed to, enters
at the end of the target's queue, or, where the epoch differs from the target's or the target task is FREE, the
sender's own bounce queue with STATUS ROLE_CHANGED. RECV without a message answers EMPTY (6); else it takes the oldest
of the bounce queue, or, that being empty, of the message queue, stores its cells at rb, and frees the slot. POST
answers BAD_DESC for a number that names no queue, and else what the queue does with the cells of the length R103
gives. -/
def Obligations.MessagesAndPosts : Prop :=
  ∀ (k : CoreId) (rd ra rb : Gpr) (s s1 : State), Ready k s s1 →
    let a := readReg s1 k.val ra
    let b := readReg s1 k.val rb
    let status := fun (i : Instr) (n : Nat) (q : State) => exec i s = gives k rd (cellFix (w64 n)) q
    (RawCell a → AddrCell b → b.data.toNat % 8 = 0 → ∀ cells q p who, sendCells k 3 (b.data + 8) s1 = .ok (cells, q) →
      partOf q k.val = some p → speaker q k = some who →
      let kind := a.data.toNat % 4
      let index := a.data.toNat / 32 % 1024
      let epoch := a.data.toNat / 2 ^ 32
      let goal : Bool × Nat := (kind == 1, if kind = 1 then a.data.toNat / 4 % 8 * 8 + index else index)
      let bad := 1 < kind ∨ a.data.toNat / 2 ^ 15 % 2 ^ 17 ≠ 0 ∨ (kind = 1 ∧ 8 ≤ index)
      let foreign := kind = 1 ∧ partOf q goal.2 ≠ some p
      let header := fun (st : Nat) => cellRaw (w64 (who.1.toNat + k.val / 8 * 4 +
        (if who.1 = true then who.2 % 8 else who.2) * 32 + st * 2 ^ 15 + epoch * 2 ^ 32))
      let msg := fun (bounced : Bool) =>
        (⟨k.val / 8, p, goal, who, epochOf q p who, bounced, header bounced.toNat :: cells⟩ : Msg)
      let stale := epochOf q p goal ≠ epoch ∨ (kind = 0 ∧ stOf q p index = stFree)
      (bad → status (.send k rd ra rb) 5 q) ∧
      (¬ bad → foreign → status (.send k rd ra rb) 2 q) ∧
      (¬ bad → ¬ foreign → slotFree q (k.val / 8) p = false → status (.send k rd ra rb) 1 q) ∧
      (¬ bad → ¬ foreign → slotFree q (k.val / 8) p = true →
        ∃ q', status (.send k rd ra rb) 0 q' ∧ q'.regs = q.regs ∧
          (stale → q'.mail = q.mail ++ [msg true]) ∧ (¬ stale → q'.mail = q.mail ++ [msg false]))) ∧
    (AddrCell b → b.data.toNat % 8 = 0 → s1.regs = s.regs → ∀ p who, partOf s1 k.val = some p →
      speaker s1 k = some who →
      (queueOf s1 p who true = [] → queueOf s1 p who false = [] → status (.recv k rd rb) 6 s1) ∧
      (∀ m l, queueOf s1 p who true = m :: l ∨ (queueOf s1 p who true = [] ∧ queueOf s1 p who false = m :: l) →
        (∀ q, recvCells k b.data m.cells s1 = .ok q → q.regs = s.regs →
          status (.recv k rd rb) 0 { q with mail := q.mail.erase m }))) ∧
    (a.tag = tagFix → AddrCell b →
      let q := a.data.toNat
      let table : List (Nat × Nat) := [(0x10, 4), (0x18, 3), (0x40, 8), (0x48, 4), (0x50, 3), (0x51, 6), (0x58, 4)] ++
        (List.range 8).map (fun i => (i, 1)) ++ (List.range 8).map (fun i => (0x20 + i, 8)) ++
        (List.range 16).map (fun i => (0x30 + i, 8))
      ((∀ e ∈ table, e.1 ≠ q) → status (.post k rd ra rb) 5 s1) ∧
      (∀ n, (q, n) ∈ table →
        (∀ desc s2, fetchCells k n b.data s1 = .ok (desc, s2) →
          let r := postQueue (.core k) q desc none s2
          status (.post k rd ra rb) r.1 r.2) ∧
        (∀ t, fetchCells k n b.data s1 = .error t → exec (.post k rd ra rb) s = trapsWith k t s1)))

/-- For a core that executes at the level R164 gives, with well-tagged operands: a TLBI appends its operation to those
the core has outstanding (the oldest completing first when eight are), and goes on, memory and registers untouched;
below the level it raises PRIV_OP, and TLBI.IPA and TLBI.PART with rb above 7 raise ILLEGAL_OP. When the oldest
operation of a core completes, it leaves the list, and on every core and in the fabric translation unit exactly the
leaves and walk-cache entries it names are gone: by page, space and ASID (any ASID with rb[16]; global leaves for VA
and not for ASID), by space, by partition, the stage-2 walk entries that cover an IPA with every leaf of its
partition, those of a K-space page, or all. -/
def Obligations.TlbInvalidation : Prop :=
  (∀ (k : CoreId) (ra rb : Gpr) (s s1 : State), Ready k s s1 →
    let a := readReg s1 k.val ra
    let b := readReg s1 k.val rb
    let n := b.data.toNat
    let sp := coreSpace s1 k.val
    let addr := AddrCell a
    let fix := b.tag = tagFix
    let table : List (Instr × Nat × Prop × TlbiOp) :=
      [(.tlbiVa k ra rb, 1, addr ∧ fix, .va sp (if n / 2 ^ 16 % 2 = 1 then none else some (n % 2 ^ 16)) a.data.toNat),
       (.tlbiAsid k rb, 1, fix, .asid sp (n % 2 ^ 16)), (.tlbiSpace k, 1, True, .space sp),
       (.tlbiIpa k ra rb, 2, addr ∧ fix ∧ n < 8, .ipa n a.data.toNat), (.tlbiPart k rb, 2, fix ∧ n < 8, .part n),
       (.tlbiKs k ra, 2, addr, .ks a.data.toNat), (.tlbiAll k, 2, True, .all)]
    (∀ e ∈ table,
      (plOf (front s1 k.val) < e.2.1 → exec e.1 s = trapsWith k (trapOf vPrivOp 0) s1) ∧
      (e.2.1 ≤ plOf (front s1 k.val) → e.2.2.1 → Does e.1 s (fun t =>
        let sent := (getCore s1 k.val).tlbis
        (getCore t k.val).tlbis = (if 8 ≤ sent.length then sent.drop 1 else sent) ++ [e.2.2.2] ∧
        WentOn k s1 t ∧ t.mem = s1.mem ∧ t.regs = s1.regs))) ∧
    (plOf (front s1 k.val) = 2 → fix → 8 ≤ n →
      exec (.tlbiPart k rb) s = trapsWith k (trapOf vIllegalOp 0) s1 ∧
      (addr → exec (.tlbiIpa k ra rb) s = trapsWith k (trapOf vIllegalOp 0) s1))) ∧
  (∀ (k : CoreId) (s : State) (op : TlbiOp) (rest : List TlbiOp), (getCore s k.val).tlbis = op :: rest →
    let leaf := fun (e : TlbEntry) => match op with
      | .va sp asid va => e.space = sp ∧ e.va = va / 2 ^ e.size ∧ (e.global = true ∨ asid = none ∨ asid = some e.asid)
      | .asid sp asid => e.space = sp ∧ e.global = false ∧ e.asid = asid
      | .space sp => e.space = sp
      | .ipa p _ => e.space = .part p
      | .part p => e.space = .part p
      | .ks va => e.space = .kernel ∧ e.va = va / 2 ^ e.size
      | .all => True
    let first := fun (e : WalkEntry) => match op with
      | .va sp _ va => e.space = sp ∧ e.pre = va / 2 ^ lvlShift e.level
      | .asid sp asid => e.space = sp ∧ e.asid = asid
      | .space sp => e.space = sp
      | .ipa _ _ => False
      | .part p => e.space = .part p
      | .ks va => e.space = .kernel ∧ e.pre = va / 2 ^ lvlShift e.level
      | .all => True
    let second := fun (e : WalkEntry) => match op with
      | .space sp => e.space = sp
      | .ipa p ipa => e.space = .part p ∧ e.pre = ipa / 2 ^ lvlShift e.level
      | .part p => e.space = .part p
      | .all => True
      | _ => False
    Does (.tlbiComplete k) s (fun t => (getCore t k.val).tlbis = rest ∧ t.mem = s.mem ∧ t.regs = s.regs ∧
      (∀ e, e ∈ t.fabricTlb ↔ e ∈ s.fabricTlb ∧ ¬ leaf e) ∧
      ∀ j, (∀ e, (e ∈ (getCore t j).itlb ↔ e ∈ (getCore s j).itlb ∧ ¬ leaf e) ∧
          (e ∈ (getCore t j).dtlb ↔ e ∈ (getCore s j).dtlb ∧ ¬ leaf e) ∧
          (e ∈ (getCore t j).l2tlb ↔ e ∈ (getCore s j).l2tlb ∧ ¬ leaf e)) ∧
        (∀ e, (e ∈ (getCore t j).walk1 ↔ e ∈ (getCore s j).walk1 ∧ ¬ first e) ∧
          (e ∈ (getCore t j).walk2 ↔ e ∈ (getCore s j).walk2 ∧ ¬ second e)) ∧
        (getCore t j).front = (getCore s j).front ∧ (getCore t j).run = (getCore s j).run))

/-- TABLE_WALK of a core for an access that translates, the core not in the MANTLE: the TLBs it uses hold an entry for
the address, and the access translates as before, to the same address, kind and permissions (where a CONT group makes
no difference to the leaf as cached: R160 leaves open whether a group is cached whole). Where the access does not
translate, no TLB changes. (Here and for XPROBE: where evictions change no memory.) A walk of the fabric translation
unit for an IPA it holds no entry of: it then holds one, and the IPA translates as before for every access. Memory and
registers are untouched. XPROBE: For a core that executes, an address operand in ra and a FIX in rb: a mode above 4
raises ILLEGAL_OP; modes 0 and 1 need level S and 2 to 4 level K, else PRIV_OP. In modes 0, 1, 2 and 4 an address with
bits [63:48] not zero answers F with ADDRSIZE; in mode 3 bits [63:44] do, at stage 2; in mode 4 an address with bit 47
zero answers TRANSLATION with KSPACE. In mode 2, with the core not in the MANTLE and no TLB entry for the address, an
access of level T that translates has its bit set in the answer, with F = 0, the physical address and the kind.
Neither memory nor a BAR0 register changes. -/
def Obligations.WalksAndProbes : Prop :=
  ((∀ (k : CoreId) (acc : Access) (va : Word) (s : State), mbOf (front s k.val) = false → Settled s →
      let pl := plOf (front s k.val)
      let key := lookupKey s k.val pl va
      (∀ x, translate s k.val pl acc va = .ok x → leafEntry s k.val va.toNat true = leafEntry s k.val va.toNat false →
        kspaceEntry s k.val va.toNat true = kspaceEntry s k.val va.toNat false →
        Does (.tableWalk (.core k acc va)) s (fun t => translate t k.val pl acc va = .ok x ∧
          tlbHit (tlbsFor (getCore t k.val) acc) key.1 key.2 va.toNat ≠ none ∧ t.mem = s.mem ∧ t.regs = s.regs)) ∧
      (∀ f, translate s k.val pl acc va = .error f → Does (.tableWalk (.core k acc va)) s (fun t =>
        (getCore t k.val).itlb = (getCore s k.val).itlb ∧ (getCore t k.val).dtlb = (getCore s k.val).dtlb ∧
        (getCore t k.val).l2tlb = (getCore s k.val).l2tlb ∧ t.mem = s.mem ∧ t.regs = s.regs))) ∧
    (∀ (p : Fin 8) (ipa : Word) (s : State), tlbHit s.fabricTlb (.part p.val) 0 ipa.toNat = none →
      (∃ acc pa, fabricXlate s p.val acc ipa.toNat = .ok pa) →
      Does (.tableWalk (.fabric p ipa)) s (fun t => tlbHit t.fabricTlb (.part p.val) 0 ipa.toNat ≠ none ∧
        (∀ acc, (fabricXlate t p.val acc ipa.toNat).toOption = (fabricXlate s p.val acc ipa.toNat).toOption) ∧
        t.mem = s.mem ∧ t.regs = s.regs))) ∧
  (∀ (k : CoreId) (rd ra rb : Gpr) (s s1 : State), Ready k s s1 →
      let a := readReg s1 k.val ra
      let b := readReg s1 k.val rb
      let m := b.data.toNat
      let va := a.data
      let level := plOf (front s1 k.val)
      let answers := fun (c : Cell) => ∃ q, exec (.xprobe k rd ra rb) s = gives k rd c q ∧ q.mem = s1.mem ∧ q.regs = s1.regs
      AddrCell a → b.tag = tagFix →
      (4 < m → exec (.xprobe k rd ra rb) s = trapsWith k (trapOf vIllegalOp 0) s1) ∧
      (m ≤ 4 → level < (if m ≤ 1 then 1 else 2) → exec (.xprobe k rd ra rb) s = trapsWith k (trapOf vPrivOp 0) s1) ∧
      (m ≤ 4 → (if m ≤ 1 then 1 else 2) ≤ level → Settled s1 →
        (∃ c, answers c ∧ c.tag = tagRaw64) ∧
        (m ≠ 3 → 2 ^ 48 ≤ va.toNat → answers (cellRaw (w64 (5 + 2 ^ 63)))) ∧
        (m = 3 → 2 ^ 44 ≤ va.toNat → answers (cellRaw (w64 (5 + 64 + 2 ^ 63)))) ∧
        (m = 4 → va.toNat < 2 ^ 47 → answers (cellRaw (w64 (1 + 512 + 2 ^ 63)))) ∧
        (m = 2 → mbOf (front s1 k.val) = false → ∀ acc x,
          tlbHit (tlbsFor (getCore s1 k.val) acc) (coreSpace s1 k.val) (bitsOf (front s1 k.val).s1ttb 63 48) va.toNat = none →
          translate s1 k.val 0 acc va = .ok x →
          ∃ c, answers c ∧ c.data.toNat % 2 ^ 44 = x.pa ∧ c.data.toNat / 2 ^ 63 = 0 ∧ c.data.toNat / 2 ^ 48 % 4 = x.kind ∧
            (acc = .load → c.data.toNat / 2 ^ 50 % 2 = 1) ∧ (acc = .store → c.data.toNat / 2 ^ 51 % 2 = 1) ∧
            (acc = .fetch → c.data.toNat / 2 ^ 52 % 2 = 1))))

/-- For a core that executes, rd = 0, an address in ra that translates to a DDR line not of kind DEV, rb 0 or 1, and
caches whose every difference from memory below is marked dirty: CCLEAN leaves no dirty copy and every cache holds
what it held; CFLUSH, and CINV at level S, leave no copy but those in locked ways (with INCL_LOCKED above level T,
none), each skip counted in SKIPPED; memory is as before. CINV at level K returns a line dirty in the issuer's L1D
alone, held by its cluster and the SC only, to what lay below. On DEV or outside DDR they only go on. CINV below S,
CSW below K raise PRIV_OP; rd other than 0 or other bits of rb ILLEGAL_OP. CSW at an empty slot only goes on; CSW
FLUSH empties the slot it names. CPRE answers NONE, PRESENT, LOCKED (the line then lies in a locked way) or NORMAL, as
R187 says, for the L2 where rb names it, else for the SC. CMR answers OK and BUSY reads 1, or FULL without effect; at
its end, where nothing is discarded and no subchannel is retired, BUSY reads 0 and DONE has grown by the lines before
the first whose page fails, whose syndrome is kept with FAULT. -/
def Obligations.CacheMaintenanceInstructions : Prop :=
  (∀ (k : CoreId) (rd ra rb : Gpr) (s s1 : State), Ready k s s1 →
    let a := readReg s1 k.val ra
    let b := readReg s1 k.val rb
    let n := b.data.toNat
    let level := plOf (front s1 k.val)
    let all := [Instr.cclean k rd ra rb, .cflush k rd ra rb, .cinv k rd ra rb, .csw k rd ra rb]
    (rd.val ≠ 0 → ∀ i ∈ all, exec i s = trapsWith k (trapOf vIllegalOp 0) s1) ∧
    (rd.val = 0 → level = 0 → exec (.cinv k rd ra rb) s = trapsWith k (trapOf vPrivOp 0) s1) ∧
    (rd.val = 0 → level ≠ 2 → exec (.csw k rd ra rb) s = trapsWith k (trapOf vPrivOp 0) s1) ∧
    (rd.val = 0 → AddrCell a → b.tag = tagFix →
      (2 ≤ n → exec (.cclean k rd ra rb) s = trapsWith k (trapOf vIllegalOp 0) s1 ∧
        exec (.cflush k rd ra rb) s = trapsWith k (trapOf vIllegalOp 0) s1 ∧
        (level ≠ 0 → exec (.cinv k rd ra rb) s = trapsWith k (trapOf vIllegalOp 0) s1)) ∧
      (n < 2 → ∀ acc x s2, xlate k.val level acc a.data s1 = .ok (x, s2) →
        let mine := (if acc = .load then [Instr.cclean k rd ra rb] else if acc = .store then
          [Instr.cflush k rd ra rb] ++ (if level = 0 then [] else [Instr.cinv k rd ra rb]) else [])
        let line := x.pa / 64
        let incl := n = 1 ∧ level ≠ 0
        (x.kind = 0 ∨ regionOf s1 x.pa ≠ .ddr → ∀ i ∈ mine, exec i s = .next (finish k.val .seq s2)) ∧
        (x.kind ≠ 0 → regionOf s1 x.pa = .ddr → Settled s1 → ∀ i ∈ mine, i ≠ .cinv k rd ra rb ∨ level = 1 →
          Does i s (fun t => t.mem = s1.mem ∧ t.regs = s1.regs ∧ WentOn k s1 t ∧ ∀ c < 137,
            (acc = .load → cacheHolds t c line = cacheHolds s1 c line ∧
              ∀ e, cacheFind t c line = some e → e.dirty = false) ∧
            (acc = .store → (cacheHolds t c line = true ↔
              cacheHolds s1 c line = true ∧ heldLocked s1 c line = true ∧ ¬ incl)) ∧
            (acc = .store → ¬ incl → bitsOf (getCore t k.val).maint 51 28 = min (bitsOf (getCore s1 k.val).maint 51 28 +
              ((List.range 137).filter (fun j => heldLocked s1 j line)).length) (2 ^ 24 - 1)))) ∧
        (x.kind ≠ 0 → regionOf s1 x.pa = .ddr → acc = .store → level = 2 →
          (∀ e ∈ s1.lines, e.line = line → e.cache = 136 ∨ (e.cache < 136 ∧ cacheCluster e.cache = k.val / 8)) →
          (∀ c, heldLocked s1 c line = false) → cacheHolds s1 (l1dOf k.val) line = true →
          underOf s1 (l1dOf k.val) line ≠ [] → (∀ c, c ≠ l1dOf k.val → underOf s1 c line = []) →
          Does (.cinv k rd ra rb) s (fun t => (∀ c < 137, cacheHolds t c line = false) ∧ WentOn k s1 t ∧
            (∀ i < 8, sparseGet memDefault t.mem (line * 8 + i) = (underOf s1 (l1dOf k.val) line).getD i cellVoid) ∧
            ∀ a, a / 8 ≠ line → sparseGet memDefault t.mem a = sparseGet memDefault s1.mem a)))) ∧
    (rd.val = 0 → level = 2 → a.tag = tagFix → b.tag = tagFix →
      let w := a.data.toNat
      let c := cswCache k.val (w % 4)
      let set := w / 4 % 2 ^ 15
      let way := w / 2 ^ 17
      let valid := set < cacheSets c ∧ way < cacheWays c ∧ n < 8 ∧ n % 4 ≠ 3
      (¬ valid → exec (.csw k rd ra rb) s = trapsWith k (trapOf vIllegalOp 0) s1) ∧
      (valid → slotLine s1 c set way = none → exec (.csw k rd ra rb) s = .next (finish k.val .seq s1)) ∧
      (valid → ∀ e, slotLine s1 c set way = some e → n % 4 = 1 → Settled s1 →
        heldLocked s1 c e.line = false ∨ 4 ≤ n → Does (.csw k rd ra rb) s (fun t =>
          cacheHolds t c e.line = false ∧ t.mem = s1.mem ∧ WentOn k s1 t))) ∧
    (AddrCell a → b.tag = tagFix →
      (8 ≤ n ∨ n < 2 → exec (.cpre k rd ra rb) s = trapsWith k (trapOf vIllegalOp 0) s1) ∧
      (2 ≤ n → n < 8 → Settled s1 → ∀ x s2, xlate k.val level .load a.data s1 = .ok (x, s2) →
        let c := if n / 2 % 2 = 1 then l2Of (k.val / 8) else 136
        let line := x.pa / 64
        let none' := x.kind < 2 ∨ regionOf s1 x.pa ≠ .ddr ∨ cacheOn s1 c = false ∨
          (if n / 2 % 2 = 1 then x.nl2 else x.nsc) = true
        let place := (level = 2 ∨ (partOf s1 k.val).isSome = true) ∧ ∃ w < 12, wayLocked s1 c w = true ∧ wayDis s1 c w = false ∧
          wayOwner s1 c w = (if level = 2 then none else partOf s1 k.val) ∧ slotLine s1 c (setIndex c line) w = none
        let status := fun (v : Nat) (P : State → Prop) =>
          ∃ q, exec (.cpre k rd ra rb) s = gives k rd (cellFix (w64 v)) q ∧ q.mem = s1.mem ∧ q.regs = s1.regs ∧ P q
        (none' → status 3 (fun q => n < 6 → q.lines = s1.lines)) ∧
        (¬ none' → heldLocked s1 c line = true → status 2 (fun q => n < 6 → q.lines = s1.lines)) ∧
        (¬ none' → heldLocked s1 c line = false → place → status 0 (fun q => heldLocked q c line = true)) ∧
        (¬ none' → heldLocked s1 c line = false → ¬ place → status 1 (fun _ => True)))) ∧
    (level ≠ 0 → AddrCell a → b.tag = tagFix →
      let valid := n % 2 ^ 28 ≠ 0 ∧ n / 2 ^ 28 % 4 ≠ 3 ∧ n / 2 ^ 30 % 4 ≠ 0 ∧ n < 2 ^ 34
      (¬ valid → exec (.cmr k rd ra rb) s = trapsWith k (trapOf vIllegalOp 0) s1) ∧
      (valid → (getCore s1 k.val).rangeOp ≠ none → exec (.cmr k rd ra rb) s = gives k rd (cellFix 1) s1) ∧
      (valid → (getCore s1 k.val).rangeOp = none → ∃ q r, exec (.cmr k rd ra rb) s = gives k rd (cellFix 0) q ∧
        (getCore q k.val).rangeOp = some r ∧ r.lines = n % 2 ^ 28 ∧ r.ipa = a.data.toNat / 64 * 64 ∧
        r.op = n / 2 ^ 28 % 4 ∧ bitsOf (getCore q k.val).maint 63 0 = 2 ^ 52 ∧ q.mem = s1.mem ∧ q.regs = s1.regs)) ∧
    (level = 0 → exec (.cmr k rd ra rb) s = trapsWith k (trapOf vPrivOp 0) s1)) ∧
  (∀ (k : CoreId) (s : State) (r : RangeOp), (getCore s k.val).rangeOp = some r → Settled s →
    r.op < 2 ∨ (r.op = 2 ∧ r.discard = false) → fget s fldMEM_STAT_SUBFAIL 0 = 0 →
    let reach := fun (i : Nat) => rangeXlate s k.val r (r.ipa + 64 * i)
    let done := fun (t : State) => bitsOf (getCore t k.val).maint 27 0
    ((∀ i < r.lines, ∃ pa, reach i = .ok pa) → Does (.cmrComplete k) s (fun t => (getCore t k.val).rangeOp = none ∧
      bitsOf (getCore t k.val).maint 52 52 = 0 ∧ done t = (done s + r.lines) % 2 ^ 28 ∧ (r.wake = false → t.regs = s.regs))) ∧
    (∀ n < r.lines, (∀ i < n, ∃ pa, reach i = .ok pa) → ∀ f, reach n = .error f →
      Does (.cmrComplete k) s (fun t => (getCore t k.val).rangeOp = none ∧ bitsOf (getCore t k.val).maint 53 52 = 2 ∧
        bitsOf (getCore t k.val).maint 63 54 = syndrome f (if r.op = 0 then .load else .store) % 1024 ∧
        done t = (done s + n) % 2 ^ 28 ∧ (r.wake = false → t.regs = s.regs))))

/-- LINE_FILL of an access of kind WTM or WBC to DDR, the L2 allocating: the L1 and the L2 of the core then hold the
line and memory is as before; other accesses, and those that fault, fill nothing. MERGE_BUFFER_DRAIN takes the oldest
entry: where its cells are whole and memory answers, they lie in memory and every other cell is as before; an empty
buffer drains nothing. WBC_WRITEBACK of a dirty L1D line: the L1D holds it no longer, the level below that holds it is
dirty, memory is as before; if it fails, and the fault log writes no memory, the line's cells are POISON of origin
0x0B. STORE_ERROR makes event 0 pending with the line address and origin, and the cells named POISON, no other cell
changed. -/
def Obligations.CacheLinesAndStoreErrors : Prop :=
  (∀ (k : CoreId) (acc : Access) (va : Word) (s : State),
    (∀ x, translate s k.val (plOf (front s k.val)) acc va = .ok x →
      (x.kind < 2 ∨ regionOf s x.pa ≠ .ddr → exec (.lineFill k acc va) s = .next s) ∧
      (2 ≤ x.kind → regionOf s x.pa = .ddr → Settled s →
        Does (.lineFill k acc va) s (fun t => t.mem = s.mem ∧ t.regs = s.regs ∧
          (x.nl2 = false → cacheOn s (l2Of (k.val / 8)) = true →
            (∃ w < 16, wayLocked s (l2Of (k.val / 8)) w = false ∧ wayDis s (l2Of (k.val / 8)) w = false) →
            cacheHolds t (l2Of (k.val / 8)) (x.pa / 64) = true ∧
            cacheHolds t (if acc = .fetch then l1iOf k.val else l1dOf k.val) (x.pa / 64) = true)))) ∧
    (∀ f, translate s k.val (plOf (front s k.val)) acc va = .error f → exec (.lineFill k acc va) s = .next s)) ∧
  (∀ (k : CoreId) (s : State),
    ((getCore s k.val).merge = [] → exec (.mergeBufferDrain k) s = .next s) ∧
    (∀ e rest, (getCore s k.val).merge = e :: rest → Settled s →
      (∀ p ∈ e.cells, p.1 < 8 ∧ p.2.whole = true ∧ Answers s (e.line * 64 + 8 * p.1)) →
      e.cells.Pairwise (fun p q => p.1 ≠ q.1) →
      Does (.mergeBufferDrain k) s (fun t => (getCore t k.val).merge = rest ∧ t.regs = s.regs ∧
        (∀ p ∈ e.cells, memCell t (e.line * 64 + 8 * p.1) = p.2.cell) ∧
        (∀ a, (∀ p ∈ e.cells, ¬ SameCell s a (e.line * 64 + 8 * p.1)) → memCell t a = memCell s a)))) ∧
  (∀ (k : CoreId) (line : BitVec 38) (s : State) (e : CacheLine), cacheFind s (l1dOf k.val) line.toNat = some e →
    e.dirty = true →
    Does (.wbcWriteback k line false) s (fun t => t.mem = s.mem ∧ t.regs = s.regs ∧
      cacheHolds t (l1dOf k.val) line.toNat = false ∧ (∀ y, lowerCache s (l1dOf k.val) line.toNat = some y →
        ∃ d, cacheFind t y line.toNat = some d ∧ d.dirty = true)) ∧
    (fbit s fldFLT_LOGB_EN 0 = false → Does (.wbcWriteback k line true) s (fun t =>
      cacheHolds t (l1dOf k.val) line.toNat = false ∧
      ∀ i < 8, memCell t (line.toNat * 64 + 8 * i) = cellPoison 0x0B (line.toNat * 64)))) ∧
  (∀ (k : CoreId) (origin : BitVec 8) (pa : BitVec 44) (cells : BitVec 8) (s : State),
    Does (.storeError k origin pa cells) s (fun t => 0 ∈ (getCore t k.val).events ∧
      (getCore t k.val).storeErr = (w64 (pa.toNat / 64 * 64), origin.toNat) ∧ t.regs = s.regs ∧
      (∀ i < 8, cells.getLsbD i = true →
        memCell t (pa.toNat / 64 * 64 + 8 * i) = poisonOf origin.toNat (pa.toNat / 64 * 64 + 8 * i)) ∧
      (∀ a, (∀ i < 8, cells.getLsbD i = true → ¬ SameCell s a (pa.toNat / 64 * 64 + 8 * i)) → memCell t a = memCell s a)))

/-- Disabling an ENABLED cache makes EN read PENDING and starts a sweep, enabling a DISABLED one enables at once, and
either is ignored otherwise. Locking a way that is not locked, and disabling one that is not disabled, starts a sweep
with SWEEP 1; unlocking leaves the lines in place; enabling clears DIS. While an action runs on a way, writes of its
DIS bit wait. At the end of the oldest sweep of a cache, differences from memory below being marked dirty, the cache
or the way holds no line, memory is as before, EN reads DISABLED or the LOCK or DIS bit reads 1, and SWEEP reads 0
when no sweep of a way remains. A patrol leaves everything as it is: what it finds comes as commands of its own. -/
def Obligations.CacheControls : Prop :=
  ∀ (c : CacheId) (s : State),
    let n := cacheNo c
    let en : Reg × Nat := match c with
      | .l2 i => (.CLU_L2_CTL, i.val)
      | .sc => (.SC_CTL, 0)
    let ctl : Reg × Nat := match c with
      | .l2 i => (.CLU_L2_WAYCTL, i.val)
      | .sc => (.SC_WAYCTL, 0)
    let sweeping := fun (q : State) => match c with
      | .l2 i => fget q fldCLU_L2_WAYCTL_SWEEP i.val
      | .sc => fget q fldSC_WAYCTL_SWEEP 0
    let kept := fun (t : State) => t.lines = s.lines ∧ t.mem = s.mem
    (cacheEn s c = 1 → Does (.cacheDisable c) s (fun t => cacheEn t c = 2 ∧ t.sweeps = s.sweeps ++ [⟨n, .disable⟩] ∧
      OnlyRegs [en] s t ∧ kept t)) ∧
    (cacheEn s c ≠ 1 → exec (.cacheDisable c) s = .next s) ∧
    (cacheEn s c = 0 → Does (.cacheEnable c) s (fun t => cacheEn t c = 1 ∧ t.sweeps = s.sweeps ∧ OnlyRegs [en] s t ∧ kept t)) ∧
    (cacheEn s c ≠ 0 → exec (.cacheEnable c) s = .next s) ∧
    (∀ w : Fin 12,
      (wayLocked s n w.val = true → exec (.wayLock c w) s = .next s) ∧
      (wayLocked s n w.val = false → Does (.wayLock c w) s (fun t => t.sweeps = s.sweeps ++ [⟨n, .lock w.val⟩] ∧
        sweeping t = 1 ∧ wayLocked t n w.val = false ∧ OnlyRegs [ctl] s t ∧ kept t)) ∧
      Does (.wayUnlock c w) s (fun t => wayLocked t n w.val = false ∧ t.sweeps = s.sweeps ∧
        (∀ v < 12, v ≠ w.val → wayLocked t n v = wayLocked s n v) ∧ OnlyRegs [ctl] s t ∧ kept t)) ∧
    (∀ w : Fin 16,
      let busy := unitActing s (wayUnit n w.val).1 (wayUnit n w.val).2
      (busy = true → ∀ b : Bool, Does (if b then .wayDisable c w else .wayEnable c w) s (fun t =>
        t.deferred = s.deferred ++ [(0, 256 * n + w.val, w64 b.toNat)] ∧ t.regs = s.regs ∧ kept t)) ∧
      (busy = false → wayDis s n w.val = true → exec (.wayDisable c w) s = .next s) ∧
      (busy = false → wayDis s n w.val = false → Does (.wayDisable c w) s (fun t =>
        t.sweeps = s.sweeps ++ [⟨n, .way w.val⟩] ∧ sweeping t = 1 ∧ OnlyRegs [ctl] s t ∧ kept t)) ∧
      (busy = false → Does (.wayEnable c w) s (fun t => wayDis t n w.val = false ∧ t.sweeps = s.sweeps ∧
        (∀ v < 16, v ≠ w.val → wayDis t n v = wayDis s n v) ∧ OnlyRegs [ctl] s t ∧ kept t))) ∧
    (∀ x, s.sweeps.find? (fun y => y.cache == n) = some x → Settled s → Does (.cacheSweepDone c) s (fun t =>
      t.mem = s.mem ∧ t.sweeps = s.sweeps.erase x ∧ OnlyRegs [en, ctl] s t ∧
      (x.kind = .disable → cacheEn t c = 0 ∧ ∀ e ∈ t.lines, e.cache ≠ n) ∧
      (∀ w < 12, x.kind = .lock w → wayLocked t n w = true ∧ ∀ e ∈ t.lines, e.cache = n → e.way ≠ w) ∧
      (∀ w < 16, x.kind = .way w → wayDis t n w = true ∧ ∀ e ∈ t.lines, e.cache = n → e.way ≠ w) ∧
      ((∀ y ∈ s.sweeps.erase x, y.cache = n → y.kind = .disable) → sweeping t = 0))) ∧
    (s.sweeps.find? (fun y => y.cache == n) = none → exec (.cacheSweepDone c) s = .next s) ∧
    exec (.cachePatrol c) s = .next s

/-- A power request to a bank that must stay, that is in transition, without power for its group, or for the reserved
state sets REFUSED only; else it starts the transition, whose end shows the state, an OFF bank reading VOID and no
other cell changed. An interleave key is taken only while the cluster's banks are all POOL. A DARNING step that finds
nothing advances the bank's turn; a failed row takes a good spare, or sets FAILED without one; a cell it loses becomes
POISON and is counted. Training and initialisation move MEM_STAT as R202 says, DDR reading VOID when READY. Refresh
and a recalibration in progress keep all contents. A patrol scrub (fault log off) makes the lost cells of an uncached
line POISON and counts the event, a corrected one changing no cell. A skewed window counts, and raises event 0x18 or
0x19 when due. -/
def Obligations.LarderAndDdrCommands : Prop :=
  (∀ (b : Fin 64) (preq : BitVec 2) (s : State),
    let pst := fget s fldLARD_BANK_CTL_PST b.val
    let refused := preq.toNat = 3 ∨ pst = 3 ∨ (preq.toNat ≠ pst ∧ ((preq.toNat ≠ 0 ∧ bankStays s b.val = true) ∨ groupOn s b.val = false))
    (refused → Does (.larderPowerRequest b preq) s (fun t => fget t fldLARD_BANK_CTL_REFUSED b.val = 1 ∧
      fget t fldLARD_BANK_CTL_PST b.val = pst ∧ t.larder = s.larder ∧ OnlyRegs [(.LARD_BANK_CTL, b.val)] s t ∧ t.mem = s.mem)) ∧
    (¬ refused → preq.toNat = pst → exec (.larderPowerRequest b preq) s = .next s) ∧
    (¬ refused → preq.toNat ≠ pst → Does (.larderPowerRequest b preq) s (fun t => fget t fldLARD_BANK_CTL_PST b.val = 3 ∧
      fget t fldLARD_BANK_CTL_PREQ b.val = preq.toNat ∧ (getBank t b.val).target = some preq.toNat ∧
      OnlyRegs [(.LARD_BANK_CTL, b.val)] s t ∧ t.mem = s.mem)) ∧
    ((getBank s b.val).target = none → exec (.larderTransitionDone b) s = .next s) ∧
    (∀ q < 4, (getBank s b.val).target = some q → Does (.larderTransitionDone b) s (fun t =>
      fget t fldLARD_BANK_CTL_PST b.val = q ∧ (getBank t b.val).target = none ∧ OnlyRegs [(.LARD_BANK_CTL, b.val)] s t ∧
      (q ≠ 2 → t.mem = s.mem) ∧ (q = 2 → fget t fldLARD_BANK_CTL_SPARES b.val = 0 ∧
        ∀ a, sparseGet memDefault t.mem a = if bankAddr b.val 0 / 8 ≤ a ∧ a < bankAddr b.val 32768 / 8 then cellVoid
          else sparseGet memDefault s.mem a)))) ∧
  (∀ (c : Fin 8) (key : BitVec 36) (s : State),
    let pool := ∀ i < 8, fget s fldLARD_BANK_CTL_ROLE (8 * c.val + i) = 0
    (pool → Does (.lardHashKeyWrite c key) s (fun t => fget t fldLARD_HASH_KEY_KEY c.val = key.toNat ∧
      OnlyRegs [(.LARD_HASH_KEY, c.val)] s t ∧ t.mem = s.mem)) ∧
    (¬ pool → exec (.lardHashKeyWrite c key) s = .next s)) ∧
  (∀ (b : Fin 64) (s : State),
    let x := getBank s b.val
    let on := fget s fldLARD_DARN_CTL_EN 0 = 1 ∧ fget s fldLARD_BANK_CTL_DARN b.val = 1 ∧ bankOn s b.val = true
    (¬ on → ∀ f l bad, exec (.darningStep b f l bad) s = .next s) ∧
    (on → x.urgent = [] → x.turn < 512 →
      Does (.darningStep b [] [] false) s (fun t => (getBank t b.val).turn = (x.turn + 1) % 520 ∧
        (getBank t b.val).remap = x.remap ∧ t.mem = s.mem ∧ t.regs = s.regs) ∧
      (∀ g rest, x.good = g :: rest → Does (.darningStep b [] [] true) s (fun t => (x.turn, g) ∈ (getBank t b.val).remap ∧
        (getBank t b.val).good = rest ∧ t.mem = s.mem ∧
        fget t fldLARD_BANK_CTL_SPARES b.val = (getBank t b.val).remap.length % 16)) ∧
      (x.good = [] → fget s fldFLT_LOGB_EN 0 = 0 → Does (.darningStep b [] [] true) s (fun t =>
        fget t fldLARD_BANK_CTL_FAILED b.val = 1 ∧ 0x16 ∈ (getCore t 0).events ∧ t.mem = s.mem)) ∧
      (∀ i : Fin 64, fget s fldFLT_LOGB_EN 0 = 0 →
        let pa := bankAddr b.val (64 * x.turn + i.val)
        (memCell s pa).tag ≠ tagPoison → Does (.darningStep b [] [i] false) s (fun t =>
          memCell t pa = cellPoison 0x04 pa ∧ (∀ a, ¬ SameCell s a pa → memCell t a = memCell s a) ∧
          fget t fldFLT_CNT_UNCORRECTABLE (216 + b.val) = min (fget s fldFLT_CNT_UNCORRECTABLE (216 + b.val) + 1) (2 ^ 16 - 1))))) ∧
  (∀ (s : State) (size : Fin 9),
    (memState s = 2 → s.memRecal = false →
      (size.val = 0 → exec (.ddrTrainingDone true size) s = .next s) ∧
      (size.val ≠ 0 → Does (.ddrTrainingDone true size) s (fun t => memState t = 3 ∧ fget t fldMEM_STAT_SIZE 0 = size.val ∧
        OnlyRegs [(.MEM_STAT, 0)] s t ∧ t.mem = s.mem)) ∧
      Does (.ddrTrainingDone false size) s (fun t => memState t = 5 ∧ OnlyRegs [(.MEM_STAT, 0)] s t)) ∧
    (memState s ≠ 2 ∨ s.memRecal = true → ∀ ok, exec (.ddrTrainingDone ok size) s = .next s) ∧
    (memState s = 3 → Does (.ddrInitDone true) s (fun t => memState t = 4 ∧ OnlyRegs [(.MEM_STAT, 0)] s t ∧
        ∀ a, sparseGet memDefault t.mem a = if a < 0x4000000000 / 8 then cellVoid else sparseGet memDefault s.mem a) ∧
      Does (.ddrInitDone false) s (fun t => memState t = 5 ∧ t.mem = s.mem ∧ OnlyRegs [(.MEM_STAT, 0)] s t)) ∧
    (memState s ≠ 3 → ∀ ok, exec (.ddrInitDone ok) s = .next s) ∧
    (∀ sub, exec (.dramRefresh sub) s = .next s) ∧
    (∀ hot, Does (.dramTempAlert hot) s (fun t => fget t fldMEM_STAT_HOT 0 = hot.toNat ∧ memState t = memState s ∧
      fget t fldMEM_STAT_SIZE 0 = fget s fldMEM_STAT_SIZE 0 ∧ OnlyRegs [(.MEM_STAT, 0)] s t ∧ t.mem = s.mem)) ∧
    (s.memRecal = true → pllLocked s 3 = true → coasts s 3 = false → bootState s ≠ btWarm →
      Does .ddrRecalibrationDone s (fun t => memState t = 4 ∧ t.memRecal = false ∧ OnlyRegs [(.MEM_STAT, 0)] s t ∧ t.mem = s.mem)) ∧
    (s.memRecal = false → exec .ddrRecalibrationDone s = .next s)) ∧
  (∀ (line : BitVec 32) (bad : BitVec 8) (s : State),
    let pa := line.toNat * 64
    let unit := 208 + subchannel s pa
    let active := memState s = 4 ∧ fget s fldMEM_SCRUB_CTL_EN 0 = 1 ∧ regionOf s pa = .ddr
    let cell := fun (q : State) (i : Nat) => sparseGet memDefault q.mem (line.toNat * 8 + i)
    let lost := fun (i : Nat) => i < 8 ∧ bad.getLsbD i = true ∧ (cell s i).tag ≠ tagPoison
    (¬ active → ∀ c, exec (.patrolScrub line bad c) s = .next s) ∧
    (active → subRetired s pa = false → lineCached s line.toNat = false → fget s fldFLT_LOGB_EN 0 = 0 →
      ((∀ i, ¬ lost i) → exec (.patrolScrub line bad false) s = .next s ∧ Does (.patrolScrub line bad true) s (fun t =>
        t.mem = s.mem ∧ fget t fldFLT_CNT_CORRECTED unit = min (fget s fldFLT_CNT_CORRECTED unit + 1) (2 ^ 40 - 1))) ∧
      ((∃ i, lost i) → ∀ c, Does (.patrolScrub line bad c) s (fun t =>
        fget t fldFLT_CNT_UNCORRECTABLE unit = min (fget s fldFLT_CNT_UNCORRECTABLE unit + 1) (2 ^ 16 - 1) ∧
        (∀ i, lost i → cell t i = cellPoison 0x01 pa) ∧ (∀ i < 8, ¬ lost i → cell t i = cell s i) ∧
        ∀ a, a / 8 ≠ line.toNat → sparseGet memDefault t.mem a = sparseGet memDefault s.mem a)))) ∧
  (∀ (lines : List Nat) (s : State) (c : Fin 8), lines.length = 8 →
    let total := lines.foldl (fun a n => a + n) 0
    let skew := 256 ≤ total ∧ ∃ n ∈ lines, total < 2 * n
    let recent := fun (l : List Nat) => (l.filter (fun t => decide (s.dtime < t + 2 ^ 64))).length + 1
    let due := fun (l : List Nat) (last : Option Nat) => fget s fldMEM_SKEW_CTL_EV_EN 0 = 1 ∧
      fget s fldMEM_SKEW_CTL_TH 0 < recent l ∧ ∀ t, last = some t → t + 2 ^ 64 ≤ s.dtime
    (¬ skew → exec (.memSkewWindow lines) s = .next s ∧ exec (.lardSkewWindow c lines) s = .next s) ∧
    (skew → Does (.memSkewWindow lines) s (fun t => getReg t .MEM_SKEW 0 = getReg s .MEM_SKEW 0 + 1 ∧
        OnlyRegs [(.MEM_SKEW, 0)] s t ∧ (due s.skews s.skewAt → 0x18 ∈ (getCore t 0).events) ∧
        (¬ due s.skews s.skewAt → t.cores = s.cores)) ∧
      Does (.lardSkewWindow c lines) s (fun t => getReg t .LARD_SKEW 0 = getReg s .LARD_SKEW 0 + 1 ∧
        OnlyRegs [(.LARD_SKEW, 0)] s t ∧ (due s.lardSkews s.lardSkewAt → 0x19 ∈ (getCore t 0).events) ∧
        (¬ due s.lardSkews s.lardSkewAt → t.cores = s.cores)))) ∧
  (∀ (b : Fin 64) (s : State) (i : Nat), i < 32768 → cellKey (canonPa s (bankAddr b.val i)) = bankAddr b.val 0 / 8 + i)

/-- For a core that executes. ALLOC with room in the buffer answers the pointer and advances ABCUR by the object's
cells, a pair also from a new buffer; without a heap, for more than 1,024 cells or without a buffer it raises ALLOC
with details 3, 2, 1, in the last case recording the task. SHADE delivers ra, but a pointer into a condemned rack as
the phase resolves it; in MARK a pointer to an unmarked OLD object joins the mark queue, in IDLE nothing else changes.
A root sweep leaves the unit scanned. A descriptor to LAUNDRY answers NOT_OWNED without EN, BAD_DESC when malformed;
RACK_ADD makes OFFLINE racks of the window FREE and unwiped, RACK_REMOVE FREE ones OFFLINE or is refused, NCYCLE and
MCYCLE record the cycle in IDLE and are refused otherwise, ALLOC_LARGE takes contiguous FREE racks. The due flip,
FLIPGAP after the last, condemns the nurseries and enters NCOPY, or fails with NO_RESERVE; an ended NCOPY or MARK goes
on to MARK or EVAC. A slice takes the next root, then the mark queue, then LAUNDRY's own. A phase that is done ends as
R215 says, a cycle counting and condemned racks becoming FREE, or MATURE when one was abandoned in it. A wiped rack is
usable. -/
def Obligations.AllocationShadeAndLaundry : Prop :=
  (∀ (k : CoreId) (rd ra rb : Gpr) (s s1 : State), Ready k s s1 →
    let a := readReg s1 k.val ra
    let b := readReg s1 k.val rb
    let tag := a.data.toNat
    let c := getCore s1 k.val
    let size := if tag = 0x40 then 2 else b.data.toNat + 1
    let fits := tag = 0x40 ∨ (0 ≤ b.data.toInt ∧ b.data.toInt ≤ 1024)
    let allocTrap := fun (n : Nat) (q : State) => exec (.alloc k rd ra rb) s = trapsWith k (trapOf 22 n) q
    (a.tag = tagFix → (tag = 0x40 ∨ b.tag = tagFix) → (0x40 ≤ tag ∧ tag ≤ 0x48) ∨ (0x50 ≤ tag ∧ tag ≤ 0x5F) →
      (partOf s1 k.val = none → allocTrap 3 s1) ∧
      (∀ p, partOf s1 k.val = some p →
        (heapOn s1 p = false → allocTrap 3 s1) ∧
        (heapOn s1 p = true → ¬ fits → allocTrap 2 s1) ∧
        (heapOn s1 p = true → fits → c.abend.toNat < c.abcur.toNat + 8 * size → takeNursery p s1 = none →
          ∃ q, allocTrap 1 q ∧ q.mem = s1.mem ∧
            ∀ t, ctxTask (front s1 k.val) = some (p, t) → t ∈ (getLaundry q p).waiting) ∧
        (heapOn s1 p = true → fits → c.abcur.toNat + 8 * size ≤ c.abend.toNat →
          (tag = 0x40 → ∃ q, exec (.alloc k rd ra rb) s = gives k rd ⟨tagCons, c.abcur⟩ q ∧ q.mem = s1.mem ∧
            (getCore q k.val).abcur = c.abcur + 16 ∧ (getCore q k.val).abend = c.abend) ∧
          (tag ≠ 0x40 → ∀ q, heapWrite (some k.val) p c.abcur.toNat ⟨tagHeader, w64 (tag * 2 ^ 56 + b.data.toNat)⟩ s1 = .ok q →
            ∃ t, exec (.alloc k rd ra rb) s = gives k rd ⟨BitVec.ofNat 8 tag, c.abcur⟩ t ∧ t.mem = q.mem ∧
              (getCore t k.val).abcur = c.abcur + w64 (8 * size))) ∧
        (heapOn s1 p = true → tag = 0x40 → c.abend.toNat < c.abcur.toNat + 16 → ∀ x q, takeNursery p s1 = some (x, q) →
          ∃ t, exec (.alloc k rd ra rb) s = gives k rd ⟨tagCons, w64 x⟩ t ∧
            (getCore t k.val).abcur = w64 x + 16 ∧ (getCore t k.val).abend = w64 (x + 32768)))) ∧
    (a.tag = tagFix → b.tag = tagFix → tag < 0x40 ∨ tag = 0x49 ∨ 0x60 ≤ tag →
      exec (.alloc k rd ra rb) s = trapsWith k (trapOn vTagCheck 1 ra.val a.tag) s1) ∧
    (isPtr a.tag = false ∨ partOf s1 k.val = none ∨ (∃ p, partOf s1 k.val = some p ∧ phaseOfPart s1 p = 0) →
      exec (.shade k rd ra) s = gives k rd a s1) ∧
    (∀ p, isPtr a.tag = true → partOf s1 k.val = some p → phaseOfPart s1 p ≠ 0 → phaseOfPart s1 p ≠ 2 →
      (filterOf s1 p tag ≠ 3 → exec (.shade k rd ra) s = gives k rd a s1) ∧
      (filterOf s1 p tag = 3 → ∀ v q, resolve (some k.val) p a s1 = .ok (v, q) → exec (.shade k rd ra) s = gives k rd v q)) ∧
    (∀ p, partOf s1 k.val = some p → phaseOfPart s1 p = 2 → ∃ q, exec (.shade k rd ra) s = gives k rd a q ∧
      q.regs = s1.regs ∧ (isPtr a.tag = true → filterOf s1 p tag = 2 → markBit s1 p tag = false →
        (s1.markq.filter (fun e => e.1 == k.val / 8)).length < 256 → q.markq = s1.markq ++ [(k.val / 8, p, tag)]))) ∧
  (∀ (k : CoreId) (fr : Bool) (u : Fin 34) (s : State),
    (((sideCtx s k.val fr).unscanned.getLsbD u.val = false) → exec (.rootSweep k fr u) s = .next s) ∧
    (∀ t, scanUnit k.val fr u.val s = .ok t → exec (.rootSweep k fr u) s = .next t ∧
      (sideCtx t k.val fr).unscanned.getLsbD u.val = false)) ∧
  (∀ (who : Agent) (c0 c1 c2 : Cell) (s : State),
    let racks := fun (op : Nat) => (if op = 1 then Instr.rackAdd who [c0, c1, c2] else .rackRemove who [c0, c1, c2])
    let cycle := fun (m : Bool) => (if m then Instr.mcycle who [c0, c1, c2] else .ncycle who [c0, c1, c2])
    let every := [racks 1, racks 2, cycle false, cycle true, .allocLarge who [c0, c1, c2]]
    let refuse := fun (i : Instr) (n : Nat) => exec i s = .next { s with status := n }
    let first := c1.data.toNat % 2 ^ 17
    let n := c1.data.toNat / 2 ^ 17 % 2 ^ 17
    (agentPart s who = none → ∀ i ∈ every, refuse i 2) ∧
    (∀ p, agentPart s who = some p →
      (fget s fldLNDR_PART_CTL_EN p = 0 → ∀ i ∈ every, refuse i 2) ∧
      (fget s fldLNDR_PART_CTL_EN p = 1 →
        (c0.tag ≠ tagRaw64 ∨ c0.data.toNat / 2 ^ 14 % 2 ^ 18 ≠ 0 → ∀ i ∈ every, refuse i 5) ∧
        (c0.tag = tagRaw64 → c0.data.toNat / 2 ^ 14 % 2 ^ 18 = 0 →
          (c1.tag ≠ tagRaw64 → refuse (racks 1) 5 ∧ refuse (racks 2) 5 ∧ refuse (.allocLarge who [c0, c1, c2]) 5) ∧
          (c1.tag = tagRaw64 → c2.tag ≠ tagRaw64 ∨ allocTag (c1.data.toNat % 2 ^ 8) = false ∨ c1.data.toNat % 2 ^ 8 = 0x40 →
            refuse (.allocLarge who [c0, c1, c2]) 5) ∧
          (c1.tag = tagRaw64 → fget s fldLNDR_PART_HEAP_RCOUNT p < first + n → refuse (racks 1) 2 ∧ refuse (racks 2) 2) ∧
          (c1.tag = tagRaw64 → first + n ≤ fget s fldLNDR_PART_HEAP_RCOUNT p →
            Does (racks 1) s (fun t => t.status = 0 ∧ t.regs = s.regs ∧ ∀ j < n,
              ((getRack s p (first + j)).state = 6 → (getRack t p (first + j)).state = 0 ∧
                (getRack t p (first + j)).wiped = false ∧ (getRack t p (first + j)).part = p) ∧
              ((getRack s p (first + j)).state ≠ 6 → getRack t p (first + j) = getRack s p (first + j))) ∧
            ((∀ j < n, (getRack s p (first + j)).state = 0) → Does (racks 2) s (fun t => t.status = 0 ∧ t.regs = s.regs ∧
              ∀ j < n, (getRack t p (first + j)).state = 6)) ∧
            (∀ j < n, (getRack s p (first + j)).state ≠ 0 → refuse (racks 2) 3)) ∧
          (∀ m, (phaseOfPart s p ≠ 0 → refuse (cycle m) 3) ∧
            (phaseOfPart s p = 0 → Does (cycle m) s (fun t => t.status = 0 ∧ (getLaundry t p).want = some m ∧
              t.mem = s.mem ∧ t.regs = s.regs))) ∧
          (c1.tag = tagRaw64 → c2.tag = tagRaw64 → allocTag (c1.data.toNat % 2 ^ 8) = true → c1.data.toNat % 2 ^ 8 ≠ 0x40 →
            let cells := c1.data.toNat / 2 ^ 8 % 2 ^ 32 + 1
            let need := (cells + 262143) / 262144
            (contiguous s p need = none → Does (.allocLarge who [c0, c1, c2]) s (fun t => t.status = 0 ∧ t.racks = s.racks)) ∧
            (∀ i, contiguous s p need = some i → need ≤ 65536 →
              Does (.allocLarge who [c0, c1, c2]) s (fun t => t.status = 0 ∧
                (getRack t p i).state = 3 ∧ (getRack t p i).span = need ∧
                ∀ j < need, j ≠ 0 → (getRack t p (i + j)).state = 4))))))) ∧
  (∀ (p : Fin 8) (s : State),
    let l := getLaundry s p.val
    let ph := phaseOfPart s p.val
    let runs := laundryRuns s p.val = true
    let flips := runs ∧ flipSpaced s p.val = true
    let due := ph = 0 ∧ ∃ m, l.want = some m ∨ (l.want = none ∧ cycleDue s p.val = true ∧ m = false)
    let enough := reserveRacks ((nurseries s p.val).foldl (fun n i => n + (getRack s p.val i).top) 0) + 1 ≤ (freeRacks s p.val).length
    (¬ flips ∨ (ph = 0 ∧ ¬ due) ∨ (ph ≠ 0 ∧ l.ended = false) ∨ 3 ≤ ph → exec (.laundryFlip p) s = .next s) ∧
    (flips → due → enough → Does (.laundryFlip p) s (fun t => phaseOfPart t p.val = 1 ∧
      (getLaundry t p.val).want = none ∧ (l.want = some true → (getLaundry t p.val).mature = true) ∧
      (∀ i ∈ nurseries s p.val, (getRack t p.val i).state = 5) ∧
      ∀ k ∈ coresOf s p.val, (getCore t k).front.unscanned = BitVec.allOnes 34 ∧ (getCore t k).abcur = 0)) ∧
    (flips → due → ¬ enough → Does (.laundryFlip p) s (fun t => phaseOfPart t p.val = 0 ∧
      fget t fldLNDR_PART_STAT_FAIL p.val = 1 ∧
      ((∀ i ∈ racksOf s p.val, (getRack s p.val i).tospace = false) → l.freed = false → t.racks = s.racks ∧ t.mem = s.mem) ∧
      ∀ k rest, coresOf s p.val = k :: rest → 0x40 + 24 * p.val + 3 ∈ (getCore t k).events)) ∧
    (flips → l.ended = true → ph = 1 → Does (.laundryFlip p) s (fun t => phaseOfPart t p.val = 2)) ∧
    (flips → l.ended = true → ph = 2 → Does (.laundryFlip p) s (fun t => phaseOfPart t p.val = 3 ∨
      (phaseOfPart t p.val = 0 ∧ fget t fldLNDR_PART_STAT_FAIL p.val = 1))) ∧
    (¬ runs ∨ ph = 0 → exec (.laundrySlice p) s = .next s) ∧
    (runs → ph ≠ 0 →
      (∀ r rest, l.roots = r :: rest → Does (.laundrySlice p) s (fun t => (getLaundry t p.val).roots = rest ∧
        phaseOfPart t p.val = ph)) ∧
      (l.roots = [] → ∀ e, s.markq.find? (fun e => e.2.1 == p.val) = some e → Does (.laundrySlice p) s (fun t =>
        t.markq = s.markq.erase e ∧ phaseOfPart t p.val = ph)) ∧
      (l.roots = [] → s.markq.find? (fun e => e.2.1 == p.val) = none → ∀ a rest, l.queue = a :: rest →
        Does (.laundrySlice p) s (fun t => ∃ more, (getLaundry t p.val).queue = rest ++ more))) ∧
    (¬ runs ∨ phaseDone s p.val = false → exec (.laundryPhaseEnd p) s = .next s) ∧
    (runs → phaseDone s p.val = true →
      ((ph = 1 ∧ l.mature = true) ∨ ph = 2 → Does (.laundryPhaseEnd p) s (fun t => phaseOfPart t p.val = ph ∧
        (getLaundry t p.val).ended = true)) ∧
      (ph = 3 → Does (.laundryPhaseEnd p) s (fun t => phaseOfPart t p.val = 4)) ∧
      ((ph = 1 ∧ l.mature = false) ∨ 4 ≤ ph → Does (.laundryPhaseEnd p) s (fun t => phaseOfPart t p.val = 0 ∧
        getReg t .LNDR_PART_CYCLES p.val = getReg s .LNDR_PART_CYCLES p.val + (if l.mature then w64 (2 ^ 32) else 1) ∧
        ((∀ j ∈ racksOf s p.val, (getRack s p.val j).state = 5 →
          (getRack s p.val j).abandoned = false ∧ (getRack s p.val j).damaged = false) →
          ∀ i ∈ racksOf s p.val, (getRack s p.val i).state = 5 → (getRack t p.val i).state = 0) ∧
        (∀ i ∈ racksOf s p.val, (getRack s p.val i).state = 5 → (getRack s p.val i).abandoned = true →
          (getRack s p.val i).tospace = false →
          (getRack t p.val i).state = 2) ∧
        ∀ k rest, coresOf s p.val = k :: rest → 0x40 + 24 * p.val + 2 ∈ (getCore t k).events))) ∧
    (∀ rack : BitVec 16,
      let r := getRack s p.val rack.toNat
      let idle := fget s fldLNDR_PART_CTL_EN p.val = 1 ∧ r.part = p.val ∧ r.state = 0 ∧ r.wiped = false
      (¬ idle → exec (.rackWipeDone p rack) s = .next s) ∧
      (idle → Does (.rackWipeDone p rack) s (fun t => (getRack t p.val rack.toNat).wiped = true ∧
        (getRack t p.val rack.toNat).state = 0 ∧ (getRack t p.val rack.toNat).top = 0 ∧ t.regs = s.regs))))

/-- A control command answers NOT_OWNED without a partition, at level T, or where the partition has no core in the
cluster; BAD_DESC when malformed; OK with a bounce for a stale epoch. Else, the TCB bank answering: START makes a FREE
or FAULTED task READY; HOLD makes a READY or WAITING task HELD with its PRIOR state, and a RUNNING one at once where
its context may be taken, and else it waits at that core; RELEASE lets a HELD task be READY again, or WAITING without
a pending code; KILL leaves it FREE with the next epoch, a RUNNING one as HOLD does; REROLE gives the next epoch; WAKE
sets code 5; other states answer STATE_REFUSED (3) without effect. The dispatcher carries out a HOLD or KILL that
waits, gives an idle core its best candidate, here held in its back context, and lets a candidate that ranks above the
running task preempt it, that task READY again. A back context that is loaded holds the task at the TCB's PC, or the
task is FAULTED; a drained one is idle and its PC is in the TCB, or the task is FAULTED. -/
def Obligations.TaskControlAndSwitching : Prop :=
  (∀ (who : Agent) (cl : Fin 8) (c : Cell) (s : State),
    let start := Instr.taskStart who cl [c]
    let hold := Instr.taskHold who cl [c]
    let release := Instr.taskRelease who cl [c]
    let kill := Instr.taskKill who cl [c]
    let rerole := Instr.taskRerole who cl [c]
    let wake := Instr.taskWake who cl [c]
    let every := [start, hold, release, kill, rerole, wake]
    let refuse := fun (i : Instr) (n : Nat) => exec i s = .next { s with status := n }
    let t := c.data.toNat / 16 % 1024
    let good := c.tag = tagRaw64 ∧ c.data.toNat / 2 ^ 14 % 2 ^ 18 = 0
    (agentPart s who = none → ∀ i ∈ every, refuse i 2) ∧
    (∀ p, agentPart s who = some p →
      (atLevelT s who = true ∨ coresIn s p cl.val = [] → ∀ i ∈ every, refuse i 2) ∧
      (atLevelT s who = false → coresIn s p cl.val ≠ [] →
        (¬ good → ∀ i ∈ every, refuse i 5) ∧
        (good → tcbEpoch s p t ≠ c.data.toNat / 2 ^ 32 → ∀ i ∈ every, Does i s (fun q => q.status = 0 ∧
          (s.mail.length + 1 = q.mail.length ∨ q.mail = s.mail))) ∧
        (good → tcbEpoch s p t = c.data.toNat / 2 ^ 32 → TcbUp p s →
          let st := stOf s p t
          let becomes := fun (i : Instr) (n : Nat) (P : State → Prop) =>
            Does i s (fun q => q.status = 0 ∧ stOf q p t = n ∧ P q)
          ((st = stFree ∨ st = stFaulted → becomes start stReady (fun q => (st = stFree → tcbPend q p t = 0))) ∧
           (st ≠ stFree → st ≠ stFaulted → refuse start 3)) ∧
          ((st = stReady ∨ st = stWaiting → becomes hold stHeld (fun q => bitsOf (tcbWord q p t 0) 26 24 = st)) ∧
           (st = stHeld → refuse hold 0) ∧ (st = stFree ∨ 5 ≤ st → refuse hold 3) ∧
           (st = stRunning →
            (contextOf s p t = none → becomes hold stHeld (fun q => bitsOf (tcbWord q p t 0) 26 24 = stReady)) ∧
            ∀ k, contextOf s p t = some (k, true) →
              (mayTake s k = true → becomes hold stHeld (fun q => bitsOf (tcbWord q p t 0) 26 24 = stReady)) ∧
              (mayTake s k = false → Does hold s (fun q => q.status = 0 ∧ q.mem = s.mem ∧
                (getCore q k).ctl = some (t, if (getCore s k).ctl = some (t, 4) then 4 else 2))))) ∧
          ((st = stHeld → bitsOf (tcbWord s p t 0) 26 24 ≠ stWaiting → becomes release stReady (fun _ => True)) ∧
           (st = stHeld → bitsOf (tcbWord s p t 0) 26 24 = stWaiting → wakeCode s p t (tcbMask s p t) = none →
            becomes release stWaiting (fun _ => True)) ∧
           (st = stHeld → bitsOf (tcbWord s p t 0) 26 24 = stWaiting → wakeCode s p t (tcbMask s p t) ≠ none →
            becomes release stReady (fun _ => True)) ∧
           (st ≠ stHeld → refuse release 3)) ∧
          ((st = stReady ∨ st = stWaiting ∨ st = stHeld ∨ st = stFaulted ∨ (st = stRunning ∧ (contextOf s p t = none ∨
              ∃ k, contextOf s p t = some (k, true) ∧ mayTake s k = true)) →
            becomes kill stFree (fun q => tcbEpoch q p t = (tcbEpoch s p t + 1) % 2 ^ 32)) ∧
           (st = stRunning → ∀ k, contextOf s p t = some (k, true) → mayTake s k = false →
            Does kill s (fun q => q.status = 0 ∧ q.mem = s.mem ∧ (getCore q k).ctl = some (t, 4))) ∧
           (st = stFree → refuse kill 3)) ∧
          ((st ≠ stFree → Does rerole s (fun q => q.status = 0 ∧ tcbEpoch q p t = (tcbEpoch s p t + 1) % 2 ^ 32)) ∧
           (st = stFree → refuse rerole 3)) ∧
          ((st ≠ stFree → st ≠ stFaulted → Does wake s (fun q => q.status = 0 ∧ tcbPend q p t / 2 ^ 5 % 2 = 1)) ∧
           (st = stFree ∨ st = stFaulted → refuse wake 3)))))) ∧
  (∀ (cl : Fin 8) (s : State),
    ((∀ i < 8, switchOk s (8 * cl.val + i) = false ∧
        (mayTake s (8 * cl.val + i) = false ∨ (getCore s (8 * cl.val + i)).ctl = none)) →
      exec (.dispatchSwitch cl) s = .next s) ∧
    (∀ i < 8, ∀ p t, let k := 8 * cl.val + i
      mayTake s k = true → (∀ j < i, mayTake s (8 * cl.val + j) = false ∨ (getCore s (8 * cl.val + j)).ctl = none) →
      partOf s k = some p → TcbUp p s →
      ((getCore s k).ctl = some (t, 2) → stOf s p t = stRunning →
        Does (.dispatchSwitch cl) s (fun q => stOf q p t = stHeld ∧ (getCore q k).ctl = none)) ∧
      ((getCore s k).ctl = some (t, 4) → stOf s p t ≠ stFree →
        Does (.dispatchSwitch cl) s (fun q => stOf q p t = stFree ∧ (getCore q k).ctl = none))) ∧
    (∀ i < 8, ∀ p t, let k := 8 * cl.val + i
      (∀ j < 8, (getCore s (8 * cl.val + j)).ctl = none) → switchOk s k = true → t < 1024 → TcbUp p s →
      contextOf s p t = some (k, false) →
      (partOf s k = some p → runningTask s k = none → (∀ j < 8, j ≠ i → switchOk s (8 * cl.val + j) = false) →
        bestFor s k p = some t → Does (.dispatchSwitch cl) s (fun q => ctxTask (front q k) = some (p, t) ∧
          stOf q p t = stRunning ∧ (getCore q k).yielded = none)) ∧
      (∀ u, coresIn s p cl.val = [k] → (∀ r < 8, r ≠ p → coresIn s r cl.val = []) → runningTask s k = some (p, u) →
        stOf s p t = stReady → tcbCluster s p t = cl.val → tcbAffinity s p t k = true → ranksAbove s p t u = true →
        yieldBars s k t u = false → (∀ v < 1024, stOf s p v = stReady → tcbCluster s p v = cl.val → v = t) →
        Does (.dispatchSwitch cl) s (fun q => ctxTask (front q k) = some (p, t) ∧ stOf q p t = stRunning ∧
          stOf q p u = stReady ∧ ctxTask (getCore q k).back = some (p, u))))) ∧
  (∀ (k : CoreId) (s : State),
    (partOf s k.val = none → exec (.backContextLoad k) s = .next s ∧ exec (.contextDrain k) s = .next s) ∧
    (∀ p, partOf s k.val = some p →
      (ctxTask (getCore s k.val).back ≠ none ∨ (getCore s k.val).run = false ∨ backChoice s k.val p = none →
        exec (.backContextLoad k) s = .next s) ∧
      (∀ t, t < 1024 → ctxTask (getCore s k.val).back = none → (getCore s k.val).run = true → backChoice s k.val p = some t →
        ctxTask (front s k.val) ≠ some (p, t) → TcbUp p s → Does (.backContextLoad k) s (fun q =>
          ctxTask (front q k.val) = ctxTask (front s k.val) ∧ (front q k.val).pc = (front s k.val).pc ∧
          ((ctxTask (getCore q k.val).back = some (p, t) ∧ (getCore q k.val).back.pc = tcbWord s p t 4 ∧
            (getCore q k.val).back.npc = tcbWord s p t 5 ∧ tcbBad s p t = none) ∨
           (ctxTask (getCore q k.val).back = none ∧ stOf q p t = stFaulted)))) ∧
      (ctxTask (getCore s k.val).back = none → exec (.contextDrain k) s = .next s) ∧
      (∀ r t, ctxTask (getCore s k.val).back = some (r, t) →
        (backChoice s k.val p = some t → exec (.contextDrain k) s = .next s) ∧
        (backChoice s k.val p ≠ some t → TcbUp r s → Does (.contextDrain k) s (fun q =>
          ctxTask (getCore q k.val).back = none ∧ ctxTask (front q k.val) = ctxTask (front s k.val) ∧
          (front q k.val).pc = (front s k.val).pc ∧
          (stOf q r t = stFaulted ∨ tcbWord q r t 4 = (getCore s k.val).back.pc))))))

/-- CLAIM takes FREE to CONFIG, RELEASE takes CONFIG to FREE while nothing is assigned to the partition; otherwise
both are ignored. START is ignored outside CONFIG; with a barred launch record it sets LERR and nothing else; else the
partition RUNS and its lowest core runs at level S from the record's PC. RESET in CONFIG or RUNNING shows RESETTING
and its ARMED outputs ramp with cause PRESET. The reset ends in CONFIG once the cores can stop, and they hold no task
then and do not run. A core moves only for the keeper, not core 0 and not while it moves; the same owner is written at
once; an offline or unpowered core joins no partition; otherwise MOVING = 1, and the move ends with the new owner,
idle contexts and empty TLBs. A grant with KIND not 0 takes only KIND = 0; PS15's declaration and one that admitted
work uses stay. An activation of a RUNNING task with a TASK grant that passes its LIMIT, in units of 64 cycles, runs
at band 3 from then on and is counted once. -/
def Obligations.PartitionsMovesAndGrants : Prop :=
  (∀ (p : Fin 8) (s : State),
    let st := partState s p.val
    let only := fun (t : State) => OnlyRegs [(.GLB_PART_CTL, p.val)] s t ∧ t.mem = s.mem ∧ t.cores = s.cores
    (st = 0 → Does (.partClaim p) s (fun t => partState t p.val = 1 ∧ only t)) ∧
    (st ≠ 0 → exec (.partClaim p) s = .next s) ∧
    (st = 1 → partHolds s p.val = false → Does (.partRelease p) s (fun t => partState t p.val = 0 ∧ only t)) ∧
    (st ≠ 1 ∨ partHolds s p.val = true → exec (.partRelease p) s = .next s) ∧
    (st ≠ 1 → exec (.partStart p) s = .next s) ∧
    (let cells := physCells s (fget s fldGLB_PART_ENTRY_PADDR p.val * 64) 8
     st = 1 →
      (startBarred s p.val cells = true → Does (.partStart p) s (fun t => partState t p.val = 1 ∧
        fget t fldGLB_PART_ENTRY_LERR p.val = 1 ∧ OnlyRegs [(.GLB_PART_ENTRY, p.val)] s t ∧ t.mem = s.mem ∧
        t.cores = s.cores)) ∧
      (startBarred s p.val cells = false → Does (.partStart p) s (fun t => partState t p.val = 2 ∧
        ∀ k rest, coresOf s p.val = k :: rest → (getCore t k).run = true ∧ (front t k).pstat = 1 ∧
          (front t k).pc = keepBits (cells.getD 0 cellVoid).data 47 2 ∧ (front t k).wstat = 0x10000))) ∧
    (st = 1 ∨ st = 2 → Does (.partReset p) s (fun t => partState t p.val = 3 ∧
      ∀ o < 64, outOwner s o = some p.val → fget s fldDRV_OUT_STAT_STATE o = 1 →
        fget t fldDRV_OUT_STAT_STATE o = 2 ∧ fget t fldDRV_OUT_STAT_CAUSE o = 12)) ∧
    (st ≠ 1 → st ≠ 2 → exec (.partReset p) s = .next s) ∧
    (let can := st = 3 ∧ ∀ k ∈ coresOf s p.val, atPoint s k = true ∧ fget s fldCLU_RESET_BUSY (k / 8) = 0
     (can → Does (.partResetDone p) s (fun t => partState t p.val = 1 ∧ ∀ k ∈ coresOf s p.val,
        (getCore t k).run = false ∧ ctxTask (front t k) = none ∧ ctxTask (getCore t k).back = none)) ∧
     (¬ can → exec (.partResetDone p) s = .next s))) ∧
  (∀ (who : Agent) (k : CoreId) (assign : Bool) (p : Fin 8) (s : State),
    let v := p.val + 8 * assign.toNat
    let same := partOf s k.val = (if assign then some p.val else none)
    let free := isKeeper s who = true ∧ k.val ≠ 0 ∧ fget s fldCLU_CORE_PART_MOVING k.val = 0
    let usable := assign = true → nbits (fget s fldFLT_CORE_OFF_OFF 0) k.val k.val = 0 ∧ pwrOn s (k.val / 8) = true
    let only := fun (t : State) => OnlyRegs [(.CLU_CORE_PART, k.val)] s t ∧ t.mem = s.mem ∧ t.cores = s.cores
    (¬ free ∨ ¬ usable → exec (.coreMove who k assign p) s = .next s) ∧
    (free → usable → same → Does (.coreMove who k assign p) s (fun t =>
      getReg t .CLU_CORE_PART k.val = w64 v ∧ partOf t k.val = partOf s k.val ∧ only t)) ∧
    (free → usable → ¬ same → Does (.coreMove who k assign p) s (fun t =>
      fget t fldCLU_CORE_PART_MOVING k.val = 1 ∧ partOf t k.val = partOf s k.val ∧
      sparseGet (fun _ => 0) t.moving k.val = v ∧ only t))) ∧
  (∀ (k : CoreId) (s : State),
    let can := fget s fldCLU_CORE_PART_MOVING k.val = 1 ∧ mayLeave s k.val = true
    (¬ can → exec (.coreMoveDone k) s = .next s) ∧
    (can → ∀ v < 16, sparseGet (fun _ => 0) s.moving k.val = v → Does (.coreMoveDone k) s (fun t =>
      fget t fldCLU_CORE_PART_MOVING k.val = 0 ∧ partOf t k.val = (if 8 ≤ v then some (v % 8) else none) ∧
      ctxTask (front t k.val) = none ∧ ctxTask (getCore t k.val).back = none ∧ (getCore t k.val).itlb = [] ∧
      (getCore t k.val).dtlb = [] ∧ (getCore t k.val).l2tlb = [] ∧
      (8 ≤ v → (getCore t k.val).s2ttb = getReg t .GLB_PART_S2TTB (v % 8))))) ∧
  (∀ (who : Agent) (i : Fin 256) (v : Word) (s : State),
    let may := isKeeper s who = true ∧ (fget s fldGLB_ADM_GRANT_KIND i.val = 0 ∨ bitsOf v 3 0 = 0)
    (¬ may → exec (.grantWrite who i v) s = .next s) ∧
    (may → Does (.grantWrite who i v) s (fun t => getReg t .GLB_ADM_GRANT i.val = putBits v 31 26 0 ∧
      OnlyRegs [(.GLB_ADM_GRANT, i.val)] s t ∧ t.mem = s.mem ∧ t.cores = s.cores))) ∧
  (∀ (who : Agent) (i : Fin 16) (v : Word) (s : State),
    let may := isKeeper s who = true ∧ i.val ≠ 15 ∧ srcAdmitted s i.val = false
    (¬ may → exec (.admSrcWrite who i v) s = .next s) ∧
    (may → Does (.admSrcWrite who i v) s (fun t => getReg t .GLB_ADM_SRC i.val = v ∧
      OnlyRegs [(.GLB_ADM_SRC, i.val)] s t ∧ t.mem = s.mem ∧ t.cores = s.cores))) ∧
  (∀ (p : Fin 8) (t : Fin 1024) (s : State),
    let passed := ∃ g, taskGrant s p.val t.val = some g ∧
      fget s fldGLB_ADM_GRANT_LIMIT g * 64 < sparseGet (fun _ => 0) s.activations (1024 * p.val + t.val)
    let counts := passed ∧ stOf s p.val t.val = stRunning ∧ 1024 * p.val + t.val ∉ s.overran
    (¬ counts → exec (.activationOverrun p t) s = .next s) ∧
    (counts → Does (.activationOverrun p t) s (fun q => q.overran = s.overran ++ [1024 * p.val + t.val] ∧
      effBand q p.val t.val = 3 ∧
      (fget s fldGLB_ADM_PSTAT_OVERRUN p.val < 65535 →
        fget q fldGLB_ADM_PSTAT_OVERRUN p.val = fget s fldGLB_ADM_PSTAT_OVERRUN p.val + 1) ∧
      OnlyRegs [(.GLB_ADM_PSTAT, p.val)] s q ∧ q.mem = s.mem)))

/-- An encoder edge leaves its levels, inverted and swapped as configured, as the input's levels, a level held for
less than FILT cycles leaving what was; a source in LOST without AUTO counts one step up or down at x4, and an illegal
transition counts REJ. A mains crossing counts for a source unless it falls with BOTH = 0 or lies within HOLD of the
last one. An active SYNC_IN edge that its filter lets pass is recorded at its 250 ps stamp, with the interval since
the last, gives a SYNC source its edge and, with DISC = PPS, OFFSET. A LOCKED edge source whose edges stop becomes
COASTING, or LOST with COAST_MAX = 0; a COASTING one whose time is over becomes LOST; the owner's event PHASE_STATE is
raised (stated with no output ARMED). HISTORY_RECORD, once a history period has begun, puts the present estimate,
rate, state and GEN in front. A version-1 channel takes the fitted PERIOD. A pulse of PPS mode at a whole second of
device time in the present PHASE cycle, or of DIVIDED mode where one is due while SRC is LOCKED, leaves DELAY x 250 ps
earlier with WIDTH and POL, unless it merges with the last. -/
def Obligations.PhaseInputsAndTimeouts : Prop :=
  (∀ (e : Fin 8) (a b z : PinLevel) (s : State),
    let inv := fget s fldPHASE_ENC_CTL_INV e.val
    let swap := fget s fldPHASE_ENC_CTL_SWAP e.val = 1
    let old := sparseGet (fun _ => 0) s.encoders e.val
    let past := fun (n : Nat) (was : Bool) (x : PinLevel) =>
      if x.held < fget s fldPHASE_ENC_CTL_FILT e.val then was else x.high ^^ inv.testBit n
    let a1 := past 0 (if swap then old.testBit 1 else old.testBit 0) a
    let b1 := past 1 (if swap then old.testBit 0 else old.testBit 1) b
    let z1 := past 2 (old.testBit 2) z
    let a2 := if swap then b1 else a1
    let b2 := if swap then a1 else b1
    let p := quadPlace (old.testBit 0) (old.testBit 1)
    let q := quadPlace a2 b2
    Does (.encoderEdge e a b z) s (fun t =>
      sparseGet (fun _ => 0) t.encoders e.val = a2.toNat + 2 * b2.toNat + 4 * z1.toNat ∧ t.dtime = s.dtime ∧
      (sourcesOn s typEnc e.val = [] → t.regs = s.regs ∧ t.sources = s.sources) ∧
      ∀ i, sourcesOn s typEnc e.val = [i] → srcState s i = srcLost → fget s fldPHASE_SRC_CFG_AUTO i = 0 → z1 = false →
        (p = q → t.sources = s.sources ∧ t.regs = s.regs) ∧
        ((p + 2) % 4 = q → getReg t .PHASE_SRC_REJ i = getReg s .PHASE_SRC_REJ i + 1) ∧
        (2 ≤ fget s fldPHASE_SRC_CPR_QMODE i → (p + 2) % 4 ≠ q → t.regs = s.regs) ∧
        (2 ≤ fget s fldPHASE_SRC_CPR_QMODE i → (p + 1) % 4 = q → (getSrc t i).count = (getSrc s i).count +
          (if fget s fldPHASE_SRC_CFG_REVERSE i = 1 then -1 else 1)) ∧
        (2 ≤ fget s fldPHASE_SRC_CPR_QMODE i → (q + 1) % 4 = p → (getSrc t i).count = (getSrc s i).count -
          (if fget s fldPHASE_SRC_CFG_REVERSE i = 1 then -1 else 1)))) ∧
  (∀ (m : Fin 2) (x : PinLevel) (s : State),
    let last := sparseGet (fun _ => 0) s.mainsAt m.val
    let now := s.dtime + x.eighth.val * 4611686018
    let near := last ≠ 0 ∧ now < last - 1 + fget s fldPHASE_MAINS_CTL_HOLD m.val * 2 ^ 64 / 10000
    let falls := x.high = false ∧ fget s fldPHASE_MAINS_CTL_BOTH m.val = 0
    (near ∨ falls → exec (.mainsCrossing m x) s = .next s) ∧
    (¬ near → ¬ falls → (∀ i, sourcesOn s typMains m.val = [i] → srcState s i = srcLost ∧ fget s fldPHASE_SRC_CFG_AUTO i = 0) →
      (sourcesOn s typMains m.val).length ≤ 1 → Does (.mainsCrossing m x) s (fun t =>
        sparseGet (fun _ => 0) t.mainsAt m.val = now + 1 ∧ t.dtime = s.dtime ∧ t.regs = s.regs ∧ t.cores = s.cores ∧
        ∀ i ∈ sourcesOn s typMains m.val, (getSrc t i).count = (getSrc s i).count + 1))) ∧
  (∀ (x : PinLevel) (s : State),
    let active := x.high = (fget s fldPHASE_SYNCIN_CTL_POL 0 == 0) ∧ fget s fldPHASE_SYNCIN_CTL_FILT 0 ≤ x.held
    let now := s.dtime + x.eighth.val * 4611686018
    let f : Int := (now % 2 ^ 64 : Nat)
    let d := (if f < 2 ^ 63 then f else f - 2 ^ 64) * 62500000 / 2 ^ 64
    (¬ active → exec (.syncInEdge x) s = .next s) ∧
    (active → Does (.syncInEdge x) s (fun t => t.syncAt = some now ∧ t.syncGap = s.syncAt.map (fun u => now - u) ∧
      t.dtime = s.dtime ∧
      (fget s fldPHASE_DT_CTL_DISC 0 = 2 →
        (fget t fldPHASE_DT_STAT_OFFSET 0 : Int) = (min 32767 (max (-32768) d)) % 65536) ∧
      (sourcesOn s typSync 0 = [] → OnlyRegs [(.PHASE_DT_STAT, 0)] s t ∧ t.sources = s.sources) ∧
      ∀ i, sourcesOn s typSync 0 = [i] → srcState s i = srcLost → fget s fldPHASE_SRC_CFG_AUTO i = 0 →
        (getSrc t i).count = (getSrc s i).count + 1))) ∧
  (∀ (src : Fin 15) (s : State),
    let i := src.val
    let edges := srcOn s i = true ∧ srcType s i ≤ 2
    let told := fun (t : State) => ∀ p k rest, srcOwner s i = some p → p < 8 → coresOf s p = k :: rest →
      0x40 + 24 * p + 4 ∈ (getCore t k).events
    (¬ edges ∨ srcState s i ≠ srcLocked → exec (.edgeTimeout src) s = .next s) ∧
    (¬ edges ∨ srcState s i ≠ srcCoasting → exec (.coastExpiry src) s = .next s) ∧
    ((∀ o < 64, drvState s o ≠ drvArmed) → edges →
      (srcState s i = srcLocked → fget s fldPHASE_SRC_LIM_COAST_MAX i = 0 → Does (.edgeTimeout src) s (fun t =>
        srcState t i = srcLost ∧ t.mem = s.mem ∧ told t)) ∧
      (srcState s i = srcLocked → fget s fldPHASE_SRC_LIM_COAST_MAX i ≠ 0 → Does (.edgeTimeout src) s (fun t =>
        srcState t i = srcCoasting ∧ (getSrc t i).alpha = 0 ∧ (getSrc t i).t0 = s.dtime ∧ t.mem = s.mem ∧ told t)) ∧
      (srcState s i = srcCoasting → Does (.coastExpiry src) s (fun t => srcState t i = srcLost ∧ t.mem = s.mem ∧ told t)))) ∧
  (∀ (src : Fin 16) (s : State),
    let i := src.val
    let live := (i = 15 ∨ srcOn s i = true) ∧ historyDue s i = true
    (¬ live → exec (.historyRecord src) s = .next s) ∧
    (live → Does (.historyRecord src) s (fun t => t.mem = s.mem ∧
      (getSrc t i).hist = (presentEntry s i :: (getSrc s i).hist).take 65536 ∧
      ∀ v, estimate s i = some v → (getSrc t i).hist.head? = some ⟨s.dtime, v.1, v.2.1, srcState s i, srcGen s i⟩))) ∧
  (∀ (s : State),
    ((∀ i ∈ validChans s, linkVer s (fget s fldSFL_CHT_A_LINK i) ≠ 1) → exec .anchorPeriodEstimate s = .next s) ∧
    (∀ i a p, validChans s = [i] → linkVer s (fget s fldSFL_CHT_A_LINK i) = 1 → (getChan s i).anchor = some a →
      fitPeriod (getChan s i).arrivals = some p → Does .anchorPeriodEstimate s (fun t => (getChan t i).period = p ∧
        (getChan t i).anchor = some (wordOfInt (((a.toNat * 2 ^ 32 + (getChan s i).widx * (getChan s i).period : Nat) -
          ((getChan s i).widx * p : Nat) : Int) / 2 ^ 32)) ∧ (getChan t i).widx = (getChan s i).widx))) ∧
  (∀ (s : State),
    let mode := fget s fldPHASE_SYNCOUT_CTL_MODE 0
    let width := max 1 (fget s fldPHASE_SYNCOUT_CTL_WIDTH 0)
    let second := (s.dtime + 2 ^ 64 - 1) / 2 ^ 64 * 2 ^ 64
    let due := fun (t : Nat) => (mode = 3 ∧ t = second ∧ second < s.dtime + phaseTick s) ∨ (mode = 2 ∧ dividedAt s = some t)
    ((∀ t, ¬ due t) → exec .syncOutPulse s = .next s) ∧
    (mode = 2 → srcState s (fget s fldPHASE_SYNCOUT_CTL_SRC 0) ≠ srcLocked → exec .syncOutPulse s = .next s) ∧
    (∀ at_, due at_ → Does .syncOutPulse s (fun t => t.regs = s.regs ∧ t.mem = s.mem ∧
      t.syncBusy = at_ + (width + 2) * phaseCycle ∧
      (at_ < s.syncBusy → t.outbound = s.outbound) ∧
      (s.syncBusy ≤ at_ → t.outbound = s.outbound ++
        [.syncOut (at_ - fget s fldPHASE_SYNCOUT_CTL_DELAY 0 * 4611686018) width (fget s fldPHASE_SYNCOUT_CTL_POL 0 == 0)]))))

/-- Stated with no alarm, no drive output at work and none ARMED where a source changes state. Only the keeper and the
owner write a source's page. EN written 1 starts acquisition; an NCO source, a DRIVE source whose output runs and a
DERIVED source of a LOCKED parent are LOCKED at once; a reserved TYPE or a bad parent leaves EN 0. EN written 0 ends
the estimate and empties the history. RESTART takes LOST to ACQUIRING and counts GEN. A rate write to a running NCO
keeps its phase. Only the keeper writes the owner; alarms that lose the source go. DT_DISCIPLINE moves the rate toward
the reference by at most 0.1 ppm per second since it last moved, within 200 ppm, and not while PLLA coasts;
DT_HOLDOVER shows HOLDOVER. Arming an alarm answers BAD_DESC, NOT_OWNED, FULL, NOT_ADMITTED or OK with the entry;
CANCEL removes entries or is refused; an entry that is due fires first. A PCLASS alarm near its phase is resolved; a
due alarm acts once and is gone when it has no period. -/
def Obligations.PhaseSourcesTimeAndAlarms : Prop :=
  (∀ (who : Agent) (src : Fin 15) (value : BitVec 32) (rate : Word) (s : State),
    let i := src.val
    let v : Word := value.zeroExtend 64
    let off := Instr.phaseSrcDisable who src value
    let on := Instr.phaseSrcEnable who src value
    let again := Instr.phaseSrcRestart who src value
    let speed := Instr.ncoRateWrite who src rate
    let idle := s.alarms = [] ∧ s.drives = [] ∧ ∀ o < 64, drvState s o ≠ drvArmed
    let typ := bitsOf v 3 1
    let par := bitsOf v 9 4
    let page := putBits (putBits (putBits v 63 20 0) 15 14 0) 0 0 0
    let later := setReg .PHASE_SRC_CFG i page s
    (srcWritable s who i = false → ∀ c ∈ [off, on, again, speed], exec c s = .next s) ∧
    (srcWritable s who i = true →
      (srcOn s i = false →
        exec off s = .next later ∧ exec again s = .next later ∧
        exec speed s = .next (setReg .PHASE_SRC_RATIO i rate s) ∧
        (enableRefused later i = true → exec on s = .next later) ∧
        (enableRefused later i = false → idle → Does on s (fun t => srcOn t i = true ∧ (getSrc t i).hist = [] ∧
          srcType t i = typ ∧ srcInput t i = par ∧ t.mem = s.mem ∧
          (typ = typNco → (getSrc t i).omega = (getReg s .PHASE_SRC_RATIO i).toInt) ∧
          srcState t i = (if typ = typNco ∨ (typ = typDrive ∧ sineRuns s par = true) then srcLocked
            else if typ = typDerived ∧ srcOn s par = true then srcState s par else srcAcquiring)))) ∧
      (srcOn s i = true →
        (v.getLsbD 20 = false → exec on s = .next s) ∧
        (idle → Does off s (fun t => srcOn t i = false ∧ (getSrc t i).hist = [] ∧ t.mem = s.mem ∧
          (srcType s i ≠ typDerived → srcState t i = srcAcquiring))) ∧
        (srcType s i = typDerived ∨ srcState s i ≠ srcLost → exec again s = .next s) ∧
        (idle → srcType s i ≠ typDerived → srcState s i = srcLost → Does again s (fun t =>
          srcState t i = (if srcType s i = typDrive ∧ sineRuns s (srcInput s i) = true then srcLocked else srcAcquiring) ∧
          srcGen t i = (srcGen s i + 1) % 256 ∧ srcOn t i = true ∧ t.mem = s.mem)) ∧
        (srcType s i ≠ typNco → exec speed s = .next s) ∧
        (srcType s i = typNco → Does speed s (fun t => getReg t .PHASE_SRC_RATIO i = rate ∧
          (getSrc t i).theta = (trackAt (getSrc s i) s.dtime).1 ∧ (getSrc t i).omega = rate.toInt ∧
          (getSrc t i).t0 = s.dtime ∧ OnlyRegs [(.PHASE_SRC_RATIO, i)] s t ∧ t.mem = s.mem))))) ∧
  (∀ (who : Agent) (src : Fin 15) (value : BitVec 32) (s : State),
    let i := src.val
    let v : Word := value.zeroExtend 64
    (isKeeper s who = false → exec (.phaseSrcOwnWrite who src value) s = .next s) ∧
    (isKeeper s who = true → (∀ a ∈ s.alarms, a.report = false) → Does (.phaseSrcOwnWrite who src value) s (fun t =>
      srcOwner t i = (if v.getLsbD 3 then some (bitsOf v 2 0) else none) ∧
      fget t fldPHASE_SRC_OWN_READ i = bitsOf v 15 8 ∧ OnlyRegs [(.PHASE_SRC_OWN, i)] s t ∧ t.mem = s.mem ∧
      ∀ a ∈ t.alarms, a ∈ s.alarms ∧ (a.src = i → (a.part < 8 → srcReads t a.part i = true) ∧
        (srcOwner t i ≠ srcOwner s i → a.part ≠ (srcOwner s i).getD 8))))) ∧
  (∀ (interval : Word) (s : State),
    let disc := fget s fldPHASE_DT_CTL_DISC 0
    let coasts := fget s fldCLK_PLL_CFG_COAST 5 = 1
    let free := disc = 0 ∨ disc = 3
    let noRef := disc = 1 ∧ fget s fldCLK_STAT_XB_MODE 0 = 0
    let err : Option Int := if disc = 1 then some ((interval - w64 (2 ^ 32)).toInt * 2 ^ 32)
      else s.syncGap.map (fun g => (g : Int) - 2 ^ 64)
    let dstate := fun (t : State) => fget t fldPHASE_DT_STAT_DSTATE 0
    let told := fun (t : State) => dstate t ≠ dstate s → 0x1A ∈ (getCore t 0).events
    (coasts → exec (.dtDiscipline interval) s = .next s) ∧
    (¬ coasts → noRef → Does (.dtDiscipline interval) s (fun t => dstate t = 0 ∧ t.dtRate = s.dtRate ∧ told t)) ∧
    (¬ coasts → ¬ noRef → s.dtRate.natAbs ≤ 7378697 → Does (.dtDiscipline interval) s (fun t =>
      (t.dtRate - s.dtRate).natAbs * 2 ^ 64 ≤ 3689 * min (2 ^ 64) (s.dtime - s.dtSteered) ∧
      (t.dtRate ≠ s.dtRate → t.dtSteered = s.dtime) ∧ t.dtRate.natAbs ≤ 7378697 ∧ told t ∧ t.mem = s.mem ∧
      OnlyRegs [(.PHASE_DT_STAT, 0)] s t ∧ (free → dstate t = 0) ∧
      (¬ free → (err = none → dstate t = 1 ∧ t.dtRate = s.dtRate) ∧
        ∀ x, err = some x → (0 < x → t.dtRate ≤ s.dtRate) ∧ (x < 0 → s.dtRate ≤ t.dtRate) ∧
          (x = 0 → t.dtRate = s.dtRate) ∧ dstate t = (if x.natAbs * 100000000 < 2 ^ 64 then 2 else 1)))) ∧
    (let held := (disc = 2 ∧ ∃ u, s.syncAt = some u ∧ u + 2 ^ 65 < s.dtime) ∨
       (disc = 1 ∧ fget s fldCLK_STAT_XB_MODE 0 = 1)
     (¬ held → exec .dtHoldover s = .next s) ∧
     (held → Does .dtHoldover s (fun t => dstate t = 3 ∧ t.dtRate = s.dtRate ∧ told t ∧
      OnlyRegs [(.PHASE_DT_STAT, 0)] s t ∧ t.mem = s.mem)))) ∧
  (∀ (who : Agent) (desc : List Cell) (s : State),
    let c := fun (j : Nat) => desc.getD j cellVoid
    let w := (c 0).data
    let due := c 1
    let src := phaseOf due.tag
    let no := fun (i : Instr) (n : Nat) => exec i s = .next { s with status := n }
    let arm := Instr.alarmArm who desc
    let cancel := Instr.alarmCancel who desc
    (alarmBad (specOp 1 desc) = true → no arm 5) ∧ (alarmBad (specOp 2 desc) = true → no cancel 5) ∧
    let reads := fun (p : Nat) => 8 ≤ p ∨ srcReads s p src = true
    (alarmBad (specOp 2 desc) = false →
      (alarmPart s who = none → no cancel 2) ∧
      (∀ p, alarmPart s who = some p →
        let names := fun (a : Alarm) => a.part = p ∧ a.ident = bitsOf w 31 16 ∧ (due.tag = tagNil ∨ src = a.src)
        (isPhase due.tag = true → ¬ reads p → no cancel 2) ∧
        (isPhase due.tag = false ∨ reads p →
          ((∀ a ∈ s.alarms, ¬ names a) → no cancel 3) ∧
          ((∃ a ∈ s.alarms, names a) → (∀ a ∈ s.alarms, names a → alarmDue s a = none) → Does cancel s (fun t =>
            t.status = 0 ∧ t.regs = s.regs ∧ t.mem = s.mem ∧ ∀ a, a ∈ t.alarms ↔ a ∈ s.alarms ∧ ¬ names a)) ∧
          ((∃ a ∈ s.alarms, names a ∧ alarmDue s a ≠ none) → Does cancel s (fun t => (t.status = 0 ∨ t.status = 3) ∧
            ∀ a, a ∈ t.alarms ↔ a ∈ (fireAllDue s).alarms ∧ ¬ names a))))) ∧
    (alarmBad (specOp 1 desc) = false →
      (alarmPart s who = none → no arm 2) ∧
      (∀ p, alarmPart s who = some p →
        let action := bitsOf w 6 4
        let outOk := action = 3 → if 8 ≤ p then fget s fldPHASE_SYNCOUT_CTL_ASSIGNED 0 = 0
          else fget s fldPHASE_SYNCOUT_CTL_ASSIGNED 0 = 1 ∧ fget s fldPHASE_SYNCOUT_CTL_PART 0 = p
        let groupOk := action = 1 → 8 ≤ p ∨ coresIn s p (bitsOf (c 2).data 6 4) ≠ []
        let full := p < 8 ∧ fget s fldPHASE_CAL_QUOTA_QUOTA p ≤ calUsed s p
        (¬ reads p → no arm 2) ∧
        (reads p → ¬ outOk ∨ ¬ groupOk → no arm 2) ∧
        (reads p → outOk → groupOk →
          (full → no arm 1) ∧
          (¬ full →
            let entry := fun (a : Alarm) => a.part = p ∧ a.poster = posterOf who ∧ a.src = src ∧ a.due = due.data ∧ a.action = action ∧
              a.arg = (c 2).data ∧ a.times = bitsOf w 47 32 ∧ a.ident = bitsOf w 31 16 ∧ a.dir = bitsOf w 8 7
            let far := ∀ v x, estimate s src = some v → dueDiff s src due.data = some x →
              diffPassed (bitsOf w 8 7) x = false ∧ dueSoon (bitsOf w 8 7) x v.2.1 = false
            let admitted := w.getLsbD 12 = true → admitAlarm s p src (bitsOf w 8 7) due.data = none
            (∀ n, w.getLsbD 12 = true → admitAlarm s p src (bitsOf w 8 7) due.data = some n →
              exec arm s = .next { s with postCode := n, status := 4 }) ∧
            (admitted → Does arm s (fun t => t.status = 0)) ∧
            (admitted → srcState s src = srcLocked → far → Does arm s (fun t => t.status = 0 ∧ t.regs = s.regs ∧
              ∃ a, t.alarms = s.alarms ++ [a] ∧ entry a ∧ a.held = none ∧ a.conv = none)) ∧
            (admitted → srcState s src ≠ srcLocked → Does arm s (fun t => t.status = 0 ∧ t.regs = s.regs ∧
              ∃ a ∈ t.alarms, entry a ∧ (w.getLsbD 9 = false → a.held ≠ none) ∧ (w.getLsbD 9 = true → a.conv ≠ none)))))))) ∧
  (∀ (s : State) (a : Alarm), s.alarms = [a] →
    let near := a.pclass = true ∧ a.resolved = none ∧ a.conv = none ∧ srcState s a.src = srcLocked ∧
      ∃ t, dueInstant s a.src a.due = some t ∧ t ≤ s.dtime + 32 * phaseCycle
    (¬ near → exec .pclassResolve s = .next s) ∧
    (near → Does .pclassResolve s (fun t => t.regs = s.regs ∧
      t.alarms = [{ a with resolved := dueInstant s a.src a.due }])) ∧
    (alarmDue s a = none → exec .alarmFire s = .next s) ∧
    (∀ at_, a.report = false → a.period = none → s.drives = [] →
      (a.conv = some at_ ∧ at_ ≤ s.dtime) ∨ (a.conv = none ∧ a.resolved = some at_ ∧ at_ ≤ s.dtime) ∨
        (a.conv = none ∧ a.resolved = none ∧ srcState s a.src = srcLocked ∧ a.dir = 0 ∧ 0 < a.before ∧ at_ = s.dtime ∧
          ∃ d, dueDiff s a.src a.due = some d ∧ d ≤ 0) →
      (a.action = 0 → exec .alarmFire s = .next { (if a.part < 8 then
        wakeTask a.part (bitsOf a.arg 14 5) (bitsOf a.arg 63 32) 0 a.desc s else s) with alarms := [] }) ∧
      (a.action = 3 → fget s fldPHASE_SYNCOUT_CTL_MODE 0 = 1 → s.syncBusy ≤ at_ → Does .alarmFire s (fun t =>
        t.alarms = [] ∧ t.regs = s.regs ∧
        t.outbound = s.outbound ++ [.syncOut (at_ - fget s fldPHASE_SYNCOUT_CTL_DELAY 0 * 4611686018)
          (max 1 (fget s fldPHASE_SYNCOUT_CTL_WIDTH 0)) (fget s fldPHASE_SYNCOUT_CTL_POL 0 == 0)])))) ∧
  (∀ (s : State), s.alarms = [] → exec .pclassResolve s = .next s ∧ exec .alarmFire s = .next s)

/-- A START or STOP answers NOT_OWNED for a unit, source or channel that is not the poster's, BAD_DESC when malformed,
refused without power, on a used slot or without a job; else the job is there, or gone. A spectral RUN or ARM
likewise; RUN is pending at once; DISARM ends an idle job and lets a running one finish, RESET_AVG clears the counts
of an idle job. A slot without a revolution takes its first one when the source has an estimate. A block whose source
or samples are lost is written invalid, header and an UNBOUND cell, and counts SKIP; one whose inputs are complete is
written, header last; an input fault ends the job; nothing happens while inputs are not complete or a slot that goes
first has a block. An execution starts for the pending job whose input is ready; its results are written and the job
is idle again (stated for AVG = NONE of the first two kinds); an input error ends it. A late execution is dropped and
counted. The keeper's change of owner stops the unit's jobs and no others; a unit without power takes no assignment.
Ends are stated for jobs without status area and wake target. -/
def Obligations.ResamplerAndSpectralEngines : Prop :=
  (∀ (who : Agent) (u : Fin 8) (c0 : Cell) (cs : List Cell) (s : State),
    let start := Instr.rsmpStart who u (c0 :: cs)
    let stop := Instr.rsmpStop who u (c0 :: cs)
    let no := fun (i : Instr) (n : Nat) => exec i s = .next { s with status := n }
    let w := c0.data
    let slot := bitsOf w 5 4
    let desc := fun (op : Nat) => specOp op (c0 :: cs)
    let src := bitsOf w 9 6
    (agentPart s who = none → no start 2 ∧ no stop 2) ∧
    (∀ p, agentPart s who = some p →
      let mine := engOwner s u.val = some p ∧ srcReads s p src = true ∧
        ∀ i ∈ chanRange (bitsOf ((c0 :: cs).getD 2 cellVoid).data 15 0) (bitsOf w 24 19 + 1), i < 16384 ∧ chanOwned s p i = true
      (¬ mine → no start 2 ∧ no stop 2) ∧
      (mine → (rsmpBad s (desc 1) = true → no start 5) ∧ (rsmpBad s (desc 2) = true → no stop 5) ∧
        (rsmpBad s (desc 2) = false → pwrOn s 22 = false ∨ findJob s u.val slot = none → no stop 3) ∧
        (rsmpBad s (desc 2) = false → pwrOn s 22 = true → findJob s u.val slot ≠ none → Does stop s (fun t => t.status = 0 ∧
          findJob t u.val slot = none)) ∧
        (rsmpBad s (desc 1) = false → pwrOn s 22 = false ∨ findJob s u.val slot ≠ none → no start 3) ∧
        (rsmpBad s (desc 1) = false → pwrOn s 22 = true → findJob s u.val slot = none →
          let grant := admitRsmp s p u.val slot (bitsOf w 18 17) (bitsOf w 24 19 + 1) (2 ^ bitsOf w 13 10) src
          (∀ n, grant = some n → exec start s = .next { s with postCode := n, status := 4 }) ∧
          (grant = none → Does start s (fun t => t.status = 0 ∧ t.regs = s.regs ∧ t.mem = s.mem ∧
            ∃ j, t.jobs = s.jobs ++ [j] ∧ j.eng = u.val ∧ j.slot = slot ∧ j.part = p ∧ j.desc = desc 1 ∧ j.seq = 0 ∧
              (estimate s src = none → j.next = none) ∧
              (((desc 1).getD 3 cellNil).tag ≠ tagNil → estimate s src ≠ none →
                j.next = some (bitsOf ((desc 1).getD 3 cellNil).data 63 32)))))))) ∧
  (∀ (u : Fin 8) (slot : Fin 4) (s : State),
    let run := Instr.rsmpBlockWrite u slot
    let here := findJob s u.val slot.val
    (here = none → exec run s = .next s) ∧
    (∀ j, here = some j →
      let quiet := jw j 4 = 0 ∧ (jw j 0).getLsbD 29 = false
      let gone := Does run s (fun t => findJob t u.val slot.val = none)
      (rsmpPlan s j = .waits → exec run s = .next s) ∧
      (rsmpPlan s j = .begins → Does run s (fun t => t.regs = s.regs ∧ t.mem = s.mem ∧
        ∃ g r, findJob t u.val slot.val = some g ∧ firstRev s j = some r ∧ g = { j with next := some r.1, since := r.2 })) ∧
      (servedBefore s j = true → rsmpPlan s j ≠ .begins → exec run s = .next s) ∧
      (∀ rev, j.next = some rev → servedBefore s j = false →
        let invalid := fun (n : Nat) (q : State) => engWrites j.part (blockAddr j rev)
          [blockHeader rev (srcGen s (rSrc j)) 0 false false false n, cellUnbound] q
        let travel := match (getSrc s (rSrc j)).hist with
          | e :: _ => e.rate
          | [] => 0
        let skips := fun (n : Nat) (q : State) => ∀ s1, quiet → invalid n q = .ok s1 → findJob s1 u.val slot.val = here →
          Does run s (fun t => t.mem = s1.mem ∧ getReg t .RSMP_UNIT_SKIP u.val = getReg s1 .RSMP_UNIT_SKIP u.val + 1 ∧
            ∃ g, findJob t u.val slot.val = some g ∧ g.next = (if n = 1 then none else some (followRev rev travel)) ∧
              g.seq = j.seq + 1 ∧ g.count = j.count + 1)
        (∀ n, rsmpPlan s j = .invalid n → skips n s ∧ (∀ f, invalid n s = .error f → gone)) ∧
        (∀ points, rsmpPlan s j = .write points →
          let inputs := blockInputs s j points (chanRange (rFirst j) (rM j))
          (∀ e, inputs = .error e → gone) ∧
          (inputs = .ok none → skips 4 (seenBlock s j points)) ∧
          (∀ chans, inputs = .ok (some chans) → quiet →
            let outs := chans.zipIdx.map (fun c => points.zipIdx.map (fun p =>
              outputAt s j (fun x => Config.resampled (j.desc.map (fun c => c.data)) s.draw c.2 (p.2 * 2 ^ 32 + x)) c.1 p.1))
            let data := outs.flatMap (dataCells j)
            let t0 := ((points.map (fun p => p.1)).head?).getD 0
            let body := ⟨tagPhase15, w64 (t0 / 2 ^ 32)⟩ :: data ++ List.replicate (blockCells j - 2 - data.length) (cellRaw 0)
            let flags := (outs.flatten.map (fun o => o.2)).foldl Nat.lor 0
            let header := blockHeader rev (genAt s (rSrc j) t0) flags true
              (points.any (fun p => aliases (rK j * p.2.1.natAbs) (chanRdiv s (rFirst j)))) (points.any (fun p => p.2.2)) 0
            ∀ s1 s2, engWrites j.part (blockAddr j rev + 8) body { seenBlock s j points with draw := s.draw + 1 } = .ok s1 →
              engWrites j.part (blockAddr j rev) [header] s1 = .ok s2 → findJob s2 u.val slot.val = here →
              Does run s (fun t => t.mem = s2.mem ∧ t.regs = s2.regs ∧ ∃ g, findJob t u.val slot.val = some g ∧
                g.seq = j.seq + 1 ∧ g.count = j.count ∧
                (∀ p, points.getLast? = some p → g.next = some (followRev rev p.2.1)))))))) ∧
  (∀ (who : Agent) (e : Fin 16) (c0 : Cell) (cs : List Cell) (s : State),
    let post := fun (op : Nat) => if op = 1 then Instr.specRun who e (c0 :: cs) else if op = 2 then .specArm who e (c0 :: cs)
      else if op = 3 then .specDisarm who e (c0 :: cs) else .specResetAvg who e (c0 :: cs)
    let desc := fun (op : Nat) => specOp op (c0 :: cs)
    let no := fun (op n : Nat) => exec (post op) s = .next { s with status := n }
    let slot := bitsOf c0.data 7 4
    let job := findJob s (8 + e.val) slot
    let powered := pwrOn s (18 + e.val / 4) = true
    (agentPart s who = none → ∀ op ∈ [1, 2, 3, 4], no op 2) ∧
    (∀ p, agentPart s who = some p → ∀ op ∈ [1, 2, 3, 4],
      let mine := engOwner s (8 + e.val) = some p ∧ specForeign s p (desc op) = false
      (¬ mine → no op 2) ∧ (mine → specBad s p (desc op) = true → no op 5) ∧
      (mine → specBad s p (desc op) = false →
        (¬ powered → no op 3) ∧
        (powered → op ≤ 2 → job ≠ none → no op 3) ∧ (powered → 3 ≤ op → job = none → no op 3) ∧
        (∀ j, powered → job = some j →
          (op = 3 → j.cur = none → Does (post op) s (fun t => t.status = 0 ∧ findJob t (8 + e.val) slot = none)) ∧
          (op = 3 → j.cur ≠ none → Does (post op) s (fun t => t.status = 0 ∧ t.regs = s.regs ∧ t.mem = s.mem ∧
            findJob t (8 + e.val) slot = some { j with stopAfter := true, pend := none })) ∧
          (op = 4 → Does (post op) s (fun t => t.status = 0 ∧ t.regs = s.regs ∧ t.mem = s.mem ∧
            findJob t (8 + e.val) slot = some (if j.cur.isSome then { j with resetAfter := true }
              else { j with count := 0, flags := 0, ovrs := 0 })))) ∧
        (powered → op ≤ 2 → job = none →
          let q := specOf (desc op)
          let grant := admitSpec s p e.val slot q.cls (specCost (desc op))
          let outs := q.kind = 5 → synthOk s p (desc op) = true
          (¬ outs → no op 3) ∧
          (∀ n, outs → grant = some n → exec (post op) s = .next { s with postCode := n, status := 4 }) ∧
          (outs → grant = none → Does (post op) s (fun t => t.status = 0 ∧ t.regs = s.regs ∧ t.mem = s.mem ∧
            ∃ j, t.jobs = s.jobs ++ [j] ∧ j.eng = 8 + e.val ∧ j.slot = slot ∧ j.part = p ∧ j.desc = desc op ∧
              j.cur = none ∧ (op = 1 ∨ q.kind = 5 → ∃ ph, j.pend = some (s.dtime, s.seq, ph)) ∧
              (op = 2 → q.kind ≠ 5 → j.pend = none))))))) ∧
  (∀ (e slot : Fin 16) (s : State),
    let u := 8 + e.val
    ((∀ j ∈ s.jobs, j.eng = u → j.cur = none) → exec (.specExecDone e) s = .next s) ∧
    ((∃ j ∈ s.jobs, j.eng = u ∧ j.cur ≠ none) ∨ engPowered s u = false ∨
      (∀ j ∈ s.jobs, j.eng = u → inputReady s j = false ∨ isLate s j = true) → exec (.specExecStart e) s = .next s) ∧
    (findJob s u slot.val = none → exec (.specLateDrop e slot) s = .next s) ∧
    (∀ j, s.jobs = [j] → j.eng = u → j.slot = slot.val →
      let silent := bitsOf (jw j 6) 43 3 = 0 ∧ j.desc.getD 1 cellNil = cellNil
      let q := specOf j.desc
      (j.cur = none → engPowered s u = true → j.pend ≠ none → inputReady s j = true → isLate s j = false →
        exec (.specExecStart e) s = .next { s with jobs := [{ j with cur := j.pend, pend := none, bulk := false }] }) ∧
      (j.pend = none ∨ bitsOf (jw j 4) 43 28 = 0 ∨
        (∃ x, j.pend = some x ∧ (s.dtime - x.1) * 1000000 ≤ bitsOf (jw j 4) 43 28 * 2 ^ 64) → exec (.specLateDrop e slot) s = .next s) ∧
      (∀ x, j.pend = some x → bitsOf (jw j 4) 43 28 ≠ 0 →
        bitsOf (jw j 4) 43 28 * 2 ^ 64 < (s.dtime - x.1) * 1000000 → silent → Does (.specLateDrop e slot) s (fun t =>
        getReg t .SPEC_ENG_DROP e.val = getReg s .SPEC_ENG_DROP e.val + 1 ∧ OnlyRegs [(.SPEC_ENG_DROP, e.val)] s t ∧
        t.mem = s.mem ∧ t.jobs = (if q.op = 1 then [] else [{ j with pend := none }]))) ∧
      (∀ x, j.cur = some x → j.stopAfter = false → j.resetAfter = false → q.kind ≠ 5 → q.op = 2 → silent →
        (∀ syn, specInput s j x.1 x.2.2 = .error (5, syn) → Does (.specExecDone e) s (fun t => t.regs = s.regs ∧
          t.mem = s.mem ∧ t.jobs = [{ j with cur := none }])) ∧
        (∀ ins fl s2, specInput s j x.1 x.2.2 = .ok (ins, fl) → q.avg = 0 → q.kind ≤ 1 →
          let free := fun (i : Nat) => Config.spectral (j.desc.map (fun c => c.data)) s.draw i
          let avg := averaged q 1 [] (newValues q (chanSpectra q ins free) free) free
          engWrites j.part (bitsOf (jw j 3) 43 6 * 64) ((resultWords q (inputRate s j) avg free).1.map
            (resultCell q (bitsOf (jw j 4) 11 0) fl (badChannels ins))) { seenInput s j x.1 x.2.2 with draw := s.draw + 1 } = .ok s2 →
          s2.jobs = s.jobs → Does (.specExecDone e) s (fun t => t.mem = s2.mem ∧ t.regs = s2.regs ∧
            ∃ g, t.jobs = [g] ∧ g.cur = none ∧ g.pend = j.pend ∧ g.seq = j.seq + 1 ∧ g.count = 1))))) ∧
  (∀ (who : Agent) (u : Fin 24) (value : BitVec 32) (s : State),
    let v : Word := value.zeroExtend 64
    let reg := if u.val < 8 then Reg.RSMP_UNIT_OWN else Reg.SPEC_ENG_OWN
    let i := if u.val < 8 then u.val else u.val - 8
    let changes := bitsOf (getReg s reg i) 3 0 ≠ bitsOf v 3 0
    let may := isKeeper s who = true ∧ (v.getLsbD 3 = true → engPowered s u.val = true)
    (¬ may ∨ ¬ changes → exec (.engineOwnWrite who u value) s = .next s) ∧
    (may → changes → Does (.engineOwnWrite who u value) s (fun t =>
      engOwner t u.val = (if v.getLsbD 3 then some (bitsOf v 2 0) else none) ∧ OnlyRegs [(reg, i)] s t ∧ t.mem = s.mem ∧
      t.jobs = s.jobs.filter (fun j => j.eng != u.val))))

/-- The keeper's EN = 1 takes an OFF lane with power to SEEK, EN = 0 takes a lane to OFF; BLOCK_LOCK takes SEEK to
CAPX, a CAP with ACKCAP sent and one received CAPX to ACTIVE, time-outs and failures to FAILED, AUTO back to SEEK. A
lane that leaves ACTIVE is stated unbonded, with no open request and no ARMED output. A corrupt bundle counts CRC
(stated with the fault log ring disabled); a CAP is recorded; an ACK releases kept bundles; the bundle at E (stated
without payload and with nothing held) advances E, an earlier one does nothing, a later one on an unbonded link makes
a NAK. ACK and heartbeats leave from an ACTIVE lane; a replay resends what is kept (stated for one bundle) and repeats
an unanswered NAK. A time exchange opens, is discarded after 1 ms, or gives TDLY and TOFF unless the delay is an
outlier. Requests answer NOT_OWNED, BAD_DESC, FULL or are sent, and end when the link is down or they are overdue. A
bond group takes its members. A channel is valid only within LIM, and LOAD follows. -/
def Obligations.FieldLinkLanesAndBundles : Prop :=
  (∀ (who : Agent) (lane : Fin 8) (value : BitVec 32) (s : State),
    let l := lane.val
    let up := Instr.laneEnable who lane value
    let down := Instr.laneDisable who lane value
    let v : Word := value.zeroExtend 64
    let page := fun (en : Bool) => putBits (putBits (putBits (putBit v 0 en) 15 7 0) 31 24 0) 63 32 0
    let calm := fget s fldSFL_LANE_STAT_BONDED l = 0 ∧ (getLink s l).reqs = [] ∧ ∀ o < 64, drvState s o ≠ drvArmed
    let now := laneState s l
    let becomes := fun (i : Instr) (st : Nat) => Does i s (fun t => laneState t l = st ∧ 0x1C ∈ (getCore t 0).events)
    let seeks := fun (i : Instr) => Does i s (fun t => laneState t l = laneSeek ∧ 0x1C ∈ (getCore t 0).events ∧
      (getLane t l).fast = !slowOnly t l ∧ fget t fldSFL_LANE_STAT_VER l = 0)
    (isKeeper s who = false → exec up s = .next s ∧ exec down s = .next s) ∧
    (isKeeper s who = true → laneHeld s l = false →
      (now = laneOff → pwrOn s (24 + l / 4) = true → seeks up ∧
        Does up s (fun t => getReg t .SFL_LANE_CTL l = page true)) ∧
      (now ≠ laneOff ∨ pwrOn s (24 + l / 4) = false → Does up s (fun t =>
        getReg t .SFL_LANE_CTL l = page true ∧ laneState t l = now)) ∧
      (now ≠ laneOff → now ≠ laneActive ∨ calm → becomes down laneOff) ∧
      (now ≠ laneActive ∨ calm → Does down s (fun t => getReg t .SFL_LANE_CTL l = page false ∧ laneState t l = laneOff))) ∧
    (now = laneSeek → Does (.blockLock lane) s (fun t => laneState t l = laneCapx ∧ 0x1C ∈ (getCore t 0).events ∧
      fget t fldSFL_LANE_STAT_FAST l = (getLane s l).fast.toNat)) ∧
    (now ≠ laneSeek → exec (.blockLock lane) s = .next s) ∧
    (let auto := now = laneSeek ∧ (fget s fldSFL_LANE_CTL_RATE l = 0 ∨ fget s fldSFL_LANE_CTL_RATE l = 3) ∧
      slowOnly s l = false
     (¬ auto → exec (.seekRateTimeout lane) s = .next s) ∧
     (auto → Does (.seekRateTimeout lane) s (fun t => (getLane t l).fast = !(getLane s l).fast ∧ t.regs = s.regs))) ∧
    (now ≠ laneCapx → exec (.capSend lane) s = .next s ∧ exec (.capxTimeout lane) s = .next s) ∧
    (now = laneCapx → becomes (.capxTimeout lane) laneFailed ∧
      (fget s fldSFL_LANE_STAT_BONDED l = 0 → Does (.capSend lane) s (fun t => (getLane t l).sentCap = ((getLane s l).sentCap || (getLane s l).gotCap) ∧
        laneState t l = (if (getLane s l).gotAck && (getLane t l).sentCap then laneActive else laneCapx) ∧
        ∃ b, t.outbound = s.outbound ++ [.bundle l b (crcOf (b.hdr ++ b.payload))] ∧ bunType b = tyLink ∧ bunKind b = 1 ∧ b.payload.length = 4 ∧
          (b.payload.getD 0 0).getLsbD 7 = (getLane s l).gotCap))) ∧
    (now ≠ laneActive → ∀ c ∈ [Instr.laneFail lane, .ackSend lane, .heartbeatSend lane], exec c s = .next s) ∧
    (now = laneActive → (calm → Does (.laneFail lane) s (fun t => laneState t l = laneFailed ∧
        fget t fldSFL_LANE_STAT_VER l = 0 ∧ (getLink t l).kept = [] ∧ (getLink t l).next = 0)) ∧
      ∀ c ∈ [Instr.ackSend lane, .heartbeatSend lane], exec c s = .next { s with
        outbound := s.outbound ++ [.bundle l ⟨[word0 s l tyLink 0 0 false false, 0, w64 0, 0], []⟩
          (crcOf [word0 s l tyLink 0 0 false false, 0, w64 0, 0])] }) ∧
    (let retries := now = laneFailed ∧ fget s fldSFL_LANE_CTL_AUTO l = 1 ∧ laneHeld s l = false
     (¬ retries → exec (.failedRetryTimeout lane) s = .next s) ∧ (retries → seeks (.failedRetryTimeout lane)))) ∧
  (∀ (lane : Fin 8) (blocks : Bool) (hdr payload : List Word) (crc : BitVec 32) (s : State),
    let l := lane.val
    let b : Bundle := ⟨hdr, payload⟩
    let recv := Instr.bundleReceive lane blocks hdr payload crc
    let link := linkOf s l
    let bad := corrupt s l blocks b crc.toNat = true
    let w0 := hdr.getD 0 0
    let plain := w0.getLsbD 12 = false ∧ w0.getLsbD 13 = false
    let x := getLink s link
    let ahead := (bunSeq b + 65536 - x.expect) % 65536
    let sequenced := ¬ bad ∧ laneState s l = laneActive ∧ plain ∧ bunType b = tySample ∧ linkUp s link = true ∧ x.waiting = []
    (laneState s l ≠ laneCapx → laneState s l ≠ laneActive → exec recv s = .next s) ∧
    (laneState s l = laneCapx ∨ laneState s l = laneActive → bad → fget s fldFLT_LOGB_EN 0 = 0 → Does recv s (fun t =>
      getReg t .SFL_LANE_CRC l = getReg s .SFL_LANE_CRC l + 1 ∧ t.mem = s.mem)) ∧
    (laneState s l = laneCapx → ¬ bad → bunType b ≠ tyLink ∨ bunKind b ≠ 1 → exec recv s = .next s) ∧
    (laneState s l = laneCapx → ¬ bad → bunType b = tyLink → bunKind b = 1 → payload.length = 4 →
      (payload.getD 0 0).getLsbD 7 = false → (getLane s l).gotAck = false → Does recv s (fun t =>
        (getLane t l).gotCap = true ∧ getReg t .SFL_LANE_POD l = payload.getD 1 0 ∧ laneState t l = laneCapx ∧
        fget t fldSFL_LANE_STAT_VER l = (if fget s fldSFL_LANE_STAT_FAST l = 1
          then min (max 1 (fget s fldSFL_LANE_CTL_VMAX l)) (bitsOf (payload.getD 0 0) 3 0) % 4 else 1))) ∧
    (laneState s l = laneActive → ¬ bad → w0.getLsbD 12 = true → w0.getLsbD 13 = false → bunType b = tyLink → bunKind b ≠ 2 →
      x.waiting = [] → Does recv s (fun t => t.regs = s.regs ∧ t.mem = s.mem ∧ t.outbound = s.outbound ∧
        (getLink t link).kept = x.kept.filter (fun p => (p.1 + 65536 - bunAck b) % 65536 < 32768))) ∧
    (sequenced → ahead = 0 → payload = [] → x.held = [] → Does recv s (fun t => t.regs = s.regs ∧ t.mem = s.mem ∧
      (getLink t link).expect = (x.expect + 1) % 65536 ∧ (getLink t link).nak = false)) ∧
    (sequenced → 32768 ≤ ahead → exec recv s = .next s) ∧
    (sequenced → 0 < ahead → ahead < 32768 → fget s fldSFL_LANE_STAT_BONDED l = 0 → Does recv s (fun t =>
      (getLink t link).nak = true ∧ (getLink t link).expect = x.expect ∧ t.outbound.length = s.outbound.length + 1))) ∧
  (∀ (link : Fin 8) (s : State),
    let x := getLink s link.val
    (x.kept = [] → x.nak = false → x.held = [] → exec (.replayTimeout link) s = .next s) ∧
    (∀ l rest a b, linkLanes s link.val = l :: rest →
      (x.kept = [(a, b)] → x.nak = false → x.held = [] → Does (.replayTimeout link) s (fun t =>
        (∃ w, t.outbound = s.outbound ++ [.bundle l ⟨w :: b.hdr.drop 1, b.payload⟩ (crcOf (w :: b.hdr.drop 1 ++ b.payload))] ∧
          w.getLsbD 11 = true) ∧
        (getLink t link.val).kept = x.kept)) ∧
      (x.kept = [] → x.nak = true ∨ x.held ≠ [] → Does (.replayTimeout link) s (fun t => (getLink t link.val).nak = true ∧
        t.outbound.length = s.outbound.length + 1))) ∧
    (x.reqs = [] → exec (.configTimeout link) s = .next s) ∧
    (∀ r rest, x.reqs = r :: rest → Does (.configTimeout link) s (fun t =>
      (getLink t link.val).reqs = x.reqs.filter (fun q => q.reqid != r.reqid)))) ∧
  (∀ (lane : Fin 8) (exch : BitVec 32) (t2 t3 : Word) (s : State),
    let l := lane.val
    let timed := timedLane s l = true
    let e := ((getLane s l).exch + 1) % 2 ^ 32
    let recent := fun (t1 : Word) => decide ((dtNow s - t1).toNat * 1000 ≤ 2 ^ 32)
    let found := (getLane s l).openTs.find? (fun x => x.1 == exch.toNat)
    let others := (getLane s l).openTs.filter (fun x => x.1 != exch.toNat)
    (¬ timed → exec (.tsyncStart lane) s = .next s) ∧
    (timed → Does (.tsyncStart lane) s (fun t => (getLane t l).exch = e ∧ (getLane t l).openTs = (getLane s l).openTs ++ [(e, dtNow s)] ∧
      t.regs = s.regs ∧ ∃ b, t.outbound = s.outbound ++ [.bundle l b (crcOf (b.hdr ++ b.payload))] ∧ bunType b = tyTsync ∧ bunKind b = 1)) ∧
    Does (.tsyncTimeout lane) s (fun t => t.regs = s.regs ∧ t.outbound = s.outbound ∧
      (getLane t l).openTs = (getLane s l).openTs.filter (fun x => recent x.2)) ∧
    (¬ timed ∨ found = none ∨ (∃ x, found = some x ∧ recent x.2 = false) → exec (.tsRspReceive lane exch t2 t3) s = .next s) ∧
    (∀ n t1, timed → found = some (n, t1) → recent t1 = true →
      let a := (t2 - t1).toInt
      let b := (dtNow s - t3).toInt
      let far := (getLane s l).delays ≠ [] ∧
        40 * 2 ^ 32 < (2 * (a + b) - median2 (getLane s l).delays).natAbs * 1000000000
      (far → Does (.tsRspReceive lane exch t2 t3) s (fun t => getReg t .SFL_LANE_TERR l = getReg s .SFL_LANE_TERR l + 1 ∧
        OnlyRegs [(.SFL_LANE_TERR, l)] s t ∧ (getLane t l).openTs = others)) ∧
      (¬ far → Does (.tsRspReceive lane exch t2 t3) s (fun t =>
        getReg t .SFL_LANE_TDLY l = wordOfInt ((a + b + 1) / 2) ∧ (getLane t l).openTs = others ∧
        (fget s fldSFL_LANE_ASYM_ASYM l = 0 → getReg t .SFL_LANE_TOFF l =
          wordOfInt ((2 * (a - b) * 1000000000000 + 2000000000000) / 4000000000000)))))) ∧
  (∀ (who : Agent) (c0 c1 c2 c3 : Cell) (s : State),
    let read := Instr.configRead who [c0, c1, c2, c3]
    let write := Instr.configWrite who [c0, c1, c2, c3]
    let no := fun (n : Nat) => exec read s = .next { s with status := n } ∧ exec write s = .next { s with status := n }
    let link := bitsOf c0.data 6 4
    let formed := c0.tag = tagRaw64 ∧ c1.tag = tagRaw64 ∧ c2.tag = tagRaw64 ∧ wakeOk c3 = true ∧
      bitsOf c0.data 31 7 = 0 ∧ bitsOf c2.data 2 0 = 0 ∧ bitsOf c2.data 63 44 = 0
    let x := getLink s link
    let posts := isKeeper s who = true ∧ agentPart s who = none
    (¬ posts → no 2) ∧
    (posts → (¬ formed → no 5) ∧ (formed → 64 ≤ x.reqs.length → no 1) ∧
      (formed → x.reqs.length < 64 →
        (linkUp s link = false → ∀ c ∈ [read, write], Does c s (fun t => t.status = 0 ∧
          ∀ q ∈ (getLink t link).reqs, q ∈ x.reqs)) ∧
        (∀ l rest, linkLanes s link = l :: rest → x.waiting = [] → canSend s link 2 = true →
          let sent := fun (c : Instr) (op : Nat) (v : Word) => Does c s (fun t => t.status = 0 ∧ t.regs = s.regs ∧
            (getLink t link).reqs = x.reqs ++ [⟨x.nextReq, bitsOf c2.data 43 3 * 8, c3, none, [⟨c0.tag, putBits c0.data 3 0 op⟩, c1, c2]⟩] ∧
            ∃ b, t.outbound = s.outbound ++ [.bundle l b (crcOf (b.hdr ++ b.payload))] ∧ bunType b = tyConfig ∧
              b.payload = [w64 (x.nextReq + op * 2 ^ 16 + bitsOf c0.data 63 32 * 2 ^ 32), v])
          sent read 1 0 ∧ sent write 2 c1.data)))) ∧
  (∀ (who : Agent) (g : Fin 8) (value : BitVec 32) (s : State),
    let v : Word := value.zeroExtend 64
    let m := bitsOf v 7 0
    let has := fun (n k : Nat) => n.testBit k = true
    let busy := ∃ k < 8, (k = g.val ∨ has m k ∨ has (fget s fldSFL_BOND_MEMBERS g.val) k) ∧ chansOn s k ≠ []
    let group := has m g.val ∧ (∀ k < g.val, ¬ has m k) ∧
      ∀ h < 8, h ≠ g.val → fget s fldSFL_BOND_EN h = 1 → ∀ k < 8, has m k → ¬ has (fget s fldSFL_BOND_MEMBERS h) k
    (isKeeper s who = false ∨ busy ∨ ¬ group → exec (.bondEnable who g value) s = .next s) ∧
    (isKeeper s who = true → ¬ busy → group → Does (.bondEnable who g value) s (fun t => fget t fldSFL_BOND_EN g.val = 1 ∧
      fget t fldSFL_BOND_MEMBERS g.val = m ∧ fget t fldSFL_BOND_UP g.val = 0 ∧ fget t fldSFL_BOND_ACTIVE g.val = 0 ∧
      ∀ k < 8, has m k → fget t fldSFL_LANE_STAT_BONDED k = 1 ∧ fget t fldSFL_LANE_STAT_GROUP k = g.val))) ∧
  (∀ (who : Agent) (n : Fin 16384) (v : Word) (s : State),
    let i := n.val
    let on := Instr.channelValidate who n v
    let off := Instr.channelInvalidate who n v
    let valid := fget s fldSFL_CHT_A_V i = 1
    let page := putBit (putBits (putBits v 27 27 0) 63 52 0) 0 false
    let l := bitsOf page (fldSFL_CHT_A_LINK).hi (fldSFL_CHT_A_LINK).lo
    let fits := linkLoad (fset fldSFL_CHT_A_V i 1 (setReg .SFL_CHT_A i page s)) l ≤ fget s fldSFL_LINK_LIM_LIM l
    (isKeeper s who = false → exec on s = .next s ∧ exec off s = .next s) ∧
    (isKeeper s who = true →
      (valid → exec on s = .next s ∧ Does off s (fun t => fget t fldSFL_CHT_A_V i = 0 ∧ t.mem = s.mem ∧
        let k := fget s fldSFL_CHT_A_LINK i
        OnlyRegs [(.SFL_CHT_A, i), (.SFL_LINK_LOAD, k)] s t ∧
          (linkLoad t k < 2 ^ 40 → fget t fldSFL_LINK_LOAD_LOAD k = linkLoad t k))) ∧
      (¬ valid → exec off s = .next (setReg .SFL_CHT_A i page s) ∧
        (¬ fits → Does on s (fun t => fget t fldSFL_CHT_A_V i = 0 ∧ fget t fldSFL_LINK_STAT_REFUSED l = 1 ∧
          OnlyRegs [(.SFL_CHT_A, i), (.SFL_LINK_STAT, l)] s t)) ∧
        (fits → Does on s (fun t => getReg t .SFL_CHT_A i = putBit page 0 true ∧ getChan t i = Channel.idle ∧
          OnlyRegs [(.SFL_CHT_A, i), (.SFL_LINK_LOAD, l)] s t ∧
          (linkLoad t l < 2 ^ 40 → fget t fldSFL_LINK_LOAD_LOAD l = linkLoad t l))))))

/-- An output is its owner's or the keeper's: other posts answer NOT_OWNED, malformed ones BAD_DESC. ARM is refused
unless every condition of R329 holds, else A = f = 0 and the output is ARMED; FRAME is refused unless ARMED, FULL at 8
frames or over quota, NOT_ADMITTED by admission, else queued; DISARM ramps an ARMED output with CAUSE 13, ABORT
latches the partition and ramps its outputs with CAUSE 5, CLEAR ends the latch unless an output still ramps. A trigger
ramps the ARMED outputs it concerns, 2 us from now, with its CAUSE, and removes their frames: ABORT_N low through its
filter (CAUSE 1), the soft ABORT (4), the watchdog at its end (11); other outputs keep their state. A frame near its
instant is resolved; a due frame takes over amplitude and frequency once no action goes before it. A DISARMED output
sends zeros, or nothing after a reset of its partition; RAMP_END disarms at the end of RAMP. Sources of TYPE DRIVE are
absent where an output starts or stops, and frames are stated without wake target and host command where they apply.
-/
def Obligations.DrivePathAndGuard : Prop :=
  let ramps := fun (s t : State) (cause : Nat) (pick : Nat → Prop) => ∀ q < 64,
    (drvState s q = drvArmed → pick q → drvState t q = drvRamping ∧ fget t fldDRV_OUT_STAT_CAUSE q = cause ∧
      fget t fldDRV_OUT_STAT_PEND q = 0 ∧ (getDrive t q).frames = [] ∧
      (getDrive t q).rampStart = some (s.dtime + 36893488147419)) ∧
    (drvState s q ≠ drvArmed ∨ ¬ pick q → drvState t q = drvState s q ∧ (getDrive t q).frames = (getDrive s q).frames)
  (∀ (who : Agent) (c0 : Cell) (cs : List Cell) (s : State),
    let post := fun (op : Nat) => if op = 1 then Instr.driveFrame who (c0 :: cs) else if op = 2 then .driveArm who (c0 :: cs)
      else if op = 3 then .driveDisarm who (c0 :: cs) else if op = 4 then .driveAbort who (c0 :: cs)
      else .driveClear who (c0 :: cs)
    let no := fun (op n : Nat) => exec (post op) s = .next { s with status := n }
    let o := bitsOf c0.data 9 4
    let desc := fun (op : Nat) => specOp op (c0 :: cs)
    let c1 := cs.getD 0 cellVoid
    let part := agentPart s who
    let mine := isKeeper s who = true ∨ (part ≠ none ∧ outOwner s o = part)
    let any := isKeeper s who = true ∨ part ≠ none
    let reads := ∀ p, part = some p → isPhase c1.tag = true → isKeeper s who = true ∨ srcReads s p (phaseOf c1.tag) = true
    (¬ mine → no 1 2 ∧ no 2 2 ∧ no 3 2) ∧ (¬ any → no 4 2 ∧ no 5 2) ∧ (mine → ¬ reads → no 1 2) ∧
    (∀ op ∈ [1, 2, 3, 4, 5], any → (op ≤ 3 → mine) → (op = 1 → reads) → driveBad s (desc op) = true → no op 5) ∧
    (mine → reads → driveBad s (desc 1) = false →
      let p := (outOwner s o).getD 8
      let frames := (getDrive s o).frames
      let full := 8 ≤ frames.length ∨ (p < 8 ∧ fget s fldPHASE_CAL_QUOTA_QUOTA p ≤ calUsed s p)
      let due := if isPhase c1.tag then some (phaseOf c1.tag, c1.data) else none
      let admitted := c0.data.getLsbD 11 = true → admitFrame s p o due = none
      (drvState s o ≠ drvArmed → no 1 3) ∧
      (drvState s o = drvArmed → full → no 1 1) ∧
      (drvState s o = drvArmed → ¬ full →
        (∀ n, c0.data.getLsbD 11 = true → admitFrame s p o due = some n →
          exec (post 1) s = .next { s with postCode := n, status := 4 }) ∧
        (admitted → c1.tag = tagNil → cs ≠ [] → Does (post 1) s (fun t => t.status = 0 ∧ t.mem = s.mem ∧
          OnlyRegs [(.DRV_OUT_STAT, o)] s t ∧ ∃ f, (getDrive t o).frames = frames ++ [f] ∧ f.cells = desc 1 ∧ f.part = p ∧
            f.resolved = some ((gridFrom s o (s.dtime + 1) * 2 ^ 64 + 204799) / 204800))) ∧
        (admitted → isPhase c1.tag = true → srcState s (phaseOf c1.tag) ≠ srcLocked → Does (post 1) s (fun t =>
          t.status = 0 ∧ t.mem = s.mem ∧ ∃ f, (getDrive t o).frames = frames ++ [f] ∧ f.cells = desc 1 ∧ f.held ≠ none)) ∧
        (∀ d, admitted → isPhase c1.tag = true → srcState s (phaseOf c1.tag) = srcLocked →
          dueDiff s (phaseOf c1.tag) c1.data = some d → 0 < d → Does (post 1) s (fun t =>
            t.status = 0 ∧ t.mem = s.mem ∧ ∃ f, (getDrive t o).frames = frames ++ [f] ∧ f.cells = desc 1 ∧
              f.before = d ∧ f.held = none)))) ∧
    (mine → driveBad s (desc 2) = false →
      (armOk s o = false → no 2 3) ∧
      (armOk s o = true → (∀ i < 15, srcType s i ≠ typDrive) → Does (post 2) s (fun t => t.status = 0 ∧
        drvState t o = drvArmed ∧ (getDrive t o).amp = 0 ∧ (getDrive t o).freq = 0 ∧
        OnlyRegs [(.DRV_OUT_STAT, o)] s t ∧ t.mem = s.mem))) ∧
    (mine → driveBad s (desc 3) = false →
      (drvState s o ≠ drvArmed → no 3 3) ∧
      (drvState s o = drvArmed → Does (post 3) s (fun t => t.status = 0 ∧ t.mem = s.mem ∧ ramps s t 13 (fun q => q = o)))) ∧
    (∀ p, part = some p → p < 8 → driveBad s (desc 4) = false → Does (post 4) s (fun t => t.status = 0 ∧ t.mem = s.mem ∧
      nbits (fget t fldDRV_ABT_PART 0) p p = 1 ∧ ramps s t 5 (fun q => outOwner s q = some p))) ∧
    (∀ p, part = some p → p < 8 → driveBad s (desc 5) = false →
      ((∃ q < 64, outOwner s q = some p ∧ drvState s q = drvRamping) → no 5 3) ∧
      ((∀ q < 64, outOwner s q = some p → drvState s q ≠ drvRamping) → Does (post 5) s (fun t => t.status = 0 ∧
        nbits (fget t fldDRV_ABT_PART 0) p p = 0 ∧ OnlyRegs [(.DRV_ABT, 0)] s t ∧ t.mem = s.mem)))) ∧
  (∀ (o : Fin 64) (s : State),
    let x := getDrive s o.val
    let applies := Instr.driveFrameApply o
    (x.frames = [] → exec (.frameResolve o) s = .next s ∧ exec applies s = .next s) ∧
    (drvState s o.val ≠ drvArmed → exec applies s = .next s) ∧
    (∀ f, x.frames = [f] →
      let near := f.resolved = none ∧ ∃ t, frameInstant s f = some t ∧ t ≤ s.dtime + gridSpan (leadOf s + 2)
      (¬ near → exec (.frameResolve o) s = .next s) ∧
      (near → Does (.frameResolve o) s (fun t => t.regs = s.regs ∧
        (getDrive t o.val).frames = [{ f with resolved := frameInstant s f }])) ∧
      (frameDue s f = none → exec applies s = .next s) ∧
      ((freeActs s).contains f.seq = false → exec applies s = .next s) ∧
      (∀ at_, frameDue s f = some at_ → drvState s o.val = drvArmed → (freeActs s).contains f.seq = true →
        f.host = none → (frCell f 7).tag = tagNil →
        Does applies s (fun t => (getDrive t o.val).frames = [] ∧ (getDrive t o.val).amp = (frCell f 2).data ∧
          (getDrive t o.val).applied = at_ ∧ fget t fldDRV_OUT_STAT_PEND o.val = 0 ∧
          (fget s fldDRV_OUT_CFG_MODE o.val = 1 → (frCell f 3).tag ≠ tagNil →
            (getDrive t o.val).freq = floFixed (frCell f 3).data) ∧
          OnlyRegs [(.DRV_OUT_STAT, o.val)] s t ∧ t.mem = s.mem))) ∧
    (let link := fget s fldDRV_OUT_MAP_LINK o.val
     let mapped := fget s fldDRV_OUT_MAP_EN o.val = 1 ∧ linkUp s link = true
     let g := max x.nextG (gridFrom s o.val s.dtime)
     let soon := g * 2 ^ 64 / 204800 ≤ s.dtime + gridSpan (aheadOf s o.val)
     let stopped := x.silent = true ∧ drvState s o.val = drvDisarmed
     (¬ mapped ∨ ¬ soon ∨ stopped → exec (.driveSampleSend o) s = .next s) ∧
     (∀ v q, mapped → soon → ¬ stopped → checkSample o.val g (seenRing o.val g s) = (some v, q) → fget s fldDRV_OUT_CFG_MODE o.val ≠ 3 → Does (.driveSampleSend o) s (fun t =>
       (getDrive t o.val).nextG = g + outRdiv s o.val ∧ t.mem = s.mem)) ∧
     (∀ l rest, mapped → soon → drvState s o.val = drvDisarmed → x.silent = false → linkLanes s link = l :: rest → (getLink s link).waiting = [] →
       canSend s link 3 = true → Does (.driveSampleSend o) s (fun t => t.regs = s.regs ∧ t.mem = s.mem ∧
         (getDrive t o.val).sent.head? = some 0 ∧ ∃ b, t.outbound = s.outbound ++ [.bundle l b (crcOf (b.hdr ++ b.payload))] ∧
           bunType b = tyDrive ∧
           b.payload = driveSection s o.val 0 ((g * 2 ^ 64 + 204799) / 204800)))) ∧
    (let bites := fget s fldDRV_OUT_LACT_WDOG o.val ≠ 0 ∧ drvState s o.val = drvArmed ∧
       x.applied + fget s fldDRV_OUT_LACT_WDOG o.val * (2 ^ 64 / 10000) ≤ s.dtime
     (¬ bites → exec (.driveWdogTimeout o) s = .next s) ∧
     (bites → Does (.driveWdogTimeout o) s (fun t => t.mem = s.mem ∧
       ramps s t 11 (fun q => outOwner s q = outOwner s o.val) ∧
       ∀ p, outOwner s o.val = some p → p < 8 → nbits (fget t fldDRV_ABT_PART 0) p p = 1))) ∧
    (drvState s o.val ≠ drvRamping ∨ s.dtime < rampOver s o.val → exec (.rampEnd o) s = .next s) ∧
    (drvState s o.val = drvRamping → rampOver s o.val ≤ s.dtime → (∀ i < 15, srcType s i ≠ typDrive) → Does (.rampEnd o) s (fun t =>
      drvState t o.val = drvDisarmed ∧ (getDrive t o.val).rampStart = none ∧ OnlyRegs [(.DRV_OUT_STAT, o.val)] s t ∧
      t.mem = s.mem))) ∧
  (∀ (who : Agent) (value : BitVec 32) (level : PinLevel) (s : State),
    let held := max 1 (fget s fldDRV_GCTL_FILT 0) * 50 ≤ level.held
    (¬ held → exec (.abortNLow level) s = .next s) ∧
    (held → level.high = true → exec (.abortNLow level) s = .next { s with abortN := true }) ∧
    (level.high = false → s.abortN = false → exec (.abortNLow level) s = .next s) ∧
    (held → level.high = false → s.abortN = true → Does (.abortNLow level) s (fun t => t.abortN = false ∧ fget t fldDRV_ABT_ABTN 0 = 1 ∧ t.mem = s.mem ∧
      ramps s t 1 (fun _ => True))) ∧
    (isKeeper s who = false → exec (.driveSoftAbort who value) s = .next s) ∧
    (isKeeper s who = true → Does (.driveSoftAbort who value) s (fun t => fget t fldDRV_ABT_SOFT 0 = 1 ∧ t.mem = s.mem ∧
      ramps s t 4 (fun _ => True) ∧ 
      fget t fldDRV_GCTL_LEAD 0 = (if (List.range 64).any (outAdmitted s) then fget s fldDRV_GCTL_LEAD 0
        else bitsOf (value.zeroExtend 64) 13 6) ∧
      (fget s fldDRV_GCTL_LOCK 0 = 1 → fget t fldDRV_GCTL_ARMEN 0 = fget s fldDRV_GCTL_ARMEN 0))))

/-- A producer doorbell within the ring, and a consumer doorbell between the last value and the next entry, are taken
(RECOVER raises lower ones) and free the records below, any other counts in BADDB; the frame of a record doorbell is
stated without lost markers. A task doorbell wakes the bound task, on the PF it raises event 0x20. A version request
is agreed in DETACHED (3 only with ATTIC and shadow), kept in RECOVER, else refused with its reason. ATTACH, DETACH,
RESTORE and RESUME change FSTATE where their conditions hold; RESUME is stated after an FLR with no open command. An
FLR takes a version-3 function to RECOVER, any other to DETACHED. The next descriptor of a ring is taken while the
rules allow: its number is used and it is accepted or refused; without journal room JFULL shows. A flush lets the
oldest accepted command act; a waiting vector is sent. -/
def Obligations.HostFunctionsAndDoorbells : Prop :=
  (∀ (f : Fin 9) (r : Fin 8) (q : Fin 4) (v : Word) (s : State),
    let bad := fun (c : Instr) => Does c s (fun t => getReg t .HIF_FN_BADDB f.val = getReg s .HIF_FN_BADDB f.val + 1 ∧
      OnlyRegs [(.HIF_FN_BADDB, f.val)] s t ∧ t.hostFns = s.hostFns ∧ t.mem = s.mem)
    let formed := fun (n : Nat) => bitsOf v 63 48 = 0 ∧ ringOn s f.val n = true
    let consumer := fun (n : Nat) => if fnState s f.val = fnRecover ∧ seqDiff v.toNat (doorbell s f.val n) < 0
      then doorbell s f.val n else v.toNat
    let between := fun (n : Nat) => formed n ∧ 0 ≤ seqDiff (consumer n) (doorbell s f.val n) ∧
      0 ≤ seqDiff (ringSeq s f.val n) (consumer n)
    let produced := formed r.val ∧ 0 ≤ seqDiff v.toNat (doorbell s f.val r.val) ∧
      seqDiff v.toNat (ringSeq s f.val r.val) ≤ ringSize s f.val r.val
    (produced → Does (.cmdDoorbell f r v) s (fun t => doorbell t f.val r.val = v.toNat ∧ t.regs = s.regs ∧ t.mem = s.mem)) ∧
    (¬ produced → bad (.cmdDoorbell f r v)) ∧
    (between (8 + r.val) → Does (.completionDoorbell f r v) s (fun t =>
      doorbell t f.val (8 + r.val) = consumer (8 + r.val) ∧ t.regs = s.regs ∧ t.mem = s.mem)) ∧
    (¬ between (8 + r.val) → bad (.completionDoorbell f r v)) ∧
    (between (16 + q.val) → Does (.recordDoorbell f q v) s (fun t =>
      doorbell t f.val (16 + q.val) = consumer (16 + q.val))) ∧
    (between (16 + q.val) → (getFn s f.val).lostMarks = 0 → Does (.recordDoorbell f q v) s (fun t => OnlyRegs [(.HIF_FN_STAT, f.val)] s t ∧ t.mem = s.mem ∧
      ∀ e, e ∈ t.records ↔ e ∈ s.records ∧
        ¬ (e.fn = f.val ∧ e.ring = 16 + q.val ∧ seqDiff e.seq (consumer (16 + q.val)) < 0))) ∧
    (¬ between (16 + q.val) → bad (.recordDoorbell f q v))) ∧
  (∀ (f : Fin 9) (slot : Fin 256) (s : State),
    let bound := (getFn s f.val).bind.find? (fun p => p.1 == slot.val)
    (f.val = 8 → Does (.taskDoorbell f slot) s (fun t => 0x20 ∈ (getCore t 0).events ∧ t.regs = s.regs ∧ t.mem = s.mem)) ∧
    (f.val ≠ 8 → bound = none → Does (.taskDoorbell f slot) s (fun t =>
      getReg t .HIF_FN_BADDB f.val = getReg s .HIF_FN_BADDB f.val + 1 ∧ OnlyRegs [(.HIF_FN_BADDB, f.val)] s t)) ∧
    (∀ n t e, f.val ≠ 8 → bound = some (n, t, e) →
      exec (.taskDoorbell f slot) s = .next (wakeTask f.val t e 2 [cellRaw (w64 slot.val)] s))) ∧
  (∀ (f : Fin 9) (value : BitVec 32) (recs : List (List Word)) (s : State),
    let v : Word := value.zeroExtend 64
    let st := fnState s f.val
    let ver := fnVer s f.val
    let req := bitsOf v 9 8
    let neg := fun (P : State → Prop) => Does (.versionRequest f value) s (fun t => P t ∧
      fget t fldHIF_FN_NEG_REQ f.val = req ∧ OnlyRegs [(.HIF_FN_NEG, f.val)] s t ∧ t.mem = s.mem)
    let refused := fun (why : Nat) => neg (fun t => fget t fldHIF_FN_NEG_REFUSED f.val = 1 ∧
      fget t fldHIF_FN_NEG_REASON f.val = why ∧ fnVer t f.val = ver)
    let areas := fget s fldHIF_ATTIC_EN f.val = 1 ∧ fget s fldHIF_SHADOW_EN f.val = 1
    let svecOnly := fun (c : Instr) => exec c s = .next (fset fldHIF_FN_CTL_SVEC f.val (bitsOf v 15 8) s)
    let enters := fun (c : Instr) (n : Nat) => Does c s (fun t => fnState t f.val = n ∧ t.mem = s.mem ∧
      t.outbound = s.outbound ++ [.msix f.val (bitsOf v 15 8)] ∧ 0x21 ∈ (getCore t 0).events ∧
      OnlyRegs [(.HIF_FN_CTL, f.val), (.HIF_FN_STAT, f.val)] s t)
    let rings := ringOn s f.val 0 = true ∧ ringOn s f.val 8 = true ∧ (ver = 3 → ringOn s f.val 20 = true)
    let unused := (∀ c ∈ s.cmds, c.fn ≠ f.val) ∧ ∀ e ∈ s.records, e.fn ≠ f.val
    (req = 0 → refused 3) ∧
    (req = 3 → st = fnRecover → ver = 3 → neg (fun t => fnVer t f.val = 3)) ∧
    (req ≠ 0 → st ≠ fnDetached → ¬ (req = 3 ∧ st = fnRecover ∧ ver = 3) → refused 1) ∧
    (req = 3 → st = fnDetached → ¬ areas → refused 2) ∧
    (req ≠ 0 → st = fnDetached → (req = 3 → areas) → neg (fun t => fnVer t f.val = req)) ∧
    (st = fnDetached → rings → enters (.fnAttach f value) fnRunning) ∧
    (st ≠ fnDetached ∨ ¬ rings → svecOnly (.fnAttach f value)) ∧
    (st = fnRunning → unused → enters (.fnDetach f value) fnDetached) ∧
    (st ≠ fnRunning ∨ ¬ unused → svecOnly (.fnDetach f value)) ∧
    (st ≠ fnRecover → svecOnly (.fnResume f value)) ∧
    (st = fnRecover → fget s fldHIF_FN_STAT_CAUSE f.val = 3 → (∀ c ∈ s.cmds, c.fn ≠ f.val) →
      Does (.fnResume f value) s (fun t => fnState t f.val = fnRunning ∧ t.mem = s.mem ∧ t.cmds = s.cmds ∧
        OnlyRegs [(.HIF_FN_CTL, f.val), (.HIF_FN_STAT, f.val)] s t)) ∧
    (ver ≠ 3 ∨ st ≠ fnDetached → exec (.fnRestore f recs) s = .next s) ∧
    (ver = 3 → st = fnDetached → Does (.fnRestore f recs) s (fun t => fnState t f.val = fnRecover ∧
      fget t fldHIF_FN_STAT_CAUSE f.val = 2 ∧ 0x21 ∈ (getCore t 0).events)) ∧
    (ver = 3 → Does (.flr f) s (fun t => fnState t f.val = fnRecover ∧ fget t fldHIF_FN_STAT_CAUSE f.val = 3 ∧
      t.cmds = s.cmds ∧ t.mem = s.mem ∧ OnlyRegs [(.HIF_FN_STAT, f.val)] s t)) ∧
    (ver ≠ 3 → Does (.flr f) s (fun t => fnState t f.val = fnDetached ∧ t.mem = s.mem ∧
      t.cmds = s.cmds.filter (fun c => c.fn != f.val) ∧ OnlyRegs [(.HIF_FN_STAT, f.val)] s t))) ∧
  (∀ (f : Fin 9) (r : Fin 8) (words : List Word) (s : State),
    let fetch := Instr.descriptorFetch f r words
    let room := fnVer s f.val = 3 → journalRoom s f.val = true
    let c := cmdOf s f.val r.val words
    let s0 := fset fldHIF_FN_STAT_JFULL f.val 0 s
    let taken := fun (d : HostCmd) => Does fetch s (fun t => t.cmds = s.cmds ++ [d] ∧
      ringSeq t f.val r.val = (ringSeq s f.val r.val + 1) % 2 ^ 48 ∧ fget t fldHIF_FN_STAT_JFULL f.val = 0)
    (mayAccept s f.val r.val = false → exec fetch s = .next s) ∧
    (mayAccept s f.val r.val = true →
      (¬ room → Does fetch s (fun t => fget t fldHIF_FN_STAT_JFULL f.val = 1 ∧ t.cmds = s.cmds ∧ t.mem = s.mem ∧
        OnlyRegs [(.HIF_FN_STAT, f.val)] s t ∧ (fget s fldHIF_FN_STAT_JFULL f.val = 0 → 0x23 ∈ (getCore t 0).events))) ∧
      (room → (∀ st d, refusalOf s0 c = some (st, d) → taken { c with stage := 4, status := st, detail := d }) ∧
        (refusalOf s0 c = none → taken { c with stage := if fnVer s f.val = 3 then 0 else 1 })))) ∧
  (∀ (f : Fin 9) (ring : Fin 21) (s : State),
    ((∀ c ∈ s.cmds, c.fn = f.val → c.stage ≠ 0) → exec (.journalFlushDone f) s = .next s) ∧
    (∀ c, s.cmds = [c] → c.fn = f.val → c.stage = 0 →
      exec (.journalFlushDone f) s = .next { s with cmds := [{ c with stage := 1 }] }) ∧
    (let waits := ∃ t, (ring.val, t) ∈ (getFn s f.val).unsignalled
     (¬ waits → exec (.interruptModeration f ring) s = .next s) ∧
     (waits → Does (.interruptModeration f ring) s (fun t => t.regs = s.regs ∧ t.mem = s.mem ∧
       t.outbound = s.outbound ++ [.msix f.val (fget s fldHIF_RING_CFG_VEC (ringIx f.val ring.val))] ∧
       ∀ u, (ring.val, u) ∉ (getFn t f.val).unsignalled))))

/-- A command acts only when it is the next of its ring, and then only as its opcode says. Stated for the one open
command: NOP and a FENCE with nothing before it end with OK, IDENTIFY also gives GLB_ID and MCVER; a fence waits for
an earlier write. A one-cell RAW WRITE stores the bytes, a READ sends them (POISONED for a POISON cell); a translation
fault ends with FAULT and its syndrome, a failed host read with HOST_FAULT, a part of a cell that is not RAW64 or VOID
with its status. BIND records or clears the slot; EXPORT begins with the first whole record not begun; FW waits in the
inbox and raises its event when that was empty; POST answers what its queue answers. An ended command is DONE, and the
oldest DONE one leaves its completion. An export record waits, stalls once, or is written. Firmware fetches the oldest
FW command, completes it, and writes TASK records. -/
def Obligations.HostCommandsAndCompletions : Prop :=
  (∀ (f : Fin 9) (r : Fin 8) (bytes : List (BitVec 8)) (bad : Bool) (s : State),
    let acts := [(opNop, Instr.hostNop f r), (opFence, .hostFence f r), (opIdentify, .identify f r),
      (opWrite, .hostWrite f r bytes bad), (opRead, .hostRead f r bad), (opPost, .hostPost f r), (opBind, .bind f r),
      (opExport, .exportStream f r), (opFw, .fw f r)]
    (nextCmd s f.val r.val = none → ∀ p ∈ acts, exec p.2 s = .next s) ∧
    (∀ c, nextCmd s f.val r.val = some c → ∀ p ∈ acts, c.op ≠ p.1 → exec p.2 s = .next s) ∧
    (∀ e c, s.cmds = [e, c] → e.fn = f.val → e.ring = r.val → e.stage = 2 → e.op = opWrite → c.op = opFence → c.fn = f.val →
      c.ring = r.val → c.stage = 1 → bitsOf (cmdWord c 2) 1 0 = 0 → exec (.hostFence f r) s = .next s) ∧
    (∀ c, s.cmds = [c] → c.fn = f.val → c.ring = r.val → c.stage = 1 →
      let ended := fun (t : State) (st d r0 : Nat) (r1 : Word) =>
        t.cmds = [{ c with stage := 3, status := st, detail := d, res0 := r0, res1 := r1 }] ∧ t.regs = s.regs
      let a := (cmdWord c 3).toNat
      let len := bitsOf (cmdWord c 4) 39 0
      (c.op = opNop → Does (.hostNop f r) s (fun t => ended t 0 0 0 0 ∧ t.mem = s.mem)) ∧
      (c.op = opFence → Does (.hostFence f r) s (fun t => ended t 0 0 0 0 ∧ t.mem = s.mem)) ∧
      (c.op = opIdentify → Does (.identify f r) s (fun t => t.mem = s.mem ∧
        ended t 0 0 (bitsOf (getReg s .GLB_ID 0) 31 0) (getCore s 0).mcver)) ∧
      (c.op = opWrite →
        let write := Instr.hostWrite f r bytes bad
        (bytes.length < len → bad = false → exec write s = .next s) ∧
        (c.tagged = false → len = 8 → a % 8 = 0 → 8 ≤ bytes.length →
          (∀ pa, hostPa s f.val .store a = .ok pa → Does write s (fun t => ended t 0 0 0 0 ∧
            t.mem = (cohPut (pa / 8 * 8) (cellRaw (w64 (bytesNat (bytes.take 8)))) s).mem)) ∧
          (∀ e, hostPa s f.val .store a = .error e → Does write s (fun t => ended t 8 e 0 0 ∧ t.mem = s.mem))) ∧
        (c.tagged = false → a % 8 ≠ 0 → partOk s f.val a = false → len ≤ bytes.length →
          Does write s (fun t => ended t 10 0 0 0 ∧ t.mem = s.mem)) ∧
        (c.tagged = false → a % 8 = 0 → len % 8 = 0 → 0 < len → bytes = [] → bad = true →
          Does write s (fun t => ended t 12 0 0 0 ∧ t.mem = s.mem))) ∧
      (c.op = opRead →
        let read := Instr.hostRead f r bad
        (bad = true → Does read s (fun t => ended t 12 0 0 0 ∧ t.mem = s.mem ∧ t.outbound = s.outbound)) ∧
        (bad = false → c.tagged = false → len = 8 → a % 8 = 0 →
          (∀ e, hostPa s f.val .load a = .error e → Does read s (fun t => ended t 8 e 0 0 ∧ t.outbound = s.outbound)) ∧
          (∀ pa, hostPa s f.val .load a = .ok pa → pa % 8 = 0 →
            let cell := physRead s pa
            Does read s (fun t => t.mem = s.mem ∧
              t.outbound = s.outbound ++ [.hostBytes f.val (cmdWord c 2).toNat (wordBytes (readData cell))] ∧
              (if cell.tag = tagPoison then ended t 9 0 1 0 else ended t 0 0 0 0))))) ∧
      (c.op = opPost →
        (∀ e, postCells s c = .error e → Does (.hostPost f r) s (fun t => ended t 8 e 0 0 ∧ t.mem = s.mem)) ∧
        (∀ cells, postCells s c = .ok cells →
          let q := hostPostAt { seenPost c s with cmds := [{ c with stage := 2 }] } c cells
          (q.1 ≤ 2 ∨ 6 ≤ q.1 → q.1 ≠ 0 ∨ postNo c ≠ 0x40 →
            exec (.hostPost f r) s = .next (cmdEnds c q.1 0 0 0 q.2)) ∧
          (q.1 = 0 → postNo c = 0x40 → bitsOf (cells.getD 0 cellVoid).data 3 0 = 1 → exec (.hostPost f r) s = .next q.2) ∧
          (q.1 = 3 → exec (.hostPost f r) s = .next (cmdEnds c 3 (postDetail s c cells) 0 0 { q.2 with draw := q.2.draw + 1 })) ∧
          (q.1 = 4 → exec (.hostPost f r) s = .next (cmdEnds c 4 q.2.postCode 0 0 q.2)) ∧
          (q.1 = 5 → ∃ d < 65536, exec (.hostPost f r) s = .next (cmdEnds c 5 d 0 0 { q.2 with draw := q.2.draw + 1 })))) ∧
      (c.op = opBind →
        let slot := bitsOf (cmdWord c 2) 7 0
        let w := cmdWord c 3
        Does (.bind f r) s (fun t => ended t 0 0 0 0 ∧ t.mem = s.mem ∧
          (w = nilWord → ∀ x, (slot, x) ∉ (getFn t f.val).bind) ∧
          (w ≠ nilWord → (slot, (bitsOf w 14 5, bitsOf w 63 32)) ∈ (getFn t f.val).bind))) ∧
      (c.op = opExport → (cmdWord c 2).getLsbD 22 = false →
        let ns := bitsOf (cmdWord c 3) 15 0 + 1
        Does (.exportStream f r) s (fun t => ended t 0 0 0 0 ∧ t.mem = s.mem ∧ ∃ e, t.exports = s.exports ++ [e] ∧
          e.fn = f.val ∧ e.ring = 16 + bitsOf (cmdWord c 2) 21 20 ∧ e.first = exFirst c ∧ e.count = exCount c ∧ e.ns = ns ∧
          e.next % ns = 0 ∧ exWritten s e ≤ e.next ∧ e.next < exWritten s e + ns ∧ e.miss = none)) ∧
      (c.op = opExport → (cmdWord c 2).getLsbD 22 = true → s.exports = [] →
        Does (.exportStream f r) s (fun t => ended t 0 0 0 0 ∧ t.mem = s.mem ∧ t.exports = [])) ∧
      (c.op = opFw → Does (.fw f r) s (fun t => t.cmds = [{ c with stage := 2 }] ∧ t.regs = s.regs ∧ t.mem = s.mem ∧
        (f.val = 8 → 0x22 ∈ (getCore t 0).events) ∧
        (f.val < 8 → ∀ k rest, coresOf s f.val = k :: rest → 0x40 + 24 * f.val + 10 ∈ (getCore t k).events))))) ∧
  (∀ (f : Fin 9) (r : Fin 8) (s : State),
    ((∀ c ∈ s.cmds, c.fn = f.val → c.ring = r.val → c.stage ≠ 3) → exec (.commandDone f r) s = .next s) ∧
    ((∀ c ∈ s.cmds, c.fn = f.val → c.ring ≠ r.val) → exec (.completionPost f r) s = .next s) ∧
    (∀ c, s.cmds = [c] → c.fn = f.val → c.ring = r.val →
      (c.stage = 3 → Does (.commandDone f r) s (fun t => t.cmds = [{ c with stage := 4 }] ∧
        (fnVer s f.val ≠ 3 → t.regs = s.regs ∧ t.mem = s.mem ∧ t.journal = s.journal) ∧
        (fnVer s f.val = 3 → ∃ j, t.journal = s.journal ++ [j] ∧ j.fn = f.val ∧ j.seq = ringSeq s f.val 20 ∧
          j.words.getD 0 0 = w64 (2 + r.val * 16 + c.seq * 2 ^ 16)))) ∧
      (c.stage ≠ 4 ∨ fnState s f.val ≠ fnRunning → exec (.completionPost f r) s = .next s) ∧
      (c.stage = 4 → fnState s f.val = fnRunning → Does (.completionPost f r) s (fun t => t.cmds = [] ∧ t.mem = s.mem ∧
        ringSeq t f.val (8 + r.val) = (ringSeq s f.val (8 + r.val) + 1) % 2 ^ 48 ∧
        (ringIx f.val (8 + r.val) < 65536 → fget s fldHIF_RING_CFG_IEN (ringIx f.val (8 + r.val)) = 0 →
          t.outbound = s.outbound ++ [.hostWrite f.val
            (ringAddr s f.val (8 + r.val) c.seq (complBytes s f.val)) (complWords s c false)]))))) ∧
  (∀ (f : Fin 9) (first : Fin 16384) (s : State),
    let run := Instr.exportRecord f first
    ((∀ e ∈ s.exports, e.fn = f.val → e.first ≠ first.val) → exec run s = .next s) ∧
    (∀ e, s.exports = [e] → e.fn = f.val → e.first = first.val →
      let stop := recEnd s e
      let bytes := (e.count * (stop - e.next) * 5 + 63) / 64 * 64
      let room := recordRoom s f.val e.ring bytes = true ∧ (heldRecords s f.val e.ring).length + 1 ≤ ringSize s f.val e.ring
      (exWritten s e < stop → exec run s = .next s) ∧
      (stop ≤ exWritten s e → exHeld s e ≤ e.next → e.miss = none →
        (¬ room → e.waiting = true → exec run s = .next s) ∧
        (¬ room → e.waiting = false → Does run s (fun t => t.exports = [{ e with waiting := true }] ∧ t.mem = s.mem ∧
          OnlyRegs [(.GLB_ADM_PSTAT, f.val)] s t)) ∧
        (room → recMissing s f.val e.first e.count e.next (stop - e.next) = false → Does run s (fun t =>
          (∃ rec, t.records = s.records ++ [rec] ∧ rec.fn = f.val ∧ rec.ring = e.ring ∧ rec.seq = ringSeq s f.val e.ring) ∧
          ∃ g, t.exports = [g] ∧ g.next = stop ∧ g.waiting = false))))) ∧
  (∀ (k : CoreId) (c0 : Cell) (cs : List Cell) (s : State),
    let fetch := Instr.fwFetch k (c0 :: cs)
    let done := Instr.fwComplete k (c0 :: cs)
    let record := Instr.taskRecord k (c0 :: cs)
    let no := fun (i : Instr) (n : Nat) => exec i s = .next { s with status := n }
    let c1 := cs.getD 0 cellVoid
    let c2 := cs.getD 1 cellVoid
    (firmFn s k.val = none → no fetch 2 ∧ no done 2 ∧ no record 2) ∧
    (∀ f, firmFn s k.val = some f →
      let place := c0.tag = tagRaw64 ∧ c1.tag = tagRaw64 ∧ bitsOf c1.data 2 0 = 0
      let result := c0.tag = tagRaw64 ∧ c1.tag = tagRaw64 ∧ c2.tag = tagRaw64 ∧
        ¬ (6 ≤ bitsOf c1.data 15 0 ∧ bitsOf c1.data 15 0 ≤ 15)
      let named := fun (m : HostCmd) => m.fn = f ∧ m.ring = bitsOf c0.data 8 4 ∧ m.seq = bitsOf c0.data 63 16 ∧
        m.op = opFw ∧ m.stage = 2 ∧ m.taker ≠ none
      let q := 16 + bitsOf c0.data 1 0
      let formed := c0.tag = tagRaw64 ∧ bitsOf c0.data 63 2 = 0
      (¬ place → no fetch 5) ∧ (place → inbox s f = [] → no fetch 6) ∧
      (∀ m t0, place → s.cmds = [m] → inbox s f = [m] →
        fnWrites f c1.data.toNat ([cellRaw (w64 (m.ring + m.seq * 2 ^ 16)), cellRaw m.cookie] ++
          (List.range 6).map (fun i => cellRaw (cmdWord m (2 + i)))) s = .ok t0 → t0.cmds = s.cmds →
        Does fetch s (fun t => t.status = 0 ∧ t.mem = t0.mem ∧ t.regs = t0.regs ∧
          t.cmds = [{ m with taker := some (poster s k.val) }])) ∧
      (¬ result → no done 5) ∧ (result → (∀ m ∈ s.cmds, ¬ named m) → no done 3) ∧
      (∀ m, result → s.cmds = [m] → named m → Does done s (fun t => t.status = 0 ∧ t.mem = s.mem ∧ t.regs = s.regs ∧
        t.cmds = [{ m with stage := 3, status := bitsOf c1.data 15 0, detail := bitsOf c1.data 31 16,
                           res0 := bitsOf c1.data 63 32, res1 := c2.data }])) ∧
      (¬ formed → no record 5) ∧ (formed → recordRoom s f q 0 = false → no record 1) ∧
      (formed → recordRoom s f q 0 = true → Does record s (fun t => t.status = 0 ∧ ∃ rec, t.records = s.records ++ [rec] ∧
        rec.fn = f ∧ rec.ring = q ∧ rec.seq = ringSeq s f q ∧ rec.words.getD 1 0 = dtNow s))))

/-- A full boot happens once: unreadable OTP fails with code 01, else the boot is counted, the straps show and, both
references good, the PLLs start; a later good XA starts them too. A lock shows LOCK and ends coast, or breaks R412;
with PLLS, PLLD and PLLF locked the memory is KEYED and the sequencer holds, or DDR trains and it waits. RELEASE ends
HOLD, GO ends WAIT while bus mastering is on. A bundle that cannot be read or is malformed fails with 02 or 03, one
whose images all pass is accepted; then the keeper enters and BAR0 opens, once the memory is READY (0B when it
FAILED). OTP operations set their bit, or ERR. Service posts answer BAD_DESC, NOT_OWNED, refused, FULL or wait; the
oldest is served: EPOCH_ADV raises the epoch, QUOTE answers 20 while PREPARING. A core that can start runs at its
entry, or idle for its partition. A new launch address is unverified. -/
def Obligations.BootTrustAndServices : Prop :=
  (∀ (xb : Bool) (xdly : BitVec 3) (wait otp : Bool) (fails : Fin 9) (ga gb : Bool) (s : State),
    let boot := Instr.fullBoot xb xdly wait otp fails ga gb
    let first := s.boot.stage = 0 ∧ bootState s = btStart
    (¬ first → exec boot s = .next s) ∧
    (first → otp = false → Does boot s (fun t => bootState t = btFailed ∧ fget t fldSEC_BOOT_STAT_ERR 0 = 1 ∧
      t.otp = s.otp ∧ t.mem = s.mem)) ∧
    (first → otp = true → ga = true → gb = true → s.otp.boots < 65528 → Does boot s (fun t =>
      t.locking = [0, 1, 2, 3, 4, 5] ∧ t.boot.stage = 2 ∧ t.boot.bootWait = wait ∧ t.mem = s.mem ∧
      t.otp.boots = s.otp.boots + min 8 (fails.val + 1) ∧ fget t fldSEC_BOOT_CNT_BOOT 0 = t.otp.boots ∧
      fget t fldSEC_ATT_STAT_STATE 0 = (if fails.val = 8 then 3 else 0) ∧ fget t fldCLK_STAT_XB_MODE 0 = xb.toNat ∧
      bootState t = btStart))) ∧
  (∀ (good : Bool) (s : State),
    let retests := s.boot.stage = 1 ∧ bootState s = btStart ∧ good = true
    (¬ retests → exec (.xaRetest good) s = .next s) ∧
    (retests → Does (.xaRetest good) s (fun t => t.locking = [0, 1, 2, 3, 4, 5] ∧ t.boot.stage = 2 ∧ 2 ∉ t.clkBad ∧
      t.regs = s.regs))) ∧
  (∀ (k : Fin 6) (s : State),
    let s1 := pllLocks k.val s
    let keys := s.boot.stage = 2 ∧ bootState s = btStart ∧ memState s = memOff ∧
      ∀ j ∈ [2, 3, 4], pllLocked s j = true ∨ j = k.val
    (k.val ∉ s.locking → exec (.pllLock k) s = .next s) ∧
    (k.val ∈ s.locking →
      (ratioOk s1 = false → exec (.pllLock k) s = .fault .ratioRule) ∧
      (ratioOk s1 = true → Does (.pllLock k) s (fun t => pllLocked t k.val = true ∧ coasts t k.val = false ∧
        k.val ∉ t.locking ∧ t.mem = s.mem ∧
        (¬ keys → OnlyRegs [(.CLK_STAT, 0), (.CLK_PLL_CFG, k.val)] s t) ∧
        (keys → s.boot.bootWait = true → memState t = memKeyed ∧ bootState t = btHold) ∧
        (keys → s.boot.bootWait = false → memState t = memTraining ∧ bootState t = btWait))))) ∧
  (∀ (who : Agent) (value : BitVec 32) (bme : Bool) (s : State),
    let holds := value.getLsbD 0 = true ∧ pfOrK s who = true ∧ bootState s = btHold
    let goes := value.getLsbD 1 = true ∧ pfOrK s who = true ∧ bme = true ∧ bootState s = btWait
    (¬ holds → exec (.bootRelease who value) s = .next s) ∧ (¬ goes → exec (.bootGo who value bme) s = .next s) ∧
    (holds → Does (.bootRelease who value) s (fun t => bootState t = btWait ∧ memState t = memTraining ∧
      OnlyRegs [(.SEC_BOOT_STAT, 0), (.MEM_STAT, 0)] s t)) ∧
    (goes → Does (.bootGo who value bme) s (fun t => bootState t = btLoad ∧ OnlyRegs [(.SEC_BOOT_STAT, 0)] s t))) ∧
  (∀ (bytes : List (BitVec 8)) (bad : Bool) (s : State),
    let verify := Instr.bundleVerifyDone bytes bad
    let loads := bootState s = btLoad ∧ s.boot.accepted = false
    let fails := fun (n : Nat) => Does verify s (fun t => bootState t = btFailed ∧ fget t fldSEC_BOOT_STAT_ERR 0 = n ∧
      OnlyRegs [(.SEC_BOOT_STAT, 0)] s t ∧ t.mem = s.mem)
    let s1 := (List.range (leAt bytes 6 2)).foldl (fun t i => takeImage bytes i t) s
    (¬ loads → exec verify s = .next s) ∧ (loads → bad = true → fails 2) ∧
    (loads → bad = false → bundleOk s bytes = false → fails 3) ∧
    (loads → bad = false → bundleOk s bytes = true → awaitsMemory s bytes = true → exec verify s = .next s) ∧
    (loads → bad = false → bundleOk s bytes = true → awaitsMemory s bytes = false →
      (bootState s1 ≠ btLoad → exec verify s = .next s1) ∧
      (bootState s1 = btLoad → Does verify s (fun t => t.boot.accepted = true ∧ t.mem = s1.mem ∧
        t.boot.keeper = s1.boot.keeper ∧ t.boot.mcode = s1.boot.mcode))) ∧
    (let enters := bootState s = btLoad ∧ s.boot.accepted = true
     (¬ enters ∨ (memState s ≠ memFailed ∧ memState s ≠ memReady) → exec .keeperColdEntry s = .next s) ∧
     (enters → memState s = memFailed → Does .keeperColdEntry s (fun t => bootState t = btFailed ∧
       fget t fldSEC_BOOT_STAT_ERR 0 = 0x0B)) ∧
     (∀ g, enters → memState s = memReady → s.boot.keeper = some g → Does .keeperColdEntry s (fun t => bootState t = btRun ∧
       t.boot.barOpen = true ∧ (getCore t 0).run = true ∧ (front t 0).pc = g.cold ∧ (front t 0).npc = g.cold + 4 ∧
       plOf (front t 0) = 2 ∧ t.mem = s.mem))) ∧
    (let ready := s.boot.stage ≠ 0 ∧ fget s fldSEC_ATT_STAT_STATE 0 = 0
     (¬ ready → exec .attKeyReady s = .next s) ∧
     (ready → Does .attKeyReady s (fun t => fget t fldSEC_ATT_STAT_STATE 0 = 1 ∧ OnlyRegs [(.SEC_ATT_STAT, 0)] s t)))) ∧
  (∀ (who : Agent) (slot : Fin 8) (good : Bool) (s : State),
    let n := slot.val
    let prog := Instr.otpProgramSlot who slot good
    let revoke := Instr.otpRevokeSlot who slot good
    let policy := Instr.otpBlowPol who slot good
    let fails := fun (c : Instr) => Does c s (fun t => fget t fldSEC_OTP_CMD_ERR 0 = 1 ∧ t.otp = s.otp ∧
      OnlyRegs [(.SEC_OTP_CMD, 0)] s t)
    let shown := fun (t : State) => OnlyRegs [(.SEC_EPOCH, 0), (.SEC_OTP_POL, 0)] s t ∧ t.otp.epochs = s.otp.epochs
    let open_ := (n = 4 ∨ n = 5) ∧ s.otp.prog.testBit n = false
    (pfOrK s who = false → ∀ c ∈ [prog, revoke, policy], exec c s = .next s) ∧
    (pfOrK s who = true →
      (¬ open_ → fails prog) ∧
      (open_ → good = true → Does prog s (fun t => t.otp.prog.testBit n = true ∧ shown t ∧ t.otp.revoked = s.otp.revoked)) ∧
      (open_ → good = false → Does prog s (fun t => fget t fldSEC_OTP_CMD_ERR 0 = 1 ∧ t.otp.prog = s.otp.prog)) ∧
      (6 ≤ n ∨ liveVendors s.otp = [n] ∨ good = false → fails revoke) ∧
      (n < 6 → liveVendors s.otp ≠ [n] → good = true → Does revoke s (fun t => t.otp.revoked.testBit n = true ∧ shown t ∧
        t.otp.prog = s.otp.prog)) ∧
      (3 ≤ n ∨ good = false → fails policy) ∧
      (n < 3 → good = true → Does policy s (fun t => t.otp.pol.testBit n = true ∧ shown t)))) ∧
  (∀ (who : Agent) (c0 : Cell) (cs : List Cell) (s : State),
    let w := c0.data
    let desc := fun (op : Nat) => withOp 3 op (c0 :: cs)
    let post := fun (op : Nat) => if op = 1 then Instr.verify who (c0 :: cs) else if op = 2 then .quote who (c0 :: cs)
      else if op = 3 then .epochAdv who (c0 :: cs) else .mcLoad who (c0 :: cs)
    let no := fun (op n : Nat) => exec (post op) s = .next { s with status := n }
    let own := fun (op : Nat) => isKeeper s who = true ∨ (op = 2 ∧ atLevelT s who = false ∧ w.getLsbD 7 = false ∧
      agentPart s who = some (bitsOf w 6 4))
    ∀ op ∈ [1, 2, 3, 4],
      (serviceBad (desc op) = true → no op 5) ∧
      (serviceBad (desc op) = false →
        (¬ own op → no op 2) ∧
        (own op →
          let late := op = 1 ∧ 2 ≤ partState s (bitsOf w 6 4)
          let busy := op = 4 ∧ ∃ c < 8, w.getLsbD (8 + c) = true ∧ (c = 0 ∨ clusterAssigned s c = true)
          (late ∨ busy → no op 3) ∧
          (¬ late → ¬ busy → 8 ≤ s.boot.services.length → no op 1) ∧
          (¬ late → ¬ busy → s.boot.services.length < 8 → Does (post op) s (fun t => t.status = 0 ∧ t.regs = s.regs ∧
            t.mem = s.mem ∧ t.boot.services = s.boot.services ++
              [⟨desc op, if isKeeper s who then none else agentPart s who, false⟩]))))) ∧
  (∀ (s : State),
    (s.boot.services = [] → exec .serviceRequestDone s = .next s) ∧
    (∀ q rest, s.boot.services = q :: rest →
      let w := (q.desc.getD 0 cellVoid).data
      let i := bitsOf w 17 16
      let res := (q.desc.getD 2 cellVoid).data.toNat
      let answers := fun (n : Nat) (t : State) => q.mute = false → (q.desc.getD 3 cellVoid).tag = tagNil →
        ∀ pa, serviceAddr s q.part .store res = some pa → t.mem = (cohPut pa (cellRaw (w64 n)) s).mem
      (bitsOf w 3 0 = 3 → Does .serviceRequestDone s (fun t => t.boot.services = rest ∧
        t.otp.epochs.getD i 0 = max (s.otp.epochs.getD i 0) (sparseGet (fun _ => 0) s.boot.verified (i + 1)) ∧
        (∀ j < 4, j ≠ i → t.otp.epochs.getD j 0 = s.otp.epochs.getD j 0))) ∧
      (bitsOf w 3 0 = 2 → fget s fldSEC_ATT_STAT_STATE 0 = 0 → (q.mute = true ∨ (q.desc.getD 3 cellVoid).tag = tagNil) →
        Does .serviceRequestDone s (fun t => t.boot.services = rest ∧ t.regs = s.regs ∧ answers 0x20 t)))) ∧
  (∀ (k : CoreId) (value : Word) (p : Fin 8) (s : State),
    let entry := bitsOf value 47 2
    let can := fget s fldCLU_CORE_BOOT_RUN k.val = 0 ∧ coreUsable s k.val = true ∧ fget s fldCLU_CORE_PART_MOVING k.val = 0
    let noted := fun (t : State) => fget t fldCLU_CORE_BOOT_ENTRY k.val = entry ∧ OnlyRegs [(.CLU_CORE_BOOT, k.val)] s t ∧
      t.mem = s.mem
    (¬ can → Does (.coreGo k value) s (fun t => noted t ∧ t.cores = s.cores)) ∧
    (can → Does (.coreGo k value) s (fun t => noted t ∧ (getCore t k.val).run = true ∧
      fget t fldCLU_CORE_BOOT_RUN k.val = 1 ∧
      (partOf s k.val = none → (front t k.val).pc = w64 (entry * 4) ∧ plOf (front t k.val) = 2) ∧
      (partOf s k.val ≠ none → ctxTask (front t k.val) = none ∧ ctxTask (getCore t k.val).back = none))) ∧
    Does (.partEntryWrite p value) s (fun t => fget t fldGLB_PART_ENTRY_PADDR p.val = bitsOf value 43 6 ∧
      fget t fldGLB_PART_ENTRY_VERIFIED p.val = 0 ∧ OnlyRegs [(.GLB_PART_ENTRY, p.val)] s t ∧ t.mem = s.mem))

/-- A keeper's write of SRC and DIV that R411, R413, R414 and R423 admit starts a switch, whose end puts the new
values in force; one they turn away sets REFUSED; one while locked, switching or throttled, or that changes nothing,
is ignored. PLL_RECONFIG, PLL_RELOCK and a change of spread act, are refused or are ignored likewise. A failed clock
sets its flag, and the running PLLs it feeds set theirs and coast, with what R418 adds. A rail moves by 5 mV within
its bounds, or is held, or sets FAULT. A power domain changes on request unless fixed, changing or already there, is
refused during a reset or while it may not go OFF, and arrives with event 0x12. A sample sets the sensors, and Tj at
TH_HI throttles (with EN), at TCRIT trips; throttling ends when Tj has been low for 10 ms. Where a change of clocks
breaks a ratio rule of R412, behaviour is undefined: the model stops there with the fault ratioRule, and goes on
everywhere else. -/
def Obligations.ClocksAndPower : Prop :=
  (∀ (who : Agent) (d : Fin 25) (value : BitVec 32) (s : State),
    let c := Instr.domainSwitch who d value
    let v : Word := value.zeroExtend 64
    let src := bitsOf v 1 0
    let div := if d.val = 14 ∨ d.val = 15 ∨ d.val = 16 then 0 else bitsOf v 7 2
    let open' := isKeeper s who = true ∧ fget s fldCLK_CTL_LOCK 0 = 0 ∧ fget s fldCLK_DOM_SEL_SWITCHING d.val = 0 ∧
      ∀ p ∈ s.throttled, p.1 ≠ d.val
    let same := src = fget s fldCLK_DOM_SEL_SRC d.val ∧ div = fget s fldCLK_DOM_SEL_DIV d.val
    let freq := if src = 1 then fircFreq else vcoSet s (domPll d.val)
    let barred := 2 ≤ src ∨ (src = 1 ∧ d.val ∈ [15, 16, 17, 19, 20]) ∨ ((d.val = 19 ∨ d.val = 20) ∧ 2 ≤ memState s) ∨
      tooFast d.val freq div = true ∨ domPinned s d.val = true ∨ railBars s d.val src div = true
    let refused := Does c s (fun t => fget t fldCLK_DOM_SEL_REFUSED d.val = 1 ∧ t.switching = s.switching ∧
      OnlyRegs [(.CLK_DOM_SEL, d.val)] s t ∧ fget t fldCLK_DOM_SEL_SRC d.val = fget s fldCLK_DOM_SEL_SRC d.val ∧
      fget t fldCLK_DOM_SEL_DIV d.val = fget s fldCLK_DOM_SEL_DIV d.val)
    (¬ open' → exec c s = .next s) ∧ (open' → d.val ∈ [18, 21, 22] → refused) ∧
    (open' → d.val ∉ [18, 21, 22] → same → exec c s = .next s) ∧
    (open' → d.val ∉ [18, 21, 22] → ¬ same → barred → refused) ∧
    (open' → d.val ∉ [18, 21, 22] → ¬ same → ¬ barred → Does c s (fun t => fget t fldCLK_DOM_SEL_SWITCHING d.val = 1 ∧
      fget t fldCLK_DOM_SEL_SRC d.val = fget s fldCLK_DOM_SEL_SRC d.val ∧
      fget t fldCLK_DOM_SEL_DIV d.val = fget s fldCLK_DOM_SEL_DIV d.val ∧ OnlyRegs [(.CLK_DOM_SEL, d.val)] s t ∧
      t.switching.find? (fun p => p.1 == d.val) = some (d.val, src, div) ∧ t.mem = s.mem ∧ t.cores = s.cores))) ∧
  (∀ (d : Fin 25) (s : State),
    let c := Instr.domainSwitchDone d
    (s.switching.find? (fun p => p.1 == d.val) = none → exec c s = .next s) ∧
    (∀ n src div, s.switching.find? (fun p => p.1 == d.val) = some (n, src, div) → src < 4 → div < 64 → ∃ t,
      fget t fldCLK_DOM_SEL_SWITCHING d.val = 0 ∧ fget t fldCLK_DOM_SEL_SRC d.val = src ∧
      fget t fldCLK_DOM_SEL_DIV d.val = div ∧ OnlyRegs [(.CLK_DOM_SEL, d.val)] s t ∧
      t.switching = s.switching.filter (fun p => p.1 != d.val) ∧ t.cores = s.cores ∧ t.mem = s.mem ∧
      (ratioOk t = true → exec c s = .next t) ∧ (ratioOk t = false → exec c s = .fault .ratioRule))) ∧
  (∀ (who : Agent) (k : Fin 6) (value : Word) (half : BitVec 32) (s : State),
    let ref := bitsOf value 1 0
    let nint := if k.val = 4 then fget s fldCLK_PLL_CFG_NINT k.val else bitsOf value 10 2
    let frac := if k.val = 5 then bitsOf value 34 11 else 0
    let new := vcoOf s ref nint frac
    let open' := isKeeper s who = true ∧ fget s fldCLK_CTL_LOCK 0 = 0
    let same := ref = fget s fldCLK_PLL_CFG_REF k.val ∧ nint = fget s fldCLK_PLL_CFG_NINT k.val ∧
      frac = fget s fldCLK_PLL_CFG_FRAC k.val
    let pinned := ∃ d ∈ pllDomains k.val, domPinned s d = true
    let barred := 2 ≤ ref ∨ (ref = 1 ∧ k.val ≠ 5) ∨ new < (vcoRange k.val).1 ∨ (vcoRange k.val).2 < new ∨ pinned ∨
      (k.val = 3 ∧ 2 ≤ memState s) ∨ (k.val ≠ 3 ∧ ∃ d ∈ pllDomains k.val, onFirc s d = false) ∨
      ∃ d ∈ pllDomains k.val, onFirc s d = false ∧ tooFast d new (domDiv s d) = true
    let refused := fun (t : State) => fget t fldCLK_PLL_CFG_REFUSED k.val = 1 ∧ OnlyRegs [(.CLK_PLL_CFG, k.val)] s t ∧
      vcoSet t k.val = vcoSet s k.val ∧ t.locking = s.locking
    let clocks := fun (c : Instr) (P : State → Prop) => ∃ t, P t ∧ (ratioOk t = true → exec c s = .next t) ∧
      (ratioOk t = false → exec c s = .fault .ratioRule)
    let config := Instr.pllReconfig who k value
    let spread := Instr.spreadConfig who k half
    let bits := bitsOf (half.zeroExtend 64) 11 0
    let alike := bits = bitsOf (getReg s .CLK_PLL_SS k.val) 11 0
    let relock := Instr.pllRelock who k value
    let held := s.clkBad.contains (2 + fget s fldCLK_PLL_CFG_REF k.val) = true ∨ (k.val < 2 ∧ coasts s 2 = true)
    (¬ open' ∨ same → clocks config (fun t => t = s)) ∧ (open' → ¬ same → barred → clocks config refused) ∧
    (open' → ¬ same → ¬ barred → clocks config (fun t => fget t fldCLK_PLL_CFG_REF k.val = ref ∧
      fget t fldCLK_PLL_CFG_NINT k.val = nint ∧ fget t fldCLK_PLL_CFG_FRAC k.val = frac ∧ pllLocked t k.val = false ∧
      (pllLocked s k.val = true → k.val ∈ t.locking) ∧ OnlyRegs [(.CLK_PLL_CFG, k.val), (.CLK_STAT, 0)] s t)) ∧
    (¬ open' ∨ 3 ≤ k.val ∨ alike → clocks spread (fun t => t = s)) ∧
    (open' → k.val < 3 → ¬ alike → pinned → clocks spread refused) ∧
    (open' → k.val < 3 → ¬ alike → ¬ pinned → clocks spread (fun t => bitsOf (getReg t .CLK_PLL_SS k.val) 11 0 = bits ∧
      OnlyRegs [(.CLK_PLL_SS, k.val)] s t)) ∧
    (isKeeper s who = false ∨ coasts s k.val = false → exec relock s = .next s) ∧
    (isKeeper s who = true → coasts s k.val = true → held → Does relock s refused) ∧
    (isKeeper s who = true → coasts s k.val = true → ¬ held → Does relock s (fun t => k.val ∈ t.locking ∧
      pllLocked t k.val = false ∧ OnlyRegs [(.CLK_STAT, 0)] s t ∧
      ∀ j, j < 2 → k.val = 2 → coasts s j = true → pllFailed s j = false → j ∈ t.locking))) ∧
  (∀ (m : Fin 10) (s : State),
    let c := Instr.clockMonitorFail m
    let fed := if m.val = 2 ∨ m.val = 3 then (List.range 6).filter (fun k => fget s fldCLK_PLL_CFG_REF k == m.val - 2)
      else if 4 ≤ m.val then [m.val - 4] else []
    (∀ i, Does (c false) s (fun t => (i ∈ t.clkBad ↔ i ∈ s.clkBad ∧ i ≠ m.val) ∧ t.regs = s.regs)) ∧
    (4 ≤ m.val → pllRuns s (m.val - 4) = false → exec (c true) s = .next s) ∧
    ((4 ≤ m.val → pllRuns s (m.val - 4) = true) → ∃ t, (ratioOk t = true → exec (c true) s = .next t) ∧
      (ratioOk t = false → exec (c true) s = .fault .ratioRule) ∧ m.val ∈ t.clkBad ∧
      (m.val < 4 → bitsOf (getReg t .CLK_STAT 0) m.val m.val = 1) ∧
      ∀ k ∈ fed, pllRuns s k = true → coasts s k = false →
        pllFailed t k = true ∧ coasts t k = true ∧
        (k = 2 → ∀ j, j < 2 → pllRuns s j = true → coasts t j = true) ∧
        (k = 3 → memState t ≠ memReady) ∧ (k = 4 → ∀ l, l < 8 → laneState s l ≠ laneOff → laneState t l = laneFailed) ∧
        (k = 5 → ∀ i, i < 15 → srcOn s i = true → srcType s i ≤ typSync → srcState t i = srcLost))) ∧
  (∀ (r : Fin 2) (up : Option Bool) (s : State),
    let v := fget s fldPWR_AVS_TARGET r.val
    let low := max 650 (fget s fldPWR_AVS_VMIN r.val)
    let c := Instr.avsAdjust r up
    let to' := fun (n : Nat) => Does (c true) s (fun t => fget t fldPWR_AVS_TARGET r.val = n % 1024 ∧ OnlyRegs [(.PWR_AVS, r.val)] s t)
    let runs := memState s ≠ memOff ∧ fget s fldPWR_AVS_FAULT r.val = 0
    (¬ runs → ∀ ok, exec (c ok) s = .next s) ∧
    (runs → Does (c false) s (fun t => fget t fldPWR_AVS_FAULT r.val = 1 ∧ fget t fldPWR_AVS_TARGET r.val = v ∧
      0x13 ∈ (getCore t 0).events ∧ OnlyRegs [(.PWR_AVS, r.val)] s t)) ∧
    (runs → fget s fldPWR_AVS_EN r.val = 0 → to' 800) ∧
    (runs → fget s fldPWR_AVS_EN r.val = 1 → (up = none → to' v) ∧ (up = some true → to' (min 900 (v + 5))) ∧
      (up = some false → to' (max low (v - 5))))) ∧
  (∀ (who : Agent) (d : Fin 30) (value : BitVec 32) (s : State),
    let c := Instr.powerDomainRequest who d value
    let on := value.getLsbD 0
    let open' := isKeeper s who = true ∧ d.val ∉ [0, 8, 9, 23, 26, 27, 28, 29] ∧ fget s fldPWR_DOM_CTL_PST d.val ≠ 2 ∧
      fget s fldPWR_DOM_CTL_PST d.val ≠ on.toNat
    let resets := fget s fldGLB_RESET_PENDING 0 = 1 ∨ (d.val < 8 ∧ fget s fldCLU_RESET_BUSY d.val = 1)
    (¬ open' → exec c s = .next s) ∧
    (open' → resets ∨ (on = false ∧ mayGoOff s d.val = false) → Does c s (fun t =>
      fget t fldPWR_DOM_CTL_REFUSED d.val = 1 ∧ fget t fldPWR_DOM_CTL_PST d.val = fget s fldPWR_DOM_CTL_PST d.val ∧
      OnlyRegs [(.PWR_DOM_CTL, d.val)] s t)) ∧
    (open' → ¬ resets → (on = false → mayGoOff s d.val = true) → Does c s (fun t => fget t fldPWR_DOM_CTL_PST d.val = 2 ∧
      fget t fldPWR_DOM_CTL_REQ d.val = on.toNat ∧ OnlyRegs [(.PWR_DOM_CTL, d.val)] s t ∧ t.mem = s.mem)) ∧
    (fget s fldPWR_DOM_CTL_PST d.val ≠ 2 → exec (.powerDomainDone d) s = .next s) ∧
    (fget s fldPWR_DOM_CTL_PST d.val = 2 → Does (.powerDomainDone d) s (fun t =>
      fget t fldPWR_DOM_CTL_PST d.val = fget s fldPWR_DOM_CTL_REQ d.val ∧ 0x12 ∈ (getCore t 0).events ∧
      (1 ≤ d.val → d.val ≤ 7 → fget s fldPWR_DOM_CTL_REQ d.val = 0 → ∀ i, i < 8 →
        (getCore t (8 * d.val + i)).run = false ∧ (front t (8 * d.val + i)).cells = [])))) ∧
  (∀ (temps : List (BitVec 12)) (s : State), temps.length = 16 →
    let hot := fun (n : Int) => ∃ i, i < 16 ∧ sensorOn s i = true ∧ n ≤ (temps.getD i 0).toInt
    let thHi : Int := 8 * fget s fldPWR_THROT_TH_HI 0
    let tCrit : Int := 8 * min 125 (fget s fldPWR_THROT_TCRIT 0)
    let enters := hot thHi ∧ fget s fldPWR_THROT_EN 0 = 1 ∧ fget s fldPWR_THROT_ACTIVE 0 = 0
    (∃ t, (ratioOk t = true → exec (.thermalSample temps) s = .next t) ∧
      (ratioOk t = false → (∃ i, i < 16 ∧ sensorOn s i = true) → exec (.thermalSample temps) s = .fault .ratioRule) ∧ t.mem = s.mem ∧
      (∀ i, i < 16 → sensorOn s i = true → fget t fldPWR_THERM_VALID i = 1 ∧ fget t fldPWR_THERM_TEMP i = (temps.getD i 0).toNat) ∧
      (∀ i, i < 16 → sensorOn s i = false → fget t fldPWR_THERM_VALID i = 0) ∧
      (fget t fldPWR_THROT_ACTIVE 0 = 1 ↔ fget s fldPWR_THROT_ACTIVE 0 = 1 ∨ enters) ∧
      (enters → 0x11 ∈ (getCore t 0).events ∧ ∀ d n, (d, n) ∈ t.throttled ↔
        d < 25 ∧ d ∈ [0, 1, 2, 3, 4, 5, 6, 7, 10, 11, 12] ∧ n = fget s fldPWR_THROT_DIV_DIV d ∧
        max 1 (fget s fldCLK_DOM_SEL_DIV d) ≤ n) ∧
      (¬ enters → t.throttled = s.throttled) ∧
      (t.tripped = true ↔ s.tripped = true ∨ hot tCrit) ∧
      (s.tripped = false → hot tCrit → fget t fldPWR_THROT_CRIT 0 = 1 ∧ 0x11 ∈ (getCore t 0).events))) ∧
  (∀ s : State,
    let cooled := fget s fldPWR_THROT_ACTIVE 0 = 1 ∧ ∃ t, s.cool = some t ∧ t + 2 ^ 64 / 100 ≤ s.dtime
    (¬ cooled → exec .throttleExit s = .next s) ∧
    (cooled → ∃ t, (ratioOk t = true → exec .throttleExit s = .next t) ∧
      (ratioOk t = false → exec .throttleExit s = .fault .ratioRule) ∧ t.throttled = [] ∧
      fget t fldPWR_THROT_ACTIVE 0 = 0 ∧ OnlyRegs [(.PWR_THROT, 0)] s t ∧ t.cores = s.cores))

/-- A power-on reset returns all to reset but OTP (and the queue, what has left, pin levels, the cells of DDR), with
cores at core reset under new keys, a PCIe reset all but power-on registers; RST_STAT says which. A write of GLB_RESET
by the PF or level K starts every ramp; once ramps ended and cores can stop, caches empty, cores stop, partitions are
FREE, work ends, clocks and power domains stay. A cluster reset waits for its cores, then stops and clears them and
its L2. An error of each structure of R434 is counted once in its unit: POISON of its origin where uncorrectable,
dirty or in a register, a clean line or a table entry dropped, a core with a bad control store reset; existing POISON
counts nothing. A class action ends with ACTING 0, having disabled the way, queued the row, listed the page, retired
the subchannel, lane or core. Writes of CORE_OFF and LANE_RET act, or wait for an action of their unit. The SMBus
reads the CLK block, PWR_DOM_CTL, PWR_THERM and PWR_THROT, and 0 elsewhere. -/
def Obligations.ResetsAndFaults : Prop :=
  let coreReset := fun (t : State) (k : Nat) => (getCore t k).run = false ∧ (front t k).cells = []
  let counted := fun (u : Nat) (bad : Bool) (s t : State) => if bad = true
    then fget t fldFLT_CNT_UNCORRECTABLE u = min (fget s fldFLT_CNT_UNCORRECTABLE u + 1) (2 ^ 16 - 1)
    else fget t fldFLT_CNT_CORRECTED u = min (fget s fldFLT_CNT_CORRECTED u + 1) (2 ^ 40 - 1)
  (∀ s : State,
    let kept := fun (t : State) => t.pending = s.pending ∧ t.otp = s.otp ∧ t.outbound = s.outbound ∧
      t.mem = s.mem.filter (fun p => decide (p.1 < 0x4000000000 / 8)) ∧
      (∀ k, k < 64 → ∃ a b, getCore t k =
        { CoreState.atReset with front := { Ctx.atReset with key := a }, back := { Ctx.atReset with key := b } }) ∧
      fget t fldGLB_RST_STAT_TRIP 0 = s.tripped.toNat
    let fresh := fun (t : State) => { t with
      regs := State.reset.regs
      mem := State.reset.mem
      cores := State.reset.cores
      pending := []
      otp := State.reset.otp
      outbound := []
      encoders := State.reset.encoders
      abortN := State.reset.abortN
      draw := State.reset.draw
      tripped := State.reset.tripped } = State.reset
    Does .powerOnReset s (fun t => kept t ∧ fresh t ∧ t.tripped = false ∧ fget t fldGLB_RST_STAT_LAST 0 = 1 ∧
      ∀ r i, i < 65536 → r ≠ .GLB_RST_STAT → getReg t r i = regReset r i) ∧
    Does .pcieReset s (fun t => kept t ∧ fresh t ∧ t.tripped = s.tripped ∧ fget t fldGLB_RST_STAT_LAST 0 = 2 ∧
      ∀ r i, i < 65536 → r ≠ .GLB_RST_STAT →
        getReg t r i = if r.desc.scope = .powerOn then getReg s r i else regReset r i)) ∧
  (∀ (who : Agent) (value : BitVec 32) (s : State),
    let starts := pfOrK s who = true ∧ value.getLsbD 0 = true ∧ fget s fldGLB_RESET_PENDING 0 = 0
    let ready := fget s fldGLB_RESET_PENDING 0 = 1 ∧ fget s fldSEC_BOOT_STAT_STATE 0 ≠ btWarm ∧
      (∀ o, o < 64 → drvState s o ≠ drvRamping) ∧
      ∀ k, k < 64 → (getCore s k).run = false ∨ mbOf (front s k) = true ∨ cbOf (front s k) = false
    (¬ starts → exec (.warmResetRequest who value) s = .next s) ∧
    (starts → Does (.warmResetRequest who value) s (fun t => fget t fldGLB_RESET_PENDING 0 = 1 ∧ t.mem = s.mem ∧
      ∀ o, o < 64 → (drvState s o = drvArmed → drvState t o = drvRamping ∧ fget t fldDRV_OUT_STAT_CAUSE o = 3) ∧
        (drvState s o ≠ drvArmed → drvState t o = drvState s o))) ∧
    (¬ ready → exec .warmResetEffect s = .next s) ∧
    (ready → (∀ a ∈ s.faultActs, a.unit < 299) → Does .warmResetEffect s (fun t => fget t fldGLB_RST_STAT_LAST 0 = 3 ∧ fget t fldGLB_RESET_PENDING 0 = 1 ∧
      (∀ k, k < 64 → coreReset t k) ∧ (∀ p, p < 8 → fget t fldGLB_PART_CTL_STATE p = 0) ∧ t.lines = [] ∧ t.mail = [] ∧
      t.alarms = [] ∧ t.jobs = [] ∧ t.sources = [] ∧ t.units = [] ∧ (∀ a ∈ s.faultActs, a ∈ t.faultActs) ∧ t.dtime = s.dtime ∧ t.otp = s.otp ∧
      t.throttled = s.throttled ∧ (∀ d, d < 25 → getReg t .CLK_DOM_SEL d = getReg s .CLK_DOM_SEL d) ∧
      (∀ d, d < 30 → getReg t .PWR_DOM_CTL d = getReg s .PWR_DOM_CTL d) ∧
      (∀ g, s.boot.mcode = some g → fget t fldSEC_BOOT_STAT_STATE 0 =
        if sha (memBytes t larderBase 32768) = g.phash then btWarm else btFailed) ∧
      (s.boot.mcode = none → fget t fldSEC_BOOT_STAT_STATE 0 = btFailed)))) ∧
  (∀ (who : Agent) (cl : Fin 8) (value : BitVec 32) (s : State),
    let starts := isKeeper s who = true ∧ value.getLsbD 0 = true ∧ cl.val ≠ 0 ∧ fget s fldCLU_RESET_BUSY cl.val = 0 ∧
      fget s fldPWR_DOM_CTL_PST cl.val = 1
    let ready := fget s fldCLU_RESET_BUSY cl.val = 1 ∧ ∀ i, i < 8 → (getCore s (8 * cl.val + i)).run = false ∨
      mbOf (front s (8 * cl.val + i)) = true ∨ cbOf (front s (8 * cl.val + i)) = false
    (¬ starts → exec (.clusterReset who cl value) s = .next s) ∧
    (starts → Does (.clusterReset who cl value) s (fun t => fget t fldCLU_RESET_BUSY cl.val = 1 ∧
      OnlyRegs [(.CLU_RESET, cl.val)] s t ∧ t.cores = s.cores ∧ t.mem = s.mem)) ∧
    (¬ ready → exec (.clusterResetDone cl) s = .next s) ∧
    (ready → Does (.clusterResetDone cl) s (fun t => fget t fldCLU_RESET_BUSY cl.val = 0 ∧
      (∀ i, i < 8 → coreReset t (8 * cl.val + i) ∧ (getCore t (8 * cl.val + i)).mcver = (getCore s (8 * cl.val + i)).mcver ∧
        fget t fldCLU_CORE_EPOCH_EPOCH (8 * cl.val + i) = (fget s fldCLU_CORE_EPOCH_EPOCH (8 * cl.val + i) + 1) % 2 ^ 32) ∧
      ∀ e ∈ t.lines, e.cache ≠ 128 + cl.val))) ∧
  (∀ (bad : Bool) (s : State),
    let err := fun (site : EccSite) (P : State → Prop) => Does (.eccError site bad) s P
    let none' := fun (site : EccSite) => exec (.eccError site bad) s = .next s
    let cell := fun (site : EccSite) (k : CoreId) (get : State → Cell) => (get s = regPoison ∨ (get s).tag = tagPoison → none' site) ∧
      ((get s).tag ≠ tagPoison → err site (fun t => get t = (if bad = true then cellPoison 0x09 0 else get s) ∧
        counted k.val bad s t))
    let line := fun (site : EccSite) (c unit origin : Nat) (ln : BitVec 38) (i : Fin 8) =>
      let pa := ln.toNat * 64 + 8 * i.val
      (cacheFind s c ln.toNat = none → none' site) ∧
      (∀ e, cacheFind s c ln.toNat = some e → canonPa s pa = pa →
        ((memCell s pa).tag = tagPoison → none' site) ∧
        ((memCell s pa).tag ≠ tagPoison → err site (fun t => counted unit bad s t ∧ (bad = true →
          (e.dirty = false → cacheFind t c ln.toNat = none) ∧ (e.dirty = true → fget s fldFLT_LOGB_EN 0 = 0 →
            memCell t pa = cellPoison origin (ln.toNat * 64))))))
    let way := fun (c : Nat) (ln : BitVec 38) => (cacheFind s c ln.toNat).elim 0 (fun e => e.way)
    (∀ k fr i, cell (.reg k fr i) k (fun t => ctxCell (sideCtx t k.val fr) i.val)) ∧
    (∀ k fr i, cell (.cloak k fr i) k (fun t => sparseGet (fun _ => cellVoid) (sideCtx t k.val fr).ck i.val)) ∧
    (∀ k i, cell (.mantle k i) k (fun t => sparseGet (fun _ => cellVoid) (getCore t k.val).mantle i.val)) ∧
    (∀ k fr, cell (.latch k fr) k (fun t => (sideCtx t k.val fr).latch)) ∧
    (∀ k, err (.control k) (fun t => counted k.val bad s t ∧ (bad = true → coreReset t k.val))) ∧
    (∀ k ln, err (.l1i k ln) (fun t => counted k.val true s t ∧ cacheFind t (l1iOf k.val) ln.toNat = none)) ∧
    (∀ k ln i, line (.l1d k ln i) (l1dOf k.val) k.val 0x06 ln i) ∧
    (∀ c ln i, line (.l2 c ln i) (128 + c.val) (64 + 16 * c.val + way (128 + c.val) ln) 0x07 ln i) ∧
    (∀ ln i, line (.sc ln i) 136 (192 + way 136 ln) 0x08 ln i) ∧
    (∀ (k : CoreId) (n : Fin 6) (i : Nat), err (.entry k n i) (fun t => counted k.val true s t ∧
      (n.val = 0 → (getCore t k.val).itlb = (getCore s k.val).itlb.eraseIdx i) ∧
      (n.val = 1 → (getCore t k.val).dtlb = (getCore s k.val).dtlb.eraseIdx i) ∧
      (n.val = 2 → (getCore t k.val).l2tlb = (getCore s k.val).l2tlb.eraseIdx i) ∧
      (n.val = 3 → (getCore t k.val).walk1 = (getCore s k.val).walk1.eraseIdx i) ∧
      (n.val = 4 → (getCore t k.val).walk2 = (getCore s k.val).walk2.eraseIdx i) ∧
      (n.val = 5 → (getCore t k.val).products = (getCore s k.val).products.eraseIdx i))) ∧
    (∀ k n i, err (.predictor k n i) (fun t => t.regs = s.regs ∧ t.mem = s.mem)) ∧
    (∀ w, err (.directory w) (fun t => counted (192 + w.val) bad s t)) ∧
    (∀ ln cells, let pa := ln.toNat * 64
      (regionOf s pa ≠ .ddr → none' (.ddr ln cells)) ∧
      (regionOf s pa = .ddr → subRetired s pa = true → none' (.ddr ln cells)) ∧
      (regionOf s pa = .ddr → subRetired s pa = false → bad = false →
        err (.ddr ln cells) (fun t => counted (208 + subchannel s pa) false s t)) ∧
      (regionOf s pa = .ddr → subRetired s pa = false → bad = true → lineCached s ln.toNat = false →
        fget s fldFLT_LOGB_EN 0 = 0 → ∀ i : Fin 8, cells.getLsbD i.val = true → (memCell s (pa + 8 * i.val)).tag ≠ tagPoison →
        err (.ddr ln cells) (fun t => counted (208 + subchannel s pa) true s t ∧
          memCell t (pa + 8 * i.val) = cellPoison 0x01 pa))) ∧
    (∀ b i, let pa := bankAddr b.val i.val
      (bankOn s b.val = false ∨ (memCell s pa).tag = tagPoison → none' (.larder b i)) ∧
      (bankOn s b.val = true → (memCell s pa).tag ≠ tagPoison → err (.larder b i) (fun t => counted (216 + b.val) bad s t ∧
        (bad = true → fget s fldFLT_LOGB_EN 0 = 0 → memCell t pa = cellPoison 0x04 pa)))) ∧
    (∀ c, err (.unitTable c) (fun t => counted (290 + c.val) bad s t)) ∧
    err .mirror (fun t => counted 289 true s t) ∧
    (∀ ln cells, err (.fabric ln cells) (fun t => counted 289 bad s t ∧ (bad = true → fget s fldFLT_LOGB_EN 0 = 0 →
      ∀ i : Fin 8, cells.getLsbD i.val = true →
        memCell t (ln.toNat * 64 + 8 * i.val) = cellPoison 0x0A (ln.toNat * 64)))) ∧
    (∀ l, err (.lane l) (fun t => counted (280 + l.val) false s t)) ∧
    err .pcie (fun t => counted 288 bad s t)) ∧
  (∀ s : State,
    (s.faultActs = [] → exec .faultActionDone s = .next s) ∧
    (∀ a rest, s.faultActs = a :: rest →
      let waits := fget s fldGLB_RESET_PENDING 0 = 1 ∨ (a.cls = 0 ∧ fget s fldCLU_RESET_BUSY (a.unit / 8) = 1) ∨
        (a.cls = 1 ∧ fget s fldCLU_RESET_BUSY ((a.unit - 64) / 16) = 1) ∨
        (a.act = 6 ∧ a.unit ≠ 0 ∧ (getCore s a.unit).run = true ∧ mbOf (front s a.unit) = false ∧ cbOf (front s a.unit) = true)
      let ends := fun (P : State → Prop) => Does .faultActionDone s P
      (waits → exec .faultActionDone s = .next s) ∧
      (¬ waits → ends (fun t => t.faultActs = rest)) ∧
      (¬ waits → s.deferred = [] → a.unit < 299 → ends (fun t =>
        (a.cls ≠ 4 → fget t fldFLT_WSUM_ACTING a.unit = 0 ∧ fget t fldFLT_WSUM_S a.unit = 0) ∧
        (a.act = 1 → 64 ≤ a.unit → a.unit < 208 → (a.cls = 1 ↔ a.unit < 192) → wayDis t
          (if a.cls = 1 then 128 + (a.unit - 64) / 16 else 136) ((if a.cls = 1 then a.unit - 64 else a.unit - 192) % 16) = true) ∧
        (a.act = 2 → fget s fldLARD_BANK_CTL_DARN (a.unit - 216) = 1 → bankOn s (a.unit - 216) = true →
          (getBank t (a.unit - 216)).urgent = (getBank s (a.unit - 216)).urgent ++ [a.row]) ∧
        (a.act = 3 → ∀ i, i < 32 → (∀ j, j < i → fget s fldFLT_PAGE_V j = 1) → fget s fldFLT_PAGE_V i = 0 →
          fget t fldFLT_PAGE_V i = 1 ∧ fget t fldFLT_PAGE_PADDR i = a.pa / 4096 % 2 ^ 32) ∧
        (a.act = 4 → fget s fldMEM_STAT_SUBFAIL 0 = 0 → 208 ≤ a.unit → a.unit < 216 →
          fget t fldMEM_STAT_SUBFAIL 0 = 2 ^ (a.unit - 208)) ∧
        (a.act = 5 → 280 ≤ a.unit → a.unit < 288 → laneHeld s (a.unit - 280) = false →
          laneHeld t (a.unit - 280) = true ∧ laneState t (a.unit - 280) = laneFailed) ∧
        (a.act = 6 → 0 < a.unit → a.unit < 64 → coreReset t a.unit ∧ fget t fldCLU_CORE_PART_ASSIGNED a.unit = 0 ∧
          bitsOf (getReg t .FLT_CORE_OFF 0) a.unit a.unit = 1))))) ∧
  (∀ (who : Agent) (value : Word) (ret : BitVec 32) (s : State),
    let old := getReg s .FLT_CORE_OFF 0
    let held := s.faultActs.any (fun a => a.cls == 0 && bitOf value a.unit != bitOf old a.unit)
    let v := bitsOf (ret.zeroExtend 64) 7 0
    let was := fget s fldFLT_LANE_RET_RET 0
    let laneBusy := s.faultActs.any (fun a => a.cls == 6 &&
      bitOf (ret.zeroExtend 64) (a.unit - 280) != bitOf (getReg s .FLT_LANE_RET 0) (a.unit - 280))
    (isKeeper s who = false → exec (.fltCoreOffWrite who value) s = .next s ∧ exec (.fltLaneRetWrite who ret) s = .next s) ∧
    (isKeeper s who = true → held = true → exec (.fltCoreOffWrite who value) s =
      .next { s with deferred := s.deferred ++ [(2, 0, value)] }) ∧
    (isKeeper s who = true → held = false → Does (.fltCoreOffWrite who value) s (fun t =>
      (getReg t .FLT_CORE_OFF 0).toNat = value.toNat / 2 * 2 ∧
      ∀ k, 0 < k → k < 64 → value.getLsbD k = true → old.getLsbD k = false →
        coreReset t k ∧ fget t fldCLU_CORE_PART_ASSIGNED k = 0)) ∧
    (isKeeper s who = true → laneBusy = true → exec (.fltLaneRetWrite who ret) s =
      .next { s with deferred := s.deferred ++ [(3, 0, ret.zeroExtend 64)] }) ∧
    (isKeeper s who = true → laneBusy = false → Does (.fltLaneRetWrite who ret) s (fun t =>
      fget t fldFLT_LANE_RET_RET 0 = v ∧ ∀ l, l < 8 →
        (nbits v l l = nbits was l l → laneState t l = laneState s l) ∧
        (nbits v l l = 1 → nbits was l l = 0 → laneState t l = laneFailed) ∧
        (nbits v l l = 0 → nbits was l l = 1 → laneState t l =
          if fget s fldSFL_LANE_CTL_EN l = 1 ∧ fget s fldPWR_DOM_CTL_PST (24 + l / 4) = 1 then laneSeek else laneOff)))) ∧
  (∀ (off : BitVec 32) (s : State),
    let smb := [Reg.CLK_STAT, .CLK_CTL, .CLK_ADM_PIN, .CLK_PLL_CFG, .CLK_PLL_SS, .CLK_DOM_SEL, .PWR_DOM_CTL, .PWR_THERM,
      .PWR_THROT]
    Does (.smbusTransaction off) s (fun t => t = { s with smbus := t.smbus } ∧
    (∀ r i b, regAt off.toNat = some (r, i, b) → off.toNat % 4 = 0 →
      r ∈ smb → bytesLe t.smbus = (regView s r i).toNat / 2 ^ (8 * b) % 2 ^ 32) ∧
    (∀ r i b, regAt off.toNat = some (r, i, b) → off.toNat % 4 ≠ 0 ∨ r ∉ smb → t.smbus = [0, 0, 0, 0]) ∧
    (regAt off.toNat = none → t.smbus = [0, 0, 0, 0])))
end

