-- ==== Sys2Proof/Laws/Sparse.lean ====
section
/-!
SUPPORT. Laws/Sparse.lean: a read after a write of data held by key, and that a write keeps the canonical form.
-/

namespace Sys2Proof.Machine

variable {α : Type}

/-! ### Reads after writes -/

/-- A record written is read back. -/
@[simp] theorem sparseGet_recPut_same (d : Nat → α) (k : Nat) (v : α) :
    ∀ m : Sparse α, sparseGet d (recPut k v m) k = v
  | [] => by simp [recPut, sparseGet]
  | (k', v') :: m => by
    unfold recPut
    split
    · simp [sparseGet]
    · split
      · simp [sparseGet]
      · rename_i hk
        rw [sparseGet, if_neg hk]
        exact sparseGet_recPut_same d k v m

/-- A record written leaves the others alone. -/
theorem sparseGet_recPut_ne (d : Nat → α) (k j : Nat) (v : α) (h : j ≠ k) :
    ∀ m : Sparse α, sparseGet d (recPut k v m) j = sparseGet d m j
  | [] => by simp [recPut, sparseGet, h]
  | (k', v') :: m => by
    unfold recPut
    split
    · simp [sparseGet, h]
    · split
      · rename_i hk
        subst hk
        simp [sparseGet, h]
      · simp only [sparseGet]
        split
        · rfl
        · exact sparseGet_recPut_ne d k j v h m

theorem sparseGet_filter_same (d : Nat → α) (k : Nat) :
    ∀ m : Sparse α, sparseGet d (m.filter (fun p => p.1 != k)) k = d k
  | [] => rfl
  | (k', v') :: m => by
    rw [List.filter_cons]
    split
    · rename_i h
      have : k ≠ k' := fun e => by simp [e] at h
      rw [sparseGet, if_neg this]
      exact sparseGet_filter_same d k m
    · exact sparseGet_filter_same d k m

theorem sparseGet_filter_ne (d : Nat → α) (k j : Nat) (h : j ≠ k) :
    ∀ m : Sparse α, sparseGet d (m.filter (fun p => p.1 != k)) j = sparseGet d m j
  | [] => rfl
  | (k', v') :: m => by
    rw [List.filter_cons]
    split
    · simp only [sparseGet]
      split
      · rfl
      · exact sparseGet_filter_ne d k j h m
    · rename_i hk
      have e : k' = k := by simpa using hk
      have : j ≠ k' := by rw [e]; exact h
      rw [sparseGet, if_neg this]
      exact sparseGet_filter_ne d k j h m

/-- A write is read back. -/
@[simp] theorem sparseGet_put_same [DecidableEq α] (d : Nat → α) (k : Nat) (v : α) (m : Sparse α) :
    sparseGet d (sparsePut d k v m) k = v := by
  unfold sparsePut
  split
  · rename_i h
    rw [sparseGet_filter_same, h]
  · exact sparseGet_recPut_same d k v m

/-- A write leaves every other key alone. -/
theorem sparseGet_put_ne [DecidableEq α] (d : Nat → α) (k j : Nat) (v : α) (h : j ≠ k) (m : Sparse α) :
    sparseGet d (sparsePut d k v m) j = sparseGet d m j := by
  unfold sparsePut
  split
  · exact sparseGet_filter_ne d k j h m
  · exact sparseGet_recPut_ne d k j v h m

/-! ### The canonical form -/

/-- A list sorted above a key is sorted above a lower one. -/
theorem sparseSorted_mono {a b : Nat} (h : a ≤ b) :
    ∀ {m : Sparse α}, sparseSorted (some b) m = true → sparseSorted (some a) m = true
  | [], _ => rfl
  | (k, _) :: m, hm => by
    simp only [sparseSorted, Bool.and_eq_true, decide_eq_true_eq] at hm ⊢
    exact ⟨by omega, hm.2⟩

theorem sparseSorted_none_of_some {a : Nat} :
    ∀ {m : Sparse α}, sparseSorted (some a) m = true → sparseSorted none m = true
  | [], _ => rfl
  | (k, _) :: m, hm => by
    simp only [sparseSorted, Bool.and_eq_true, decide_eq_true_eq] at hm ⊢
    exact hm.2

theorem recPut_sorted (k : Nat) (v : α) :
    ∀ (b : Option Nat) (m : Sparse α), (∀ a, b = some a → a < k) → sparseSorted b m = true →
      sparseSorted b (recPut k v m) = true
  | b, [], hb, _ => by
    cases b with
    | none => rfl
    | some a => simp [recPut, sparseSorted, hb a rfl]
  | b, (k', v') :: m, hb, hm => by
    have hm' : sparseSorted (some k') m = true := by
      cases b <;> simp_all [sparseSorted]
    have hb' : ∀ a, b = some a → a < k' := by
      intro a ha
      subst ha
      simp_all [sparseSorted]
    unfold recPut
    split
    · cases b with
      | none => simp [sparseSorted, *]
      | some a => simp [sparseSorted, *]
    · split
      · rename_i hk
        subst hk
        cases b with
        | none => simpa [sparseSorted] using hm'
        | some a => simp [sparseSorted, hm', hb a rfl]
      · have ih := recPut_sorted k v (some k') m (by intro a ha; cases ha; omega) hm'
        cases b with
        | none => simpa [sparseSorted] using ih
        | some a => simp [sparseSorted, ih, hb' a rfl]

theorem recPut_all (p : Nat × α → Bool) (k : Nat) (v : α) (hv : p (k, v) = true) :
    ∀ m : Sparse α, m.all p = true → (recPut k v m).all p = true
  | [], _ => by simp [recPut, hv]
  | (k', v') :: m, h => by
    simp only [List.all_cons, Bool.and_eq_true] at h
    unfold recPut
    split
    · simp [hv, h]
    · split
      · simp [hv, h]
      · simp [h.1, recPut_all p k v hv m h.2]

theorem sparseSorted_filter (p : Nat × α → Bool) :
    ∀ (b : Option Nat) (m : Sparse α), sparseSorted b m = true → sparseSorted b (m.filter p) = true
  | b, [], _ => by cases b <;> rfl
  | b, (k, v) :: m, h => by
    have hm : sparseSorted (some k) m = true := by
      cases b <;> simp_all [sparseSorted]
    have ih := sparseSorted_filter p (some k) m hm
    rw [List.filter_cons]
    split
    · cases b with
      | none => simpa [sparseSorted] using ih
      | some a => simp_all [sparseSorted]
    · cases b with
      | none => exact sparseSorted_none_of_some ih
      | some a =>
        simp only [sparseSorted, Bool.and_eq_true, decide_eq_true_eq] at h
        exact sparseSorted_mono (Nat.le_of_lt h.1) ih

/-- Removing entries keeps the canonical form. -/
theorem sparseWf_filter [DecidableEq α] (d : Nat → α) (p : Nat × α → Bool) (m : Sparse α) (h : sparseWf d m = true) :
    sparseWf d (m.filter p) = true := by
  simp only [sparseWf, Bool.and_eq_true] at h ⊢
  refine ⟨sparseSorted_filter p none m h.1, ?_⟩
  rw [List.all_eq_true] at h ⊢
  intro x hx
  exact h.2 x (List.mem_filter.mp hx).1

/-- A write keeps the canonical form. -/
theorem sparsePut_wf [DecidableEq α] (d : Nat → α) (k : Nat) (v : α) (m : Sparse α) (h : sparseWf d m = true) :
    sparseWf d (sparsePut d k v m) = true := by
  unfold sparsePut
  split
  · exact sparseWf_filter d _ m h
  · rename_i hv
    simp only [sparseWf, Bool.and_eq_true] at h ⊢
    exact ⟨recPut_sorted k v none m (by intro a ha; cases ha) h.1,
      recPut_all (fun p => decide (p.2 ≠ d p.1)) k v (by simpa using hv) m h.2⟩

end Sys2Proof.Machine
end

