-- ==== Sys2Proof/Laws/State.lean ====
section
/-!
SUPPORT. Laws/State.lean: each shared update of the state leaves every other field alone, one lemma per field per update;
and what registers, cores and contexts read after a write of one of them.
-/

namespace Sys2Proof.Machine

/-! ### setReg: a register takes a value -/

/-- Only the register map changes (stated as an equation, so that no lemma below compares register maps). -/
theorem setReg_eq (r : Reg) (i : Nat) (v : Word) (s : State) :
    setReg r i v s = { s with regs := sparsePut regDefault (regKey r i) v s.regs } := rfl

@[simp] theorem setReg_pending (r : Reg) (i : Nat) (v : Word) (s : State) : (setReg r i v s).pending = s.pending := by rw [setReg_eq]
@[simp] theorem setReg_phaseCycles (r : Reg) (i : Nat) (v : Word) (s : State) : (setReg r i v s).phaseCycles = s.phaseCycles := by rw [setReg_eq]
@[simp] theorem setReg_dtime (r : Reg) (i : Nat) (v : Word) (s : State) : (setReg r i v s).dtime = s.dtime := by rw [setReg_eq]
@[simp] theorem setReg_mem (r : Reg) (i : Nat) (v : Word) (s : State) : (setReg r i v s).mem = s.mem := by rw [setReg_eq]
@[simp] theorem setReg_under (r : Reg) (i : Nat) (v : Word) (s : State) : (setReg r i v s).under = s.under := by rw [setReg_eq]
@[simp] theorem setReg_lines (r : Reg) (i : Nat) (v : Word) (s : State) : (setReg r i v s).lines = s.lines := by rw [setReg_eq]
@[simp] theorem setReg_plru (r : Reg) (i : Nat) (v : Word) (s : State) : (setReg r i v s).plru = s.plru := by rw [setReg_eq]
@[simp] theorem setReg_sweeps (r : Reg) (i : Nat) (v : Word) (s : State) : (setReg r i v s).sweeps = s.sweeps := by rw [setReg_eq]
@[simp] theorem setReg_larder (r : Reg) (i : Nat) (v : Word) (s : State) : (setReg r i v s).larder = s.larder := by rw [setReg_eq]
@[simp] theorem setReg_cores (r : Reg) (i : Nat) (v : Word) (s : State) : (setReg r i v s).cores = s.cores := by rw [setReg_eq]
@[simp] theorem setReg_units (r : Reg) (i : Nat) (v : Word) (s : State) : (setReg r i v s).units = s.units := by rw [setReg_eq]
@[simp] theorem setReg_mail (r : Reg) (i : Nat) (v : Word) (s : State) : (setReg r i v s).mail = s.mail := by rw [setReg_eq]
@[simp] theorem setReg_readySeq (r : Reg) (i : Nat) (v : Word) (s : State) : (setReg r i v s).readySeq = s.readySeq := by rw [setReg_eq]
@[simp] theorem setReg_cursors (r : Reg) (i : Nat) (v : Word) (s : State) : (setReg r i v s).cursors = s.cursors := by rw [setReg_eq]
@[simp] theorem setReg_seq (r : Reg) (i : Nat) (v : Word) (s : State) : (setReg r i v s).seq = s.seq := by rw [setReg_eq]
@[simp] theorem setReg_buckets (r : Reg) (i : Nat) (v : Word) (s : State) : (setReg r i v s).buckets = s.buckets := by rw [setReg_eq]
@[simp] theorem setReg_pages (r : Reg) (i : Nat) (v : Word) (s : State) : (setReg r i v s).pages = s.pages := by rw [setReg_eq]
@[simp] theorem setReg_faultActs (r : Reg) (i : Nat) (v : Word) (s : State) : (setReg r i v s).faultActs = s.faultActs := by rw [setReg_eq]
@[simp] theorem setReg_fabricTlb (r : Reg) (i : Nat) (v : Word) (s : State) : (setReg r i v s).fabricTlb = s.fabricTlb := by rw [setReg_eq]
@[simp] theorem setReg_fabricLru (r : Reg) (i : Nat) (v : Word) (s : State) : (setReg r i v s).fabricLru = s.fabricLru := by rw [setReg_eq]
@[simp] theorem setReg_racks (r : Reg) (i : Nat) (v : Word) (s : State) : (setReg r i v s).racks = s.racks := by rw [setReg_eq]
@[simp] theorem setReg_laundry (r : Reg) (i : Nat) (v : Word) (s : State) : (setReg r i v s).laundry = s.laundry := by rw [setReg_eq]
@[simp] theorem setReg_markq (r : Reg) (i : Nat) (v : Word) (s : State) : (setReg r i v s).markq = s.markq := by rw [setReg_eq]
@[simp] theorem setReg_sources (r : Reg) (i : Nat) (v : Word) (s : State) : (setReg r i v s).sources = s.sources := by rw [setReg_eq]
@[simp] theorem setReg_encoders (r : Reg) (i : Nat) (v : Word) (s : State) : (setReg r i v s).encoders = s.encoders := by rw [setReg_eq]
@[simp] theorem setReg_mainsAt (r : Reg) (i : Nat) (v : Word) (s : State) : (setReg r i v s).mainsAt = s.mainsAt := by rw [setReg_eq]
@[simp] theorem setReg_syncAt (r : Reg) (i : Nat) (v : Word) (s : State) : (setReg r i v s).syncAt = s.syncAt := by rw [setReg_eq]
@[simp] theorem setReg_syncGap (r : Reg) (i : Nat) (v : Word) (s : State) : (setReg r i v s).syncGap = s.syncGap := by rw [setReg_eq]
@[simp] theorem setReg_dtRate (r : Reg) (i : Nat) (v : Word) (s : State) : (setReg r i v s).dtRate = s.dtRate := by rw [setReg_eq]
@[simp] theorem setReg_dtSteered (r : Reg) (i : Nat) (v : Word) (s : State) : (setReg r i v s).dtSteered = s.dtSteered := by rw [setReg_eq]
@[simp] theorem setReg_alarms (r : Reg) (i : Nat) (v : Word) (s : State) : (setReg r i v s).alarms = s.alarms := by rw [setReg_eq]
@[simp] theorem setReg_fences (r : Reg) (i : Nat) (v : Word) (s : State) : (setReg r i v s).fences = s.fences := by rw [setReg_eq]
@[simp] theorem setReg_syncBusy (r : Reg) (i : Nat) (v : Word) (s : State) : (setReg r i v s).syncBusy = s.syncBusy := by rw [setReg_eq]
@[simp] theorem setReg_drives (r : Reg) (i : Nat) (v : Word) (s : State) : (setReg r i v s).drives = s.drives := by rw [setReg_eq]
@[simp] theorem setReg_abortN (r : Reg) (i : Nat) (v : Word) (s : State) : (setReg r i v s).abortN = s.abortN := by rw [setReg_eq]
@[simp] theorem setReg_jobs (r : Reg) (i : Nat) (v : Word) (s : State) : (setReg r i v s).jobs = s.jobs := by rw [setReg_eq]
@[simp] theorem setReg_lanes (r : Reg) (i : Nat) (v : Word) (s : State) : (setReg r i v s).lanes = s.lanes := by rw [setReg_eq]
@[simp] theorem setReg_links (r : Reg) (i : Nat) (v : Word) (s : State) : (setReg r i v s).links = s.links := by rw [setReg_eq]
@[simp] theorem setReg_channels (r : Reg) (i : Nat) (v : Word) (s : State) : (setReg r i v s).channels = s.channels := by rw [setReg_eq]
@[simp] theorem setReg_hostFns (r : Reg) (i : Nat) (v : Word) (s : State) : (setReg r i v s).hostFns = s.hostFns := by rw [setReg_eq]
@[simp] theorem setReg_cmds (r : Reg) (i : Nat) (v : Word) (s : State) : (setReg r i v s).cmds = s.cmds := by rw [setReg_eq]
@[simp] theorem setReg_journal (r : Reg) (i : Nat) (v : Word) (s : State) : (setReg r i v s).journal = s.journal := by rw [setReg_eq]
@[simp] theorem setReg_records (r : Reg) (i : Nat) (v : Word) (s : State) : (setReg r i v s).records = s.records := by rw [setReg_eq]
@[simp] theorem setReg_exports (r : Reg) (i : Nat) (v : Word) (s : State) : (setReg r i v s).exports = s.exports := by rw [setReg_eq]
@[simp] theorem setReg_outbound (r : Reg) (i : Nat) (v : Word) (s : State) : (setReg r i v s).outbound = s.outbound := by rw [setReg_eq]
@[simp] theorem setReg_overran (r : Reg) (i : Nat) (v : Word) (s : State) : (setReg r i v s).overran = s.overran := by rw [setReg_eq]
@[simp] theorem setReg_activations (r : Reg) (i : Nat) (v : Word) (s : State) : (setReg r i v s).activations = s.activations := by rw [setReg_eq]
@[simp] theorem setReg_admAt (r : Reg) (i : Nat) (v : Word) (s : State) : (setReg r i v s).admAt = s.admAt := by rw [setReg_eq]
@[simp] theorem setReg_dynAt (r : Reg) (i : Nat) (v : Word) (s : State) : (setReg r i v s).dynAt = s.dynAt := by rw [setReg_eq]
@[simp] theorem setReg_clkBad (r : Reg) (i : Nat) (v : Word) (s : State) : (setReg r i v s).clkBad = s.clkBad := by rw [setReg_eq]
@[simp] theorem setReg_locking (r : Reg) (i : Nat) (v : Word) (s : State) : (setReg r i v s).locking = s.locking := by rw [setReg_eq]
@[simp] theorem setReg_switching (r : Reg) (i : Nat) (v : Word) (s : State) : (setReg r i v s).switching = s.switching := by rw [setReg_eq]
@[simp] theorem setReg_throttled (r : Reg) (i : Nat) (v : Word) (s : State) : (setReg r i v s).throttled = s.throttled := by rw [setReg_eq]
@[simp] theorem setReg_cool (r : Reg) (i : Nat) (v : Word) (s : State) : (setReg r i v s).cool = s.cool := by rw [setReg_eq]
@[simp] theorem setReg_memRecal (r : Reg) (i : Nat) (v : Word) (s : State) : (setReg r i v s).memRecal = s.memRecal := by rw [setReg_eq]
@[simp] theorem setReg_skews (r : Reg) (i : Nat) (v : Word) (s : State) : (setReg r i v s).skews = s.skews := by rw [setReg_eq]
@[simp] theorem setReg_skewAt (r : Reg) (i : Nat) (v : Word) (s : State) : (setReg r i v s).skewAt = s.skewAt := by rw [setReg_eq]
@[simp] theorem setReg_lardSkews (r : Reg) (i : Nat) (v : Word) (s : State) : (setReg r i v s).lardSkews = s.lardSkews := by rw [setReg_eq]
@[simp] theorem setReg_lardSkewAt (r : Reg) (i : Nat) (v : Word) (s : State) : (setReg r i v s).lardSkewAt = s.lardSkewAt := by rw [setReg_eq]
@[simp] theorem setReg_deferred (r : Reg) (i : Nat) (v : Word) (s : State) : (setReg r i v s).deferred = s.deferred := by rw [setReg_eq]
@[simp] theorem setReg_otp (r : Reg) (i : Nat) (v : Word) (s : State) : (setReg r i v s).otp = s.otp := by rw [setReg_eq]
@[simp] theorem setReg_boot (r : Reg) (i : Nat) (v : Word) (s : State) : (setReg r i v s).boot = s.boot := by rw [setReg_eq]
@[simp] theorem setReg_smbus (r : Reg) (i : Nat) (v : Word) (s : State) : (setReg r i v s).smbus = s.smbus := by rw [setReg_eq]
@[simp] theorem setReg_tripped (r : Reg) (i : Nat) (v : Word) (s : State) : (setReg r i v s).tripped = s.tripped := by rw [setReg_eq]
@[simp] theorem setReg_moving (r : Reg) (i : Nat) (v : Word) (s : State) : (setReg r i v s).moving = s.moving := by rw [setReg_eq]
@[simp] theorem setReg_hostHalf (r : Reg) (i : Nat) (v : Word) (s : State) : (setReg r i v s).hostHalf = s.hostHalf := by rw [setReg_eq]
@[simp] theorem setReg_readData (r : Reg) (i : Nat) (v : Word) (s : State) : (setReg r i v s).readData = s.readData := by rw [setReg_eq]
@[simp] theorem setReg_status (r : Reg) (i : Nat) (v : Word) (s : State) : (setReg r i v s).status = s.status := by rw [setReg_eq]
@[simp] theorem setReg_postCode (r : Reg) (i : Nat) (v : Word) (s : State) : (setReg r i v s).postCode = s.postCode := by rw [setReg_eq]
@[simp] theorem setReg_draw (r : Reg) (i : Nat) (v : Word) (s : State) : (setReg r i v s).draw = s.draw := by rw [setReg_eq]

/-! ### fset: a field of a register takes a value -/

@[simp] theorem fset_pending (f : Fld) (i v : Nat) (s : State) : (fset f i v s).pending = s.pending := setReg_pending _ _ _ _
@[simp] theorem fset_phaseCycles (f : Fld) (i v : Nat) (s : State) : (fset f i v s).phaseCycles = s.phaseCycles := setReg_phaseCycles _ _ _ _
@[simp] theorem fset_dtime (f : Fld) (i v : Nat) (s : State) : (fset f i v s).dtime = s.dtime := setReg_dtime _ _ _ _
@[simp] theorem fset_mem (f : Fld) (i v : Nat) (s : State) : (fset f i v s).mem = s.mem := setReg_mem _ _ _ _
@[simp] theorem fset_under (f : Fld) (i v : Nat) (s : State) : (fset f i v s).under = s.under := setReg_under _ _ _ _
@[simp] theorem fset_lines (f : Fld) (i v : Nat) (s : State) : (fset f i v s).lines = s.lines := setReg_lines _ _ _ _
@[simp] theorem fset_plru (f : Fld) (i v : Nat) (s : State) : (fset f i v s).plru = s.plru := setReg_plru _ _ _ _
@[simp] theorem fset_sweeps (f : Fld) (i v : Nat) (s : State) : (fset f i v s).sweeps = s.sweeps := setReg_sweeps _ _ _ _
@[simp] theorem fset_larder (f : Fld) (i v : Nat) (s : State) : (fset f i v s).larder = s.larder := setReg_larder _ _ _ _
@[simp] theorem fset_cores (f : Fld) (i v : Nat) (s : State) : (fset f i v s).cores = s.cores := setReg_cores _ _ _ _
@[simp] theorem fset_units (f : Fld) (i v : Nat) (s : State) : (fset f i v s).units = s.units := setReg_units _ _ _ _
@[simp] theorem fset_mail (f : Fld) (i v : Nat) (s : State) : (fset f i v s).mail = s.mail := setReg_mail _ _ _ _
@[simp] theorem fset_readySeq (f : Fld) (i v : Nat) (s : State) : (fset f i v s).readySeq = s.readySeq := setReg_readySeq _ _ _ _
@[simp] theorem fset_cursors (f : Fld) (i v : Nat) (s : State) : (fset f i v s).cursors = s.cursors := setReg_cursors _ _ _ _
@[simp] theorem fset_seq (f : Fld) (i v : Nat) (s : State) : (fset f i v s).seq = s.seq := setReg_seq _ _ _ _
@[simp] theorem fset_buckets (f : Fld) (i v : Nat) (s : State) : (fset f i v s).buckets = s.buckets := setReg_buckets _ _ _ _
@[simp] theorem fset_pages (f : Fld) (i v : Nat) (s : State) : (fset f i v s).pages = s.pages := setReg_pages _ _ _ _
@[simp] theorem fset_faultActs (f : Fld) (i v : Nat) (s : State) : (fset f i v s).faultActs = s.faultActs := setReg_faultActs _ _ _ _
@[simp] theorem fset_fabricTlb (f : Fld) (i v : Nat) (s : State) : (fset f i v s).fabricTlb = s.fabricTlb := setReg_fabricTlb _ _ _ _
@[simp] theorem fset_fabricLru (f : Fld) (i v : Nat) (s : State) : (fset f i v s).fabricLru = s.fabricLru := setReg_fabricLru _ _ _ _
@[simp] theorem fset_racks (f : Fld) (i v : Nat) (s : State) : (fset f i v s).racks = s.racks := setReg_racks _ _ _ _
@[simp] theorem fset_laundry (f : Fld) (i v : Nat) (s : State) : (fset f i v s).laundry = s.laundry := setReg_laundry _ _ _ _
@[simp] theorem fset_markq (f : Fld) (i v : Nat) (s : State) : (fset f i v s).markq = s.markq := setReg_markq _ _ _ _
@[simp] theorem fset_sources (f : Fld) (i v : Nat) (s : State) : (fset f i v s).sources = s.sources := setReg_sources _ _ _ _
@[simp] theorem fset_encoders (f : Fld) (i v : Nat) (s : State) : (fset f i v s).encoders = s.encoders := setReg_encoders _ _ _ _
@[simp] theorem fset_mainsAt (f : Fld) (i v : Nat) (s : State) : (fset f i v s).mainsAt = s.mainsAt := setReg_mainsAt _ _ _ _
@[simp] theorem fset_syncAt (f : Fld) (i v : Nat) (s : State) : (fset f i v s).syncAt = s.syncAt := setReg_syncAt _ _ _ _
@[simp] theorem fset_syncGap (f : Fld) (i v : Nat) (s : State) : (fset f i v s).syncGap = s.syncGap := setReg_syncGap _ _ _ _
@[simp] theorem fset_dtRate (f : Fld) (i v : Nat) (s : State) : (fset f i v s).dtRate = s.dtRate := setReg_dtRate _ _ _ _
@[simp] theorem fset_dtSteered (f : Fld) (i v : Nat) (s : State) : (fset f i v s).dtSteered = s.dtSteered := setReg_dtSteered _ _ _ _
@[simp] theorem fset_alarms (f : Fld) (i v : Nat) (s : State) : (fset f i v s).alarms = s.alarms := setReg_alarms _ _ _ _
@[simp] theorem fset_fences (f : Fld) (i v : Nat) (s : State) : (fset f i v s).fences = s.fences := setReg_fences _ _ _ _
@[simp] theorem fset_syncBusy (f : Fld) (i v : Nat) (s : State) : (fset f i v s).syncBusy = s.syncBusy := setReg_syncBusy _ _ _ _
@[simp] theorem fset_drives (f : Fld) (i v : Nat) (s : State) : (fset f i v s).drives = s.drives := setReg_drives _ _ _ _
@[simp] theorem fset_abortN (f : Fld) (i v : Nat) (s : State) : (fset f i v s).abortN = s.abortN := setReg_abortN _ _ _ _
@[simp] theorem fset_jobs (f : Fld) (i v : Nat) (s : State) : (fset f i v s).jobs = s.jobs := setReg_jobs _ _ _ _
@[simp] theorem fset_lanes (f : Fld) (i v : Nat) (s : State) : (fset f i v s).lanes = s.lanes := setReg_lanes _ _ _ _
@[simp] theorem fset_links (f : Fld) (i v : Nat) (s : State) : (fset f i v s).links = s.links := setReg_links _ _ _ _
@[simp] theorem fset_channels (f : Fld) (i v : Nat) (s : State) : (fset f i v s).channels = s.channels := setReg_channels _ _ _ _
@[simp] theorem fset_hostFns (f : Fld) (i v : Nat) (s : State) : (fset f i v s).hostFns = s.hostFns := setReg_hostFns _ _ _ _
@[simp] theorem fset_cmds (f : Fld) (i v : Nat) (s : State) : (fset f i v s).cmds = s.cmds := setReg_cmds _ _ _ _
@[simp] theorem fset_journal (f : Fld) (i v : Nat) (s : State) : (fset f i v s).journal = s.journal := setReg_journal _ _ _ _
@[simp] theorem fset_records (f : Fld) (i v : Nat) (s : State) : (fset f i v s).records = s.records := setReg_records _ _ _ _
@[simp] theorem fset_exports (f : Fld) (i v : Nat) (s : State) : (fset f i v s).exports = s.exports := setReg_exports _ _ _ _
@[simp] theorem fset_outbound (f : Fld) (i v : Nat) (s : State) : (fset f i v s).outbound = s.outbound := setReg_outbound _ _ _ _
@[simp] theorem fset_overran (f : Fld) (i v : Nat) (s : State) : (fset f i v s).overran = s.overran := setReg_overran _ _ _ _
@[simp] theorem fset_activations (f : Fld) (i v : Nat) (s : State) : (fset f i v s).activations = s.activations := setReg_activations _ _ _ _
@[simp] theorem fset_admAt (f : Fld) (i v : Nat) (s : State) : (fset f i v s).admAt = s.admAt := setReg_admAt _ _ _ _
@[simp] theorem fset_dynAt (f : Fld) (i v : Nat) (s : State) : (fset f i v s).dynAt = s.dynAt := setReg_dynAt _ _ _ _
@[simp] theorem fset_clkBad (f : Fld) (i v : Nat) (s : State) : (fset f i v s).clkBad = s.clkBad := setReg_clkBad _ _ _ _
@[simp] theorem fset_locking (f : Fld) (i v : Nat) (s : State) : (fset f i v s).locking = s.locking := setReg_locking _ _ _ _
@[simp] theorem fset_switching (f : Fld) (i v : Nat) (s : State) : (fset f i v s).switching = s.switching := setReg_switching _ _ _ _
@[simp] theorem fset_throttled (f : Fld) (i v : Nat) (s : State) : (fset f i v s).throttled = s.throttled := setReg_throttled _ _ _ _
@[simp] theorem fset_cool (f : Fld) (i v : Nat) (s : State) : (fset f i v s).cool = s.cool := setReg_cool _ _ _ _
@[simp] theorem fset_memRecal (f : Fld) (i v : Nat) (s : State) : (fset f i v s).memRecal = s.memRecal := setReg_memRecal _ _ _ _
@[simp] theorem fset_skews (f : Fld) (i v : Nat) (s : State) : (fset f i v s).skews = s.skews := setReg_skews _ _ _ _
@[simp] theorem fset_skewAt (f : Fld) (i v : Nat) (s : State) : (fset f i v s).skewAt = s.skewAt := setReg_skewAt _ _ _ _
@[simp] theorem fset_lardSkews (f : Fld) (i v : Nat) (s : State) : (fset f i v s).lardSkews = s.lardSkews := setReg_lardSkews _ _ _ _
@[simp] theorem fset_lardSkewAt (f : Fld) (i v : Nat) (s : State) : (fset f i v s).lardSkewAt = s.lardSkewAt := setReg_lardSkewAt _ _ _ _
@[simp] theorem fset_deferred (f : Fld) (i v : Nat) (s : State) : (fset f i v s).deferred = s.deferred := setReg_deferred _ _ _ _
@[simp] theorem fset_otp (f : Fld) (i v : Nat) (s : State) : (fset f i v s).otp = s.otp := setReg_otp _ _ _ _
@[simp] theorem fset_boot (f : Fld) (i v : Nat) (s : State) : (fset f i v s).boot = s.boot := setReg_boot _ _ _ _
@[simp] theorem fset_smbus (f : Fld) (i v : Nat) (s : State) : (fset f i v s).smbus = s.smbus := setReg_smbus _ _ _ _
@[simp] theorem fset_tripped (f : Fld) (i v : Nat) (s : State) : (fset f i v s).tripped = s.tripped := setReg_tripped _ _ _ _
@[simp] theorem fset_moving (f : Fld) (i v : Nat) (s : State) : (fset f i v s).moving = s.moving := setReg_moving _ _ _ _
@[simp] theorem fset_hostHalf (f : Fld) (i v : Nat) (s : State) : (fset f i v s).hostHalf = s.hostHalf := setReg_hostHalf _ _ _ _
@[simp] theorem fset_readData (f : Fld) (i v : Nat) (s : State) : (fset f i v s).readData = s.readData := setReg_readData _ _ _ _
@[simp] theorem fset_status (f : Fld) (i v : Nat) (s : State) : (fset f i v s).status = s.status := setReg_status _ _ _ _
@[simp] theorem fset_postCode (f : Fld) (i v : Nat) (s : State) : (fset f i v s).postCode = s.postCode := setReg_postCode _ _ _ _
@[simp] theorem fset_draw (f : Fld) (i v : Nat) (s : State) : (fset f i v s).draw = s.draw := setReg_draw _ _ _ _

/-! ### setCore: a core is replaced -/

@[simp] theorem setCore_pending (k : Nat) (c : CoreState) (s : State) : (setCore k c s).pending = s.pending := rfl
@[simp] theorem setCore_phaseCycles (k : Nat) (c : CoreState) (s : State) : (setCore k c s).phaseCycles = s.phaseCycles := rfl
@[simp] theorem setCore_dtime (k : Nat) (c : CoreState) (s : State) : (setCore k c s).dtime = s.dtime := rfl
@[simp] theorem setCore_regs (k : Nat) (c : CoreState) (s : State) : (setCore k c s).regs = s.regs := rfl
@[simp] theorem setCore_mem (k : Nat) (c : CoreState) (s : State) : (setCore k c s).mem = s.mem := rfl
@[simp] theorem setCore_under (k : Nat) (c : CoreState) (s : State) : (setCore k c s).under = s.under := rfl
@[simp] theorem setCore_lines (k : Nat) (c : CoreState) (s : State) : (setCore k c s).lines = s.lines := rfl
@[simp] theorem setCore_plru (k : Nat) (c : CoreState) (s : State) : (setCore k c s).plru = s.plru := rfl
@[simp] theorem setCore_sweeps (k : Nat) (c : CoreState) (s : State) : (setCore k c s).sweeps = s.sweeps := rfl
@[simp] theorem setCore_larder (k : Nat) (c : CoreState) (s : State) : (setCore k c s).larder = s.larder := rfl
@[simp] theorem setCore_units (k : Nat) (c : CoreState) (s : State) : (setCore k c s).units = s.units := rfl
@[simp] theorem setCore_mail (k : Nat) (c : CoreState) (s : State) : (setCore k c s).mail = s.mail := rfl
@[simp] theorem setCore_readySeq (k : Nat) (c : CoreState) (s : State) : (setCore k c s).readySeq = s.readySeq := rfl
@[simp] theorem setCore_cursors (k : Nat) (c : CoreState) (s : State) : (setCore k c s).cursors = s.cursors := rfl
@[simp] theorem setCore_seq (k : Nat) (c : CoreState) (s : State) : (setCore k c s).seq = s.seq := rfl
@[simp] theorem setCore_buckets (k : Nat) (c : CoreState) (s : State) : (setCore k c s).buckets = s.buckets := rfl
@[simp] theorem setCore_pages (k : Nat) (c : CoreState) (s : State) : (setCore k c s).pages = s.pages := rfl
@[simp] theorem setCore_faultActs (k : Nat) (c : CoreState) (s : State) : (setCore k c s).faultActs = s.faultActs := rfl
@[simp] theorem setCore_fabricTlb (k : Nat) (c : CoreState) (s : State) : (setCore k c s).fabricTlb = s.fabricTlb := rfl
@[simp] theorem setCore_fabricLru (k : Nat) (c : CoreState) (s : State) : (setCore k c s).fabricLru = s.fabricLru := rfl
@[simp] theorem setCore_racks (k : Nat) (c : CoreState) (s : State) : (setCore k c s).racks = s.racks := rfl
@[simp] theorem setCore_laundry (k : Nat) (c : CoreState) (s : State) : (setCore k c s).laundry = s.laundry := rfl
@[simp] theorem setCore_markq (k : Nat) (c : CoreState) (s : State) : (setCore k c s).markq = s.markq := rfl
@[simp] theorem setCore_sources (k : Nat) (c : CoreState) (s : State) : (setCore k c s).sources = s.sources := rfl
@[simp] theorem setCore_encoders (k : Nat) (c : CoreState) (s : State) : (setCore k c s).encoders = s.encoders := rfl
@[simp] theorem setCore_mainsAt (k : Nat) (c : CoreState) (s : State) : (setCore k c s).mainsAt = s.mainsAt := rfl
@[simp] theorem setCore_syncAt (k : Nat) (c : CoreState) (s : State) : (setCore k c s).syncAt = s.syncAt := rfl
@[simp] theorem setCore_syncGap (k : Nat) (c : CoreState) (s : State) : (setCore k c s).syncGap = s.syncGap := rfl
@[simp] theorem setCore_dtRate (k : Nat) (c : CoreState) (s : State) : (setCore k c s).dtRate = s.dtRate := rfl
@[simp] theorem setCore_dtSteered (k : Nat) (c : CoreState) (s : State) : (setCore k c s).dtSteered = s.dtSteered := rfl
@[simp] theorem setCore_alarms (k : Nat) (c : CoreState) (s : State) : (setCore k c s).alarms = s.alarms := rfl
@[simp] theorem setCore_fences (k : Nat) (c : CoreState) (s : State) : (setCore k c s).fences = s.fences := rfl
@[simp] theorem setCore_syncBusy (k : Nat) (c : CoreState) (s : State) : (setCore k c s).syncBusy = s.syncBusy := rfl
@[simp] theorem setCore_drives (k : Nat) (c : CoreState) (s : State) : (setCore k c s).drives = s.drives := rfl
@[simp] theorem setCore_abortN (k : Nat) (c : CoreState) (s : State) : (setCore k c s).abortN = s.abortN := rfl
@[simp] theorem setCore_jobs (k : Nat) (c : CoreState) (s : State) : (setCore k c s).jobs = s.jobs := rfl
@[simp] theorem setCore_lanes (k : Nat) (c : CoreState) (s : State) : (setCore k c s).lanes = s.lanes := rfl
@[simp] theorem setCore_links (k : Nat) (c : CoreState) (s : State) : (setCore k c s).links = s.links := rfl
@[simp] theorem setCore_channels (k : Nat) (c : CoreState) (s : State) : (setCore k c s).channels = s.channels := rfl
@[simp] theorem setCore_hostFns (k : Nat) (c : CoreState) (s : State) : (setCore k c s).hostFns = s.hostFns := rfl
@[simp] theorem setCore_cmds (k : Nat) (c : CoreState) (s : State) : (setCore k c s).cmds = s.cmds := rfl
@[simp] theorem setCore_journal (k : Nat) (c : CoreState) (s : State) : (setCore k c s).journal = s.journal := rfl
@[simp] theorem setCore_records (k : Nat) (c : CoreState) (s : State) : (setCore k c s).records = s.records := rfl
@[simp] theorem setCore_exports (k : Nat) (c : CoreState) (s : State) : (setCore k c s).exports = s.exports := rfl
@[simp] theorem setCore_outbound (k : Nat) (c : CoreState) (s : State) : (setCore k c s).outbound = s.outbound := rfl
@[simp] theorem setCore_overran (k : Nat) (c : CoreState) (s : State) : (setCore k c s).overran = s.overran := rfl
@[simp] theorem setCore_activations (k : Nat) (c : CoreState) (s : State) : (setCore k c s).activations = s.activations := rfl
@[simp] theorem setCore_admAt (k : Nat) (c : CoreState) (s : State) : (setCore k c s).admAt = s.admAt := rfl
@[simp] theorem setCore_dynAt (k : Nat) (c : CoreState) (s : State) : (setCore k c s).dynAt = s.dynAt := rfl
@[simp] theorem setCore_clkBad (k : Nat) (c : CoreState) (s : State) : (setCore k c s).clkBad = s.clkBad := rfl
@[simp] theorem setCore_locking (k : Nat) (c : CoreState) (s : State) : (setCore k c s).locking = s.locking := rfl
@[simp] theorem setCore_switching (k : Nat) (c : CoreState) (s : State) : (setCore k c s).switching = s.switching := rfl
@[simp] theorem setCore_throttled (k : Nat) (c : CoreState) (s : State) : (setCore k c s).throttled = s.throttled := rfl
@[simp] theorem setCore_cool (k : Nat) (c : CoreState) (s : State) : (setCore k c s).cool = s.cool := rfl
@[simp] theorem setCore_memRecal (k : Nat) (c : CoreState) (s : State) : (setCore k c s).memRecal = s.memRecal := rfl
@[simp] theorem setCore_skews (k : Nat) (c : CoreState) (s : State) : (setCore k c s).skews = s.skews := rfl
@[simp] theorem setCore_skewAt (k : Nat) (c : CoreState) (s : State) : (setCore k c s).skewAt = s.skewAt := rfl
@[simp] theorem setCore_lardSkews (k : Nat) (c : CoreState) (s : State) : (setCore k c s).lardSkews = s.lardSkews := rfl
@[simp] theorem setCore_lardSkewAt (k : Nat) (c : CoreState) (s : State) : (setCore k c s).lardSkewAt = s.lardSkewAt := rfl
@[simp] theorem setCore_deferred (k : Nat) (c : CoreState) (s : State) : (setCore k c s).deferred = s.deferred := rfl
@[simp] theorem setCore_otp (k : Nat) (c : CoreState) (s : State) : (setCore k c s).otp = s.otp := rfl
@[simp] theorem setCore_boot (k : Nat) (c : CoreState) (s : State) : (setCore k c s).boot = s.boot := rfl
@[simp] theorem setCore_smbus (k : Nat) (c : CoreState) (s : State) : (setCore k c s).smbus = s.smbus := rfl
@[simp] theorem setCore_tripped (k : Nat) (c : CoreState) (s : State) : (setCore k c s).tripped = s.tripped := rfl
@[simp] theorem setCore_moving (k : Nat) (c : CoreState) (s : State) : (setCore k c s).moving = s.moving := rfl
@[simp] theorem setCore_hostHalf (k : Nat) (c : CoreState) (s : State) : (setCore k c s).hostHalf = s.hostHalf := rfl
@[simp] theorem setCore_readData (k : Nat) (c : CoreState) (s : State) : (setCore k c s).readData = s.readData := rfl
@[simp] theorem setCore_status (k : Nat) (c : CoreState) (s : State) : (setCore k c s).status = s.status := rfl
@[simp] theorem setCore_postCode (k : Nat) (c : CoreState) (s : State) : (setCore k c s).postCode = s.postCode := rfl
@[simp] theorem setCore_draw (k : Nat) (c : CoreState) (s : State) : (setCore k c s).draw = s.draw := rfl

/-! ### modCore: a core changes -/

@[simp] theorem modCore_pending (k : Nat) (f : CoreState → CoreState) (s : State) : (modCore k f s).pending = s.pending := rfl
@[simp] theorem modCore_phaseCycles (k : Nat) (f : CoreState → CoreState) (s : State) : (modCore k f s).phaseCycles = s.phaseCycles := rfl
@[simp] theorem modCore_dtime (k : Nat) (f : CoreState → CoreState) (s : State) : (modCore k f s).dtime = s.dtime := rfl
@[simp] theorem modCore_regs (k : Nat) (f : CoreState → CoreState) (s : State) : (modCore k f s).regs = s.regs := rfl
@[simp] theorem modCore_mem (k : Nat) (f : CoreState → CoreState) (s : State) : (modCore k f s).mem = s.mem := rfl
@[simp] theorem modCore_under (k : Nat) (f : CoreState → CoreState) (s : State) : (modCore k f s).under = s.under := rfl
@[simp] theorem modCore_lines (k : Nat) (f : CoreState → CoreState) (s : State) : (modCore k f s).lines = s.lines := rfl
@[simp] theorem modCore_plru (k : Nat) (f : CoreState → CoreState) (s : State) : (modCore k f s).plru = s.plru := rfl
@[simp] theorem modCore_sweeps (k : Nat) (f : CoreState → CoreState) (s : State) : (modCore k f s).sweeps = s.sweeps := rfl
@[simp] theorem modCore_larder (k : Nat) (f : CoreState → CoreState) (s : State) : (modCore k f s).larder = s.larder := rfl
@[simp] theorem modCore_units (k : Nat) (f : CoreState → CoreState) (s : State) : (modCore k f s).units = s.units := rfl
@[simp] theorem modCore_mail (k : Nat) (f : CoreState → CoreState) (s : State) : (modCore k f s).mail = s.mail := rfl
@[simp] theorem modCore_readySeq (k : Nat) (f : CoreState → CoreState) (s : State) : (modCore k f s).readySeq = s.readySeq := rfl
@[simp] theorem modCore_cursors (k : Nat) (f : CoreState → CoreState) (s : State) : (modCore k f s).cursors = s.cursors := rfl
@[simp] theorem modCore_seq (k : Nat) (f : CoreState → CoreState) (s : State) : (modCore k f s).seq = s.seq := rfl
@[simp] theorem modCore_buckets (k : Nat) (f : CoreState → CoreState) (s : State) : (modCore k f s).buckets = s.buckets := rfl
@[simp] theorem modCore_pages (k : Nat) (f : CoreState → CoreState) (s : State) : (modCore k f s).pages = s.pages := rfl
@[simp] theorem modCore_faultActs (k : Nat) (f : CoreState → CoreState) (s : State) : (modCore k f s).faultActs = s.faultActs := rfl
@[simp] theorem modCore_fabricTlb (k : Nat) (f : CoreState → CoreState) (s : State) : (modCore k f s).fabricTlb = s.fabricTlb := rfl
@[simp] theorem modCore_fabricLru (k : Nat) (f : CoreState → CoreState) (s : State) : (modCore k f s).fabricLru = s.fabricLru := rfl
@[simp] theorem modCore_racks (k : Nat) (f : CoreState → CoreState) (s : State) : (modCore k f s).racks = s.racks := rfl
@[simp] theorem modCore_laundry (k : Nat) (f : CoreState → CoreState) (s : State) : (modCore k f s).laundry = s.laundry := rfl
@[simp] theorem modCore_markq (k : Nat) (f : CoreState → CoreState) (s : State) : (modCore k f s).markq = s.markq := rfl
@[simp] theorem modCore_sources (k : Nat) (f : CoreState → CoreState) (s : State) : (modCore k f s).sources = s.sources := rfl
@[simp] theorem modCore_encoders (k : Nat) (f : CoreState → CoreState) (s : State) : (modCore k f s).encoders = s.encoders := rfl
@[simp] theorem modCore_mainsAt (k : Nat) (f : CoreState → CoreState) (s : State) : (modCore k f s).mainsAt = s.mainsAt := rfl
@[simp] theorem modCore_syncAt (k : Nat) (f : CoreState → CoreState) (s : State) : (modCore k f s).syncAt = s.syncAt := rfl
@[simp] theorem modCore_syncGap (k : Nat) (f : CoreState → CoreState) (s : State) : (modCore k f s).syncGap = s.syncGap := rfl
@[simp] theorem modCore_dtRate (k : Nat) (f : CoreState → CoreState) (s : State) : (modCore k f s).dtRate = s.dtRate := rfl
@[simp] theorem modCore_dtSteered (k : Nat) (f : CoreState → CoreState) (s : State) : (modCore k f s).dtSteered = s.dtSteered := rfl
@[simp] theorem modCore_alarms (k : Nat) (f : CoreState → CoreState) (s : State) : (modCore k f s).alarms = s.alarms := rfl
@[simp] theorem modCore_fences (k : Nat) (f : CoreState → CoreState) (s : State) : (modCore k f s).fences = s.fences := rfl
@[simp] theorem modCore_syncBusy (k : Nat) (f : CoreState → CoreState) (s : State) : (modCore k f s).syncBusy = s.syncBusy := rfl
@[simp] theorem modCore_drives (k : Nat) (f : CoreState → CoreState) (s : State) : (modCore k f s).drives = s.drives := rfl
@[simp] theorem modCore_abortN (k : Nat) (f : CoreState → CoreState) (s : State) : (modCore k f s).abortN = s.abortN := rfl
@[simp] theorem modCore_jobs (k : Nat) (f : CoreState → CoreState) (s : State) : (modCore k f s).jobs = s.jobs := rfl
@[simp] theorem modCore_lanes (k : Nat) (f : CoreState → CoreState) (s : State) : (modCore k f s).lanes = s.lanes := rfl
@[simp] theorem modCore_links (k : Nat) (f : CoreState → CoreState) (s : State) : (modCore k f s).links = s.links := rfl
@[simp] theorem modCore_channels (k : Nat) (f : CoreState → CoreState) (s : State) : (modCore k f s).channels = s.channels := rfl
@[simp] theorem modCore_hostFns (k : Nat) (f : CoreState → CoreState) (s : State) : (modCore k f s).hostFns = s.hostFns := rfl
@[simp] theorem modCore_cmds (k : Nat) (f : CoreState → CoreState) (s : State) : (modCore k f s).cmds = s.cmds := rfl
@[simp] theorem modCore_journal (k : Nat) (f : CoreState → CoreState) (s : State) : (modCore k f s).journal = s.journal := rfl
@[simp] theorem modCore_records (k : Nat) (f : CoreState → CoreState) (s : State) : (modCore k f s).records = s.records := rfl
@[simp] theorem modCore_exports (k : Nat) (f : CoreState → CoreState) (s : State) : (modCore k f s).exports = s.exports := rfl
@[simp] theorem modCore_outbound (k : Nat) (f : CoreState → CoreState) (s : State) : (modCore k f s).outbound = s.outbound := rfl
@[simp] theorem modCore_overran (k : Nat) (f : CoreState → CoreState) (s : State) : (modCore k f s).overran = s.overran := rfl
@[simp] theorem modCore_activations (k : Nat) (f : CoreState → CoreState) (s : State) : (modCore k f s).activations = s.activations := rfl
@[simp] theorem modCore_admAt (k : Nat) (f : CoreState → CoreState) (s : State) : (modCore k f s).admAt = s.admAt := rfl
@[simp] theorem modCore_dynAt (k : Nat) (f : CoreState → CoreState) (s : State) : (modCore k f s).dynAt = s.dynAt := rfl
@[simp] theorem modCore_clkBad (k : Nat) (f : CoreState → CoreState) (s : State) : (modCore k f s).clkBad = s.clkBad := rfl
@[simp] theorem modCore_locking (k : Nat) (f : CoreState → CoreState) (s : State) : (modCore k f s).locking = s.locking := rfl
@[simp] theorem modCore_switching (k : Nat) (f : CoreState → CoreState) (s : State) : (modCore k f s).switching = s.switching := rfl
@[simp] theorem modCore_throttled (k : Nat) (f : CoreState → CoreState) (s : State) : (modCore k f s).throttled = s.throttled := rfl
@[simp] theorem modCore_cool (k : Nat) (f : CoreState → CoreState) (s : State) : (modCore k f s).cool = s.cool := rfl
@[simp] theorem modCore_memRecal (k : Nat) (f : CoreState → CoreState) (s : State) : (modCore k f s).memRecal = s.memRecal := rfl
@[simp] theorem modCore_skews (k : Nat) (f : CoreState → CoreState) (s : State) : (modCore k f s).skews = s.skews := rfl
@[simp] theorem modCore_skewAt (k : Nat) (f : CoreState → CoreState) (s : State) : (modCore k f s).skewAt = s.skewAt := rfl
@[simp] theorem modCore_lardSkews (k : Nat) (f : CoreState → CoreState) (s : State) : (modCore k f s).lardSkews = s.lardSkews := rfl
@[simp] theorem modCore_lardSkewAt (k : Nat) (f : CoreState → CoreState) (s : State) : (modCore k f s).lardSkewAt = s.lardSkewAt := rfl
@[simp] theorem modCore_deferred (k : Nat) (f : CoreState → CoreState) (s : State) : (modCore k f s).deferred = s.deferred := rfl
@[simp] theorem modCore_otp (k : Nat) (f : CoreState → CoreState) (s : State) : (modCore k f s).otp = s.otp := rfl
@[simp] theorem modCore_boot (k : Nat) (f : CoreState → CoreState) (s : State) : (modCore k f s).boot = s.boot := rfl
@[simp] theorem modCore_smbus (k : Nat) (f : CoreState → CoreState) (s : State) : (modCore k f s).smbus = s.smbus := rfl
@[simp] theorem modCore_tripped (k : Nat) (f : CoreState → CoreState) (s : State) : (modCore k f s).tripped = s.tripped := rfl
@[simp] theorem modCore_moving (k : Nat) (f : CoreState → CoreState) (s : State) : (modCore k f s).moving = s.moving := rfl
@[simp] theorem modCore_hostHalf (k : Nat) (f : CoreState → CoreState) (s : State) : (modCore k f s).hostHalf = s.hostHalf := rfl
@[simp] theorem modCore_readData (k : Nat) (f : CoreState → CoreState) (s : State) : (modCore k f s).readData = s.readData := rfl
@[simp] theorem modCore_status (k : Nat) (f : CoreState → CoreState) (s : State) : (modCore k f s).status = s.status := rfl
@[simp] theorem modCore_postCode (k : Nat) (f : CoreState → CoreState) (s : State) : (modCore k f s).postCode = s.postCode := rfl
@[simp] theorem modCore_draw (k : Nat) (f : CoreState → CoreState) (s : State) : (modCore k f s).draw = s.draw := rfl

/-! ### modFront: a front context changes -/

@[simp] theorem modFront_pending (k : Nat) (f : Ctx → Ctx) (s : State) : (modFront k f s).pending = s.pending := rfl
@[simp] theorem modFront_phaseCycles (k : Nat) (f : Ctx → Ctx) (s : State) : (modFront k f s).phaseCycles = s.phaseCycles := rfl
@[simp] theorem modFront_dtime (k : Nat) (f : Ctx → Ctx) (s : State) : (modFront k f s).dtime = s.dtime := rfl
@[simp] theorem modFront_regs (k : Nat) (f : Ctx → Ctx) (s : State) : (modFront k f s).regs = s.regs := rfl
@[simp] theorem modFront_mem (k : Nat) (f : Ctx → Ctx) (s : State) : (modFront k f s).mem = s.mem := rfl
@[simp] theorem modFront_under (k : Nat) (f : Ctx → Ctx) (s : State) : (modFront k f s).under = s.under := rfl
@[simp] theorem modFront_lines (k : Nat) (f : Ctx → Ctx) (s : State) : (modFront k f s).lines = s.lines := rfl
@[simp] theorem modFront_plru (k : Nat) (f : Ctx → Ctx) (s : State) : (modFront k f s).plru = s.plru := rfl
@[simp] theorem modFront_sweeps (k : Nat) (f : Ctx → Ctx) (s : State) : (modFront k f s).sweeps = s.sweeps := rfl
@[simp] theorem modFront_larder (k : Nat) (f : Ctx → Ctx) (s : State) : (modFront k f s).larder = s.larder := rfl
@[simp] theorem modFront_units (k : Nat) (f : Ctx → Ctx) (s : State) : (modFront k f s).units = s.units := rfl
@[simp] theorem modFront_mail (k : Nat) (f : Ctx → Ctx) (s : State) : (modFront k f s).mail = s.mail := rfl
@[simp] theorem modFront_readySeq (k : Nat) (f : Ctx → Ctx) (s : State) : (modFront k f s).readySeq = s.readySeq := rfl
@[simp] theorem modFront_cursors (k : Nat) (f : Ctx → Ctx) (s : State) : (modFront k f s).cursors = s.cursors := rfl
@[simp] theorem modFront_seq (k : Nat) (f : Ctx → Ctx) (s : State) : (modFront k f s).seq = s.seq := rfl
@[simp] theorem modFront_buckets (k : Nat) (f : Ctx → Ctx) (s : State) : (modFront k f s).buckets = s.buckets := rfl
@[simp] theorem modFront_pages (k : Nat) (f : Ctx → Ctx) (s : State) : (modFront k f s).pages = s.pages := rfl
@[simp] theorem modFront_faultActs (k : Nat) (f : Ctx → Ctx) (s : State) : (modFront k f s).faultActs = s.faultActs := rfl
@[simp] theorem modFront_fabricTlb (k : Nat) (f : Ctx → Ctx) (s : State) : (modFront k f s).fabricTlb = s.fabricTlb := rfl
@[simp] theorem modFront_fabricLru (k : Nat) (f : Ctx → Ctx) (s : State) : (modFront k f s).fabricLru = s.fabricLru := rfl
@[simp] theorem modFront_racks (k : Nat) (f : Ctx → Ctx) (s : State) : (modFront k f s).racks = s.racks := rfl
@[simp] theorem modFront_laundry (k : Nat) (f : Ctx → Ctx) (s : State) : (modFront k f s).laundry = s.laundry := rfl
@[simp] theorem modFront_markq (k : Nat) (f : Ctx → Ctx) (s : State) : (modFront k f s).markq = s.markq := rfl
@[simp] theorem modFront_sources (k : Nat) (f : Ctx → Ctx) (s : State) : (modFront k f s).sources = s.sources := rfl
@[simp] theorem modFront_encoders (k : Nat) (f : Ctx → Ctx) (s : State) : (modFront k f s).encoders = s.encoders := rfl
@[simp] theorem modFront_mainsAt (k : Nat) (f : Ctx → Ctx) (s : State) : (modFront k f s).mainsAt = s.mainsAt := rfl
@[simp] theorem modFront_syncAt (k : Nat) (f : Ctx → Ctx) (s : State) : (modFront k f s).syncAt = s.syncAt := rfl
@[simp] theorem modFront_syncGap (k : Nat) (f : Ctx → Ctx) (s : State) : (modFront k f s).syncGap = s.syncGap := rfl
@[simp] theorem modFront_dtRate (k : Nat) (f : Ctx → Ctx) (s : State) : (modFront k f s).dtRate = s.dtRate := rfl
@[simp] theorem modFront_dtSteered (k : Nat) (f : Ctx → Ctx) (s : State) : (modFront k f s).dtSteered = s.dtSteered := rfl
@[simp] theorem modFront_alarms (k : Nat) (f : Ctx → Ctx) (s : State) : (modFront k f s).alarms = s.alarms := rfl
@[simp] theorem modFront_fences (k : Nat) (f : Ctx → Ctx) (s : State) : (modFront k f s).fences = s.fences := rfl
@[simp] theorem modFront_syncBusy (k : Nat) (f : Ctx → Ctx) (s : State) : (modFront k f s).syncBusy = s.syncBusy := rfl
@[simp] theorem modFront_drives (k : Nat) (f : Ctx → Ctx) (s : State) : (modFront k f s).drives = s.drives := rfl
@[simp] theorem modFront_abortN (k : Nat) (f : Ctx → Ctx) (s : State) : (modFront k f s).abortN = s.abortN := rfl
@[simp] theorem modFront_jobs (k : Nat) (f : Ctx → Ctx) (s : State) : (modFront k f s).jobs = s.jobs := rfl
@[simp] theorem modFront_lanes (k : Nat) (f : Ctx → Ctx) (s : State) : (modFront k f s).lanes = s.lanes := rfl
@[simp] theorem modFront_links (k : Nat) (f : Ctx → Ctx) (s : State) : (modFront k f s).links = s.links := rfl
@[simp] theorem modFront_channels (k : Nat) (f : Ctx → Ctx) (s : State) : (modFront k f s).channels = s.channels := rfl
@[simp] theorem modFront_hostFns (k : Nat) (f : Ctx → Ctx) (s : State) : (modFront k f s).hostFns = s.hostFns := rfl
@[simp] theorem modFront_cmds (k : Nat) (f : Ctx → Ctx) (s : State) : (modFront k f s).cmds = s.cmds := rfl
@[simp] theorem modFront_journal (k : Nat) (f : Ctx → Ctx) (s : State) : (modFront k f s).journal = s.journal := rfl
@[simp] theorem modFront_records (k : Nat) (f : Ctx → Ctx) (s : State) : (modFront k f s).records = s.records := rfl
@[simp] theorem modFront_exports (k : Nat) (f : Ctx → Ctx) (s : State) : (modFront k f s).exports = s.exports := rfl
@[simp] theorem modFront_outbound (k : Nat) (f : Ctx → Ctx) (s : State) : (modFront k f s).outbound = s.outbound := rfl
@[simp] theorem modFront_overran (k : Nat) (f : Ctx → Ctx) (s : State) : (modFront k f s).overran = s.overran := rfl
@[simp] theorem modFront_activations (k : Nat) (f : Ctx → Ctx) (s : State) : (modFront k f s).activations = s.activations := rfl
@[simp] theorem modFront_admAt (k : Nat) (f : Ctx → Ctx) (s : State) : (modFront k f s).admAt = s.admAt := rfl
@[simp] theorem modFront_dynAt (k : Nat) (f : Ctx → Ctx) (s : State) : (modFront k f s).dynAt = s.dynAt := rfl
@[simp] theorem modFront_clkBad (k : Nat) (f : Ctx → Ctx) (s : State) : (modFront k f s).clkBad = s.clkBad := rfl
@[simp] theorem modFront_locking (k : Nat) (f : Ctx → Ctx) (s : State) : (modFront k f s).locking = s.locking := rfl
@[simp] theorem modFront_switching (k : Nat) (f : Ctx → Ctx) (s : State) : (modFront k f s).switching = s.switching := rfl
@[simp] theorem modFront_throttled (k : Nat) (f : Ctx → Ctx) (s : State) : (modFront k f s).throttled = s.throttled := rfl
@[simp] theorem modFront_cool (k : Nat) (f : Ctx → Ctx) (s : State) : (modFront k f s).cool = s.cool := rfl
@[simp] theorem modFront_memRecal (k : Nat) (f : Ctx → Ctx) (s : State) : (modFront k f s).memRecal = s.memRecal := rfl
@[simp] theorem modFront_skews (k : Nat) (f : Ctx → Ctx) (s : State) : (modFront k f s).skews = s.skews := rfl
@[simp] theorem modFront_skewAt (k : Nat) (f : Ctx → Ctx) (s : State) : (modFront k f s).skewAt = s.skewAt := rfl
@[simp] theorem modFront_lardSkews (k : Nat) (f : Ctx → Ctx) (s : State) : (modFront k f s).lardSkews = s.lardSkews := rfl
@[simp] theorem modFront_lardSkewAt (k : Nat) (f : Ctx → Ctx) (s : State) : (modFront k f s).lardSkewAt = s.lardSkewAt := rfl
@[simp] theorem modFront_deferred (k : Nat) (f : Ctx → Ctx) (s : State) : (modFront k f s).deferred = s.deferred := rfl
@[simp] theorem modFront_otp (k : Nat) (f : Ctx → Ctx) (s : State) : (modFront k f s).otp = s.otp := rfl
@[simp] theorem modFront_boot (k : Nat) (f : Ctx → Ctx) (s : State) : (modFront k f s).boot = s.boot := rfl
@[simp] theorem modFront_smbus (k : Nat) (f : Ctx → Ctx) (s : State) : (modFront k f s).smbus = s.smbus := rfl
@[simp] theorem modFront_tripped (k : Nat) (f : Ctx → Ctx) (s : State) : (modFront k f s).tripped = s.tripped := rfl
@[simp] theorem modFront_moving (k : Nat) (f : Ctx → Ctx) (s : State) : (modFront k f s).moving = s.moving := rfl
@[simp] theorem modFront_hostHalf (k : Nat) (f : Ctx → Ctx) (s : State) : (modFront k f s).hostHalf = s.hostHalf := rfl
@[simp] theorem modFront_readData (k : Nat) (f : Ctx → Ctx) (s : State) : (modFront k f s).readData = s.readData := rfl
@[simp] theorem modFront_status (k : Nat) (f : Ctx → Ctx) (s : State) : (modFront k f s).status = s.status := rfl
@[simp] theorem modFront_postCode (k : Nat) (f : Ctx → Ctx) (s : State) : (modFront k f s).postCode = s.postCode := rfl
@[simp] theorem modFront_draw (k : Nat) (f : Ctx → Ctx) (s : State) : (modFront k f s).draw = s.draw := rfl

/-! ### raiseEvent: an event becomes pending -/

@[simp] theorem raiseEvent_pending (k e : Nat) (s : State) : (raiseEvent k e s).pending = s.pending := rfl
@[simp] theorem raiseEvent_phaseCycles (k e : Nat) (s : State) : (raiseEvent k e s).phaseCycles = s.phaseCycles := rfl
@[simp] theorem raiseEvent_dtime (k e : Nat) (s : State) : (raiseEvent k e s).dtime = s.dtime := rfl
@[simp] theorem raiseEvent_regs (k e : Nat) (s : State) : (raiseEvent k e s).regs = s.regs := rfl
@[simp] theorem raiseEvent_mem (k e : Nat) (s : State) : (raiseEvent k e s).mem = s.mem := rfl
@[simp] theorem raiseEvent_under (k e : Nat) (s : State) : (raiseEvent k e s).under = s.under := rfl
@[simp] theorem raiseEvent_lines (k e : Nat) (s : State) : (raiseEvent k e s).lines = s.lines := rfl
@[simp] theorem raiseEvent_plru (k e : Nat) (s : State) : (raiseEvent k e s).plru = s.plru := rfl
@[simp] theorem raiseEvent_sweeps (k e : Nat) (s : State) : (raiseEvent k e s).sweeps = s.sweeps := rfl
@[simp] theorem raiseEvent_larder (k e : Nat) (s : State) : (raiseEvent k e s).larder = s.larder := rfl
@[simp] theorem raiseEvent_units (k e : Nat) (s : State) : (raiseEvent k e s).units = s.units := rfl
@[simp] theorem raiseEvent_mail (k e : Nat) (s : State) : (raiseEvent k e s).mail = s.mail := rfl
@[simp] theorem raiseEvent_readySeq (k e : Nat) (s : State) : (raiseEvent k e s).readySeq = s.readySeq := rfl
@[simp] theorem raiseEvent_cursors (k e : Nat) (s : State) : (raiseEvent k e s).cursors = s.cursors := rfl
@[simp] theorem raiseEvent_seq (k e : Nat) (s : State) : (raiseEvent k e s).seq = s.seq := rfl
@[simp] theorem raiseEvent_buckets (k e : Nat) (s : State) : (raiseEvent k e s).buckets = s.buckets := rfl
@[simp] theorem raiseEvent_pages (k e : Nat) (s : State) : (raiseEvent k e s).pages = s.pages := rfl
@[simp] theorem raiseEvent_faultActs (k e : Nat) (s : State) : (raiseEvent k e s).faultActs = s.faultActs := rfl
@[simp] theorem raiseEvent_fabricTlb (k e : Nat) (s : State) : (raiseEvent k e s).fabricTlb = s.fabricTlb := rfl
@[simp] theorem raiseEvent_fabricLru (k e : Nat) (s : State) : (raiseEvent k e s).fabricLru = s.fabricLru := rfl
@[simp] theorem raiseEvent_racks (k e : Nat) (s : State) : (raiseEvent k e s).racks = s.racks := rfl
@[simp] theorem raiseEvent_laundry (k e : Nat) (s : State) : (raiseEvent k e s).laundry = s.laundry := rfl
@[simp] theorem raiseEvent_markq (k e : Nat) (s : State) : (raiseEvent k e s).markq = s.markq := rfl
@[simp] theorem raiseEvent_sources (k e : Nat) (s : State) : (raiseEvent k e s).sources = s.sources := rfl
@[simp] theorem raiseEvent_encoders (k e : Nat) (s : State) : (raiseEvent k e s).encoders = s.encoders := rfl
@[simp] theorem raiseEvent_mainsAt (k e : Nat) (s : State) : (raiseEvent k e s).mainsAt = s.mainsAt := rfl
@[simp] theorem raiseEvent_syncAt (k e : Nat) (s : State) : (raiseEvent k e s).syncAt = s.syncAt := rfl
@[simp] theorem raiseEvent_syncGap (k e : Nat) (s : State) : (raiseEvent k e s).syncGap = s.syncGap := rfl
@[simp] theorem raiseEvent_dtRate (k e : Nat) (s : State) : (raiseEvent k e s).dtRate = s.dtRate := rfl
@[simp] theorem raiseEvent_dtSteered (k e : Nat) (s : State) : (raiseEvent k e s).dtSteered = s.dtSteered := rfl
@[simp] theorem raiseEvent_alarms (k e : Nat) (s : State) : (raiseEvent k e s).alarms = s.alarms := rfl
@[simp] theorem raiseEvent_fences (k e : Nat) (s : State) : (raiseEvent k e s).fences = s.fences := rfl
@[simp] theorem raiseEvent_syncBusy (k e : Nat) (s : State) : (raiseEvent k e s).syncBusy = s.syncBusy := rfl
@[simp] theorem raiseEvent_drives (k e : Nat) (s : State) : (raiseEvent k e s).drives = s.drives := rfl
@[simp] theorem raiseEvent_abortN (k e : Nat) (s : State) : (raiseEvent k e s).abortN = s.abortN := rfl
@[simp] theorem raiseEvent_jobs (k e : Nat) (s : State) : (raiseEvent k e s).jobs = s.jobs := rfl
@[simp] theorem raiseEvent_lanes (k e : Nat) (s : State) : (raiseEvent k e s).lanes = s.lanes := rfl
@[simp] theorem raiseEvent_links (k e : Nat) (s : State) : (raiseEvent k e s).links = s.links := rfl
@[simp] theorem raiseEvent_channels (k e : Nat) (s : State) : (raiseEvent k e s).channels = s.channels := rfl
@[simp] theorem raiseEvent_hostFns (k e : Nat) (s : State) : (raiseEvent k e s).hostFns = s.hostFns := rfl
@[simp] theorem raiseEvent_cmds (k e : Nat) (s : State) : (raiseEvent k e s).cmds = s.cmds := rfl
@[simp] theorem raiseEvent_journal (k e : Nat) (s : State) : (raiseEvent k e s).journal = s.journal := rfl
@[simp] theorem raiseEvent_records (k e : Nat) (s : State) : (raiseEvent k e s).records = s.records := rfl
@[simp] theorem raiseEvent_exports (k e : Nat) (s : State) : (raiseEvent k e s).exports = s.exports := rfl
@[simp] theorem raiseEvent_outbound (k e : Nat) (s : State) : (raiseEvent k e s).outbound = s.outbound := rfl
@[simp] theorem raiseEvent_overran (k e : Nat) (s : State) : (raiseEvent k e s).overran = s.overran := rfl
@[simp] theorem raiseEvent_activations (k e : Nat) (s : State) : (raiseEvent k e s).activations = s.activations := rfl
@[simp] theorem raiseEvent_admAt (k e : Nat) (s : State) : (raiseEvent k e s).admAt = s.admAt := rfl
@[simp] theorem raiseEvent_dynAt (k e : Nat) (s : State) : (raiseEvent k e s).dynAt = s.dynAt := rfl
@[simp] theorem raiseEvent_clkBad (k e : Nat) (s : State) : (raiseEvent k e s).clkBad = s.clkBad := rfl
@[simp] theorem raiseEvent_locking (k e : Nat) (s : State) : (raiseEvent k e s).locking = s.locking := rfl
@[simp] theorem raiseEvent_switching (k e : Nat) (s : State) : (raiseEvent k e s).switching = s.switching := rfl
@[simp] theorem raiseEvent_throttled (k e : Nat) (s : State) : (raiseEvent k e s).throttled = s.throttled := rfl
@[simp] theorem raiseEvent_cool (k e : Nat) (s : State) : (raiseEvent k e s).cool = s.cool := rfl
@[simp] theorem raiseEvent_memRecal (k e : Nat) (s : State) : (raiseEvent k e s).memRecal = s.memRecal := rfl
@[simp] theorem raiseEvent_skews (k e : Nat) (s : State) : (raiseEvent k e s).skews = s.skews := rfl
@[simp] theorem raiseEvent_skewAt (k e : Nat) (s : State) : (raiseEvent k e s).skewAt = s.skewAt := rfl
@[simp] theorem raiseEvent_lardSkews (k e : Nat) (s : State) : (raiseEvent k e s).lardSkews = s.lardSkews := rfl
@[simp] theorem raiseEvent_lardSkewAt (k e : Nat) (s : State) : (raiseEvent k e s).lardSkewAt = s.lardSkewAt := rfl
@[simp] theorem raiseEvent_deferred (k e : Nat) (s : State) : (raiseEvent k e s).deferred = s.deferred := rfl
@[simp] theorem raiseEvent_otp (k e : Nat) (s : State) : (raiseEvent k e s).otp = s.otp := rfl
@[simp] theorem raiseEvent_boot (k e : Nat) (s : State) : (raiseEvent k e s).boot = s.boot := rfl
@[simp] theorem raiseEvent_smbus (k e : Nat) (s : State) : (raiseEvent k e s).smbus = s.smbus := rfl
@[simp] theorem raiseEvent_tripped (k e : Nat) (s : State) : (raiseEvent k e s).tripped = s.tripped := rfl
@[simp] theorem raiseEvent_moving (k e : Nat) (s : State) : (raiseEvent k e s).moving = s.moving := rfl
@[simp] theorem raiseEvent_hostHalf (k e : Nat) (s : State) : (raiseEvent k e s).hostHalf = s.hostHalf := rfl
@[simp] theorem raiseEvent_readData (k e : Nat) (s : State) : (raiseEvent k e s).readData = s.readData := rfl
@[simp] theorem raiseEvent_status (k e : Nat) (s : State) : (raiseEvent k e s).status = s.status := rfl
@[simp] theorem raiseEvent_postCode (k e : Nat) (s : State) : (raiseEvent k e s).postCode = s.postCode := rfl
@[simp] theorem raiseEvent_draw (k e : Nat) (s : State) : (raiseEvent k e s).draw = s.draw := rfl

/-! ### answerRead: a read is answered -/

@[simp] theorem answerRead_pending (v : Word) (s : State) : (answerRead v s).pending = s.pending := rfl
@[simp] theorem answerRead_phaseCycles (v : Word) (s : State) : (answerRead v s).phaseCycles = s.phaseCycles := rfl
@[simp] theorem answerRead_dtime (v : Word) (s : State) : (answerRead v s).dtime = s.dtime := rfl
@[simp] theorem answerRead_regs (v : Word) (s : State) : (answerRead v s).regs = s.regs := rfl
@[simp] theorem answerRead_mem (v : Word) (s : State) : (answerRead v s).mem = s.mem := rfl
@[simp] theorem answerRead_under (v : Word) (s : State) : (answerRead v s).under = s.under := rfl
@[simp] theorem answerRead_lines (v : Word) (s : State) : (answerRead v s).lines = s.lines := rfl
@[simp] theorem answerRead_plru (v : Word) (s : State) : (answerRead v s).plru = s.plru := rfl
@[simp] theorem answerRead_sweeps (v : Word) (s : State) : (answerRead v s).sweeps = s.sweeps := rfl
@[simp] theorem answerRead_larder (v : Word) (s : State) : (answerRead v s).larder = s.larder := rfl
@[simp] theorem answerRead_cores (v : Word) (s : State) : (answerRead v s).cores = s.cores := rfl
@[simp] theorem answerRead_units (v : Word) (s : State) : (answerRead v s).units = s.units := rfl
@[simp] theorem answerRead_mail (v : Word) (s : State) : (answerRead v s).mail = s.mail := rfl
@[simp] theorem answerRead_readySeq (v : Word) (s : State) : (answerRead v s).readySeq = s.readySeq := rfl
@[simp] theorem answerRead_cursors (v : Word) (s : State) : (answerRead v s).cursors = s.cursors := rfl
@[simp] theorem answerRead_seq (v : Word) (s : State) : (answerRead v s).seq = s.seq := rfl
@[simp] theorem answerRead_buckets (v : Word) (s : State) : (answerRead v s).buckets = s.buckets := rfl
@[simp] theorem answerRead_pages (v : Word) (s : State) : (answerRead v s).pages = s.pages := rfl
@[simp] theorem answerRead_faultActs (v : Word) (s : State) : (answerRead v s).faultActs = s.faultActs := rfl
@[simp] theorem answerRead_fabricTlb (v : Word) (s : State) : (answerRead v s).fabricTlb = s.fabricTlb := rfl
@[simp] theorem answerRead_fabricLru (v : Word) (s : State) : (answerRead v s).fabricLru = s.fabricLru := rfl
@[simp] theorem answerRead_racks (v : Word) (s : State) : (answerRead v s).racks = s.racks := rfl
@[simp] theorem answerRead_laundry (v : Word) (s : State) : (answerRead v s).laundry = s.laundry := rfl
@[simp] theorem answerRead_markq (v : Word) (s : State) : (answerRead v s).markq = s.markq := rfl
@[simp] theorem answerRead_sources (v : Word) (s : State) : (answerRead v s).sources = s.sources := rfl
@[simp] theorem answerRead_encoders (v : Word) (s : State) : (answerRead v s).encoders = s.encoders := rfl
@[simp] theorem answerRead_mainsAt (v : Word) (s : State) : (answerRead v s).mainsAt = s.mainsAt := rfl
@[simp] theorem answerRead_syncAt (v : Word) (s : State) : (answerRead v s).syncAt = s.syncAt := rfl
@[simp] theorem answerRead_syncGap (v : Word) (s : State) : (answerRead v s).syncGap = s.syncGap := rfl
@[simp] theorem answerRead_dtRate (v : Word) (s : State) : (answerRead v s).dtRate = s.dtRate := rfl
@[simp] theorem answerRead_dtSteered (v : Word) (s : State) : (answerRead v s).dtSteered = s.dtSteered := rfl
@[simp] theorem answerRead_alarms (v : Word) (s : State) : (answerRead v s).alarms = s.alarms := rfl
@[simp] theorem answerRead_fences (v : Word) (s : State) : (answerRead v s).fences = s.fences := rfl
@[simp] theorem answerRead_syncBusy (v : Word) (s : State) : (answerRead v s).syncBusy = s.syncBusy := rfl
@[simp] theorem answerRead_drives (v : Word) (s : State) : (answerRead v s).drives = s.drives := rfl
@[simp] theorem answerRead_abortN (v : Word) (s : State) : (answerRead v s).abortN = s.abortN := rfl
@[simp] theorem answerRead_jobs (v : Word) (s : State) : (answerRead v s).jobs = s.jobs := rfl
@[simp] theorem answerRead_lanes (v : Word) (s : State) : (answerRead v s).lanes = s.lanes := rfl
@[simp] theorem answerRead_links (v : Word) (s : State) : (answerRead v s).links = s.links := rfl
@[simp] theorem answerRead_channels (v : Word) (s : State) : (answerRead v s).channels = s.channels := rfl
@[simp] theorem answerRead_hostFns (v : Word) (s : State) : (answerRead v s).hostFns = s.hostFns := rfl
@[simp] theorem answerRead_cmds (v : Word) (s : State) : (answerRead v s).cmds = s.cmds := rfl
@[simp] theorem answerRead_journal (v : Word) (s : State) : (answerRead v s).journal = s.journal := rfl
@[simp] theorem answerRead_records (v : Word) (s : State) : (answerRead v s).records = s.records := rfl
@[simp] theorem answerRead_exports (v : Word) (s : State) : (answerRead v s).exports = s.exports := rfl
@[simp] theorem answerRead_outbound (v : Word) (s : State) : (answerRead v s).outbound = s.outbound := rfl
@[simp] theorem answerRead_overran (v : Word) (s : State) : (answerRead v s).overran = s.overran := rfl
@[simp] theorem answerRead_activations (v : Word) (s : State) : (answerRead v s).activations = s.activations := rfl
@[simp] theorem answerRead_admAt (v : Word) (s : State) : (answerRead v s).admAt = s.admAt := rfl
@[simp] theorem answerRead_dynAt (v : Word) (s : State) : (answerRead v s).dynAt = s.dynAt := rfl
@[simp] theorem answerRead_clkBad (v : Word) (s : State) : (answerRead v s).clkBad = s.clkBad := rfl
@[simp] theorem answerRead_locking (v : Word) (s : State) : (answerRead v s).locking = s.locking := rfl
@[simp] theorem answerRead_switching (v : Word) (s : State) : (answerRead v s).switching = s.switching := rfl
@[simp] theorem answerRead_throttled (v : Word) (s : State) : (answerRead v s).throttled = s.throttled := rfl
@[simp] theorem answerRead_cool (v : Word) (s : State) : (answerRead v s).cool = s.cool := rfl
@[simp] theorem answerRead_memRecal (v : Word) (s : State) : (answerRead v s).memRecal = s.memRecal := rfl
@[simp] theorem answerRead_skews (v : Word) (s : State) : (answerRead v s).skews = s.skews := rfl
@[simp] theorem answerRead_skewAt (v : Word) (s : State) : (answerRead v s).skewAt = s.skewAt := rfl
@[simp] theorem answerRead_lardSkews (v : Word) (s : State) : (answerRead v s).lardSkews = s.lardSkews := rfl
@[simp] theorem answerRead_lardSkewAt (v : Word) (s : State) : (answerRead v s).lardSkewAt = s.lardSkewAt := rfl
@[simp] theorem answerRead_deferred (v : Word) (s : State) : (answerRead v s).deferred = s.deferred := rfl
@[simp] theorem answerRead_otp (v : Word) (s : State) : (answerRead v s).otp = s.otp := rfl
@[simp] theorem answerRead_boot (v : Word) (s : State) : (answerRead v s).boot = s.boot := rfl
@[simp] theorem answerRead_smbus (v : Word) (s : State) : (answerRead v s).smbus = s.smbus := rfl
@[simp] theorem answerRead_tripped (v : Word) (s : State) : (answerRead v s).tripped = s.tripped := rfl
@[simp] theorem answerRead_moving (v : Word) (s : State) : (answerRead v s).moving = s.moving := rfl
@[simp] theorem answerRead_hostHalf (v : Word) (s : State) : (answerRead v s).hostHalf = s.hostHalf := rfl
@[simp] theorem answerRead_status (v : Word) (s : State) : (answerRead v s).status = s.status := rfl
@[simp] theorem answerRead_postCode (v : Word) (s : State) : (answerRead v s).postCode = s.postCode := rfl
@[simp] theorem answerRead_draw (v : Word) (s : State) : (answerRead v s).draw = s.draw := rfl

/-! ### answerStatus: a post is answered -/

@[simp] theorem answerStatus_pending (n : Nat) (s : State) : (answerStatus n s).pending = s.pending := rfl
@[simp] theorem answerStatus_phaseCycles (n : Nat) (s : State) : (answerStatus n s).phaseCycles = s.phaseCycles := rfl
@[simp] theorem answerStatus_dtime (n : Nat) (s : State) : (answerStatus n s).dtime = s.dtime := rfl
@[simp] theorem answerStatus_regs (n : Nat) (s : State) : (answerStatus n s).regs = s.regs := rfl
@[simp] theorem answerStatus_mem (n : Nat) (s : State) : (answerStatus n s).mem = s.mem := rfl
@[simp] theorem answerStatus_under (n : Nat) (s : State) : (answerStatus n s).under = s.under := rfl
@[simp] theorem answerStatus_lines (n : Nat) (s : State) : (answerStatus n s).lines = s.lines := rfl
@[simp] theorem answerStatus_plru (n : Nat) (s : State) : (answerStatus n s).plru = s.plru := rfl
@[simp] theorem answerStatus_sweeps (n : Nat) (s : State) : (answerStatus n s).sweeps = s.sweeps := rfl
@[simp] theorem answerStatus_larder (n : Nat) (s : State) : (answerStatus n s).larder = s.larder := rfl
@[simp] theorem answerStatus_cores (n : Nat) (s : State) : (answerStatus n s).cores = s.cores := rfl
@[simp] theorem answerStatus_units (n : Nat) (s : State) : (answerStatus n s).units = s.units := rfl
@[simp] theorem answerStatus_mail (n : Nat) (s : State) : (answerStatus n s).mail = s.mail := rfl
@[simp] theorem answerStatus_readySeq (n : Nat) (s : State) : (answerStatus n s).readySeq = s.readySeq := rfl
@[simp] theorem answerStatus_cursors (n : Nat) (s : State) : (answerStatus n s).cursors = s.cursors := rfl
@[simp] theorem answerStatus_seq (n : Nat) (s : State) : (answerStatus n s).seq = s.seq := rfl
@[simp] theorem answerStatus_buckets (n : Nat) (s : State) : (answerStatus n s).buckets = s.buckets := rfl
@[simp] theorem answerStatus_pages (n : Nat) (s : State) : (answerStatus n s).pages = s.pages := rfl
@[simp] theorem answerStatus_faultActs (n : Nat) (s : State) : (answerStatus n s).faultActs = s.faultActs := rfl
@[simp] theorem answerStatus_fabricTlb (n : Nat) (s : State) : (answerStatus n s).fabricTlb = s.fabricTlb := rfl
@[simp] theorem answerStatus_fabricLru (n : Nat) (s : State) : (answerStatus n s).fabricLru = s.fabricLru := rfl
@[simp] theorem answerStatus_racks (n : Nat) (s : State) : (answerStatus n s).racks = s.racks := rfl
@[simp] theorem answerStatus_laundry (n : Nat) (s : State) : (answerStatus n s).laundry = s.laundry := rfl
@[simp] theorem answerStatus_markq (n : Nat) (s : State) : (answerStatus n s).markq = s.markq := rfl
@[simp] theorem answerStatus_sources (n : Nat) (s : State) : (answerStatus n s).sources = s.sources := rfl
@[simp] theorem answerStatus_encoders (n : Nat) (s : State) : (answerStatus n s).encoders = s.encoders := rfl
@[simp] theorem answerStatus_mainsAt (n : Nat) (s : State) : (answerStatus n s).mainsAt = s.mainsAt := rfl
@[simp] theorem answerStatus_syncAt (n : Nat) (s : State) : (answerStatus n s).syncAt = s.syncAt := rfl
@[simp] theorem answerStatus_syncGap (n : Nat) (s : State) : (answerStatus n s).syncGap = s.syncGap := rfl
@[simp] theorem answerStatus_dtRate (n : Nat) (s : State) : (answerStatus n s).dtRate = s.dtRate := rfl
@[simp] theorem answerStatus_dtSteered (n : Nat) (s : State) : (answerStatus n s).dtSteered = s.dtSteered := rfl
@[simp] theorem answerStatus_alarms (n : Nat) (s : State) : (answerStatus n s).alarms = s.alarms := rfl
@[simp] theorem answerStatus_fences (n : Nat) (s : State) : (answerStatus n s).fences = s.fences := rfl
@[simp] theorem answerStatus_syncBusy (n : Nat) (s : State) : (answerStatus n s).syncBusy = s.syncBusy := rfl
@[simp] theorem answerStatus_drives (n : Nat) (s : State) : (answerStatus n s).drives = s.drives := rfl
@[simp] theorem answerStatus_abortN (n : Nat) (s : State) : (answerStatus n s).abortN = s.abortN := rfl
@[simp] theorem answerStatus_jobs (n : Nat) (s : State) : (answerStatus n s).jobs = s.jobs := rfl
@[simp] theorem answerStatus_lanes (n : Nat) (s : State) : (answerStatus n s).lanes = s.lanes := rfl
@[simp] theorem answerStatus_links (n : Nat) (s : State) : (answerStatus n s).links = s.links := rfl
@[simp] theorem answerStatus_channels (n : Nat) (s : State) : (answerStatus n s).channels = s.channels := rfl
@[simp] theorem answerStatus_hostFns (n : Nat) (s : State) : (answerStatus n s).hostFns = s.hostFns := rfl
@[simp] theorem answerStatus_cmds (n : Nat) (s : State) : (answerStatus n s).cmds = s.cmds := rfl
@[simp] theorem answerStatus_journal (n : Nat) (s : State) : (answerStatus n s).journal = s.journal := rfl
@[simp] theorem answerStatus_records (n : Nat) (s : State) : (answerStatus n s).records = s.records := rfl
@[simp] theorem answerStatus_exports (n : Nat) (s : State) : (answerStatus n s).exports = s.exports := rfl
@[simp] theorem answerStatus_outbound (n : Nat) (s : State) : (answerStatus n s).outbound = s.outbound := rfl
@[simp] theorem answerStatus_overran (n : Nat) (s : State) : (answerStatus n s).overran = s.overran := rfl
@[simp] theorem answerStatus_activations (n : Nat) (s : State) : (answerStatus n s).activations = s.activations := rfl
@[simp] theorem answerStatus_admAt (n : Nat) (s : State) : (answerStatus n s).admAt = s.admAt := rfl
@[simp] theorem answerStatus_dynAt (n : Nat) (s : State) : (answerStatus n s).dynAt = s.dynAt := rfl
@[simp] theorem answerStatus_clkBad (n : Nat) (s : State) : (answerStatus n s).clkBad = s.clkBad := rfl
@[simp] theorem answerStatus_locking (n : Nat) (s : State) : (answerStatus n s).locking = s.locking := rfl
@[simp] theorem answerStatus_switching (n : Nat) (s : State) : (answerStatus n s).switching = s.switching := rfl
@[simp] theorem answerStatus_throttled (n : Nat) (s : State) : (answerStatus n s).throttled = s.throttled := rfl
@[simp] theorem answerStatus_cool (n : Nat) (s : State) : (answerStatus n s).cool = s.cool := rfl
@[simp] theorem answerStatus_memRecal (n : Nat) (s : State) : (answerStatus n s).memRecal = s.memRecal := rfl
@[simp] theorem answerStatus_skews (n : Nat) (s : State) : (answerStatus n s).skews = s.skews := rfl
@[simp] theorem answerStatus_skewAt (n : Nat) (s : State) : (answerStatus n s).skewAt = s.skewAt := rfl
@[simp] theorem answerStatus_lardSkews (n : Nat) (s : State) : (answerStatus n s).lardSkews = s.lardSkews := rfl
@[simp] theorem answerStatus_lardSkewAt (n : Nat) (s : State) : (answerStatus n s).lardSkewAt = s.lardSkewAt := rfl
@[simp] theorem answerStatus_deferred (n : Nat) (s : State) : (answerStatus n s).deferred = s.deferred := rfl
@[simp] theorem answerStatus_otp (n : Nat) (s : State) : (answerStatus n s).otp = s.otp := rfl
@[simp] theorem answerStatus_boot (n : Nat) (s : State) : (answerStatus n s).boot = s.boot := rfl
@[simp] theorem answerStatus_smbus (n : Nat) (s : State) : (answerStatus n s).smbus = s.smbus := rfl
@[simp] theorem answerStatus_tripped (n : Nat) (s : State) : (answerStatus n s).tripped = s.tripped := rfl
@[simp] theorem answerStatus_moving (n : Nat) (s : State) : (answerStatus n s).moving = s.moving := rfl
@[simp] theorem answerStatus_hostHalf (n : Nat) (s : State) : (answerStatus n s).hostHalf = s.hostHalf := rfl
@[simp] theorem answerStatus_readData (n : Nat) (s : State) : (answerStatus n s).readData = s.readData := rfl
@[simp] theorem answerStatus_postCode (n : Nat) (s : State) : (answerStatus n s).postCode = s.postCode := rfl
@[simp] theorem answerStatus_draw (n : Nat) (s : State) : (answerStatus n s).draw = s.draw := rfl

/-! ### memPut: a cell of memory is stored -/

@[simp] theorem memPut_pending (pa : Nat) (c : Cell) (s : State) : (memPut pa c s).pending = s.pending := rfl
@[simp] theorem memPut_phaseCycles (pa : Nat) (c : Cell) (s : State) : (memPut pa c s).phaseCycles = s.phaseCycles := rfl
@[simp] theorem memPut_dtime (pa : Nat) (c : Cell) (s : State) : (memPut pa c s).dtime = s.dtime := rfl
@[simp] theorem memPut_regs (pa : Nat) (c : Cell) (s : State) : (memPut pa c s).regs = s.regs := rfl
@[simp] theorem memPut_under (pa : Nat) (c : Cell) (s : State) : (memPut pa c s).under = s.under := rfl
@[simp] theorem memPut_lines (pa : Nat) (c : Cell) (s : State) : (memPut pa c s).lines = s.lines := rfl
@[simp] theorem memPut_plru (pa : Nat) (c : Cell) (s : State) : (memPut pa c s).plru = s.plru := rfl
@[simp] theorem memPut_sweeps (pa : Nat) (c : Cell) (s : State) : (memPut pa c s).sweeps = s.sweeps := rfl
@[simp] theorem memPut_larder (pa : Nat) (c : Cell) (s : State) : (memPut pa c s).larder = s.larder := rfl
@[simp] theorem memPut_cores (pa : Nat) (c : Cell) (s : State) : (memPut pa c s).cores = s.cores := rfl
@[simp] theorem memPut_units (pa : Nat) (c : Cell) (s : State) : (memPut pa c s).units = s.units := rfl
@[simp] theorem memPut_mail (pa : Nat) (c : Cell) (s : State) : (memPut pa c s).mail = s.mail := rfl
@[simp] theorem memPut_readySeq (pa : Nat) (c : Cell) (s : State) : (memPut pa c s).readySeq = s.readySeq := rfl
@[simp] theorem memPut_cursors (pa : Nat) (c : Cell) (s : State) : (memPut pa c s).cursors = s.cursors := rfl
@[simp] theorem memPut_seq (pa : Nat) (c : Cell) (s : State) : (memPut pa c s).seq = s.seq := rfl
@[simp] theorem memPut_buckets (pa : Nat) (c : Cell) (s : State) : (memPut pa c s).buckets = s.buckets := rfl
@[simp] theorem memPut_pages (pa : Nat) (c : Cell) (s : State) : (memPut pa c s).pages = s.pages := rfl
@[simp] theorem memPut_faultActs (pa : Nat) (c : Cell) (s : State) : (memPut pa c s).faultActs = s.faultActs := rfl
@[simp] theorem memPut_fabricTlb (pa : Nat) (c : Cell) (s : State) : (memPut pa c s).fabricTlb = s.fabricTlb := rfl
@[simp] theorem memPut_fabricLru (pa : Nat) (c : Cell) (s : State) : (memPut pa c s).fabricLru = s.fabricLru := rfl
@[simp] theorem memPut_racks (pa : Nat) (c : Cell) (s : State) : (memPut pa c s).racks = s.racks := rfl
@[simp] theorem memPut_laundry (pa : Nat) (c : Cell) (s : State) : (memPut pa c s).laundry = s.laundry := rfl
@[simp] theorem memPut_markq (pa : Nat) (c : Cell) (s : State) : (memPut pa c s).markq = s.markq := rfl
@[simp] theorem memPut_sources (pa : Nat) (c : Cell) (s : State) : (memPut pa c s).sources = s.sources := rfl
@[simp] theorem memPut_encoders (pa : Nat) (c : Cell) (s : State) : (memPut pa c s).encoders = s.encoders := rfl
@[simp] theorem memPut_mainsAt (pa : Nat) (c : Cell) (s : State) : (memPut pa c s).mainsAt = s.mainsAt := rfl
@[simp] theorem memPut_syncAt (pa : Nat) (c : Cell) (s : State) : (memPut pa c s).syncAt = s.syncAt := rfl
@[simp] theorem memPut_syncGap (pa : Nat) (c : Cell) (s : State) : (memPut pa c s).syncGap = s.syncGap := rfl
@[simp] theorem memPut_dtRate (pa : Nat) (c : Cell) (s : State) : (memPut pa c s).dtRate = s.dtRate := rfl
@[simp] theorem memPut_dtSteered (pa : Nat) (c : Cell) (s : State) : (memPut pa c s).dtSteered = s.dtSteered := rfl
@[simp] theorem memPut_alarms (pa : Nat) (c : Cell) (s : State) : (memPut pa c s).alarms = s.alarms := rfl
@[simp] theorem memPut_fences (pa : Nat) (c : Cell) (s : State) : (memPut pa c s).fences = s.fences := rfl
@[simp] theorem memPut_syncBusy (pa : Nat) (c : Cell) (s : State) : (memPut pa c s).syncBusy = s.syncBusy := rfl
@[simp] theorem memPut_drives (pa : Nat) (c : Cell) (s : State) : (memPut pa c s).drives = s.drives := rfl
@[simp] theorem memPut_abortN (pa : Nat) (c : Cell) (s : State) : (memPut pa c s).abortN = s.abortN := rfl
@[simp] theorem memPut_jobs (pa : Nat) (c : Cell) (s : State) : (memPut pa c s).jobs = s.jobs := rfl
@[simp] theorem memPut_lanes (pa : Nat) (c : Cell) (s : State) : (memPut pa c s).lanes = s.lanes := rfl
@[simp] theorem memPut_links (pa : Nat) (c : Cell) (s : State) : (memPut pa c s).links = s.links := rfl
@[simp] theorem memPut_channels (pa : Nat) (c : Cell) (s : State) : (memPut pa c s).channels = s.channels := rfl
@[simp] theorem memPut_hostFns (pa : Nat) (c : Cell) (s : State) : (memPut pa c s).hostFns = s.hostFns := rfl
@[simp] theorem memPut_cmds (pa : Nat) (c : Cell) (s : State) : (memPut pa c s).cmds = s.cmds := rfl
@[simp] theorem memPut_journal (pa : Nat) (c : Cell) (s : State) : (memPut pa c s).journal = s.journal := rfl
@[simp] theorem memPut_records (pa : Nat) (c : Cell) (s : State) : (memPut pa c s).records = s.records := rfl
@[simp] theorem memPut_exports (pa : Nat) (c : Cell) (s : State) : (memPut pa c s).exports = s.exports := rfl
@[simp] theorem memPut_outbound (pa : Nat) (c : Cell) (s : State) : (memPut pa c s).outbound = s.outbound := rfl
@[simp] theorem memPut_overran (pa : Nat) (c : Cell) (s : State) : (memPut pa c s).overran = s.overran := rfl
@[simp] theorem memPut_activations (pa : Nat) (c : Cell) (s : State) : (memPut pa c s).activations = s.activations := rfl
@[simp] theorem memPut_admAt (pa : Nat) (c : Cell) (s : State) : (memPut pa c s).admAt = s.admAt := rfl
@[simp] theorem memPut_dynAt (pa : Nat) (c : Cell) (s : State) : (memPut pa c s).dynAt = s.dynAt := rfl
@[simp] theorem memPut_clkBad (pa : Nat) (c : Cell) (s : State) : (memPut pa c s).clkBad = s.clkBad := rfl
@[simp] theorem memPut_locking (pa : Nat) (c : Cell) (s : State) : (memPut pa c s).locking = s.locking := rfl
@[simp] theorem memPut_switching (pa : Nat) (c : Cell) (s : State) : (memPut pa c s).switching = s.switching := rfl
@[simp] theorem memPut_throttled (pa : Nat) (c : Cell) (s : State) : (memPut pa c s).throttled = s.throttled := rfl
@[simp] theorem memPut_cool (pa : Nat) (c : Cell) (s : State) : (memPut pa c s).cool = s.cool := rfl
@[simp] theorem memPut_memRecal (pa : Nat) (c : Cell) (s : State) : (memPut pa c s).memRecal = s.memRecal := rfl
@[simp] theorem memPut_skews (pa : Nat) (c : Cell) (s : State) : (memPut pa c s).skews = s.skews := rfl
@[simp] theorem memPut_skewAt (pa : Nat) (c : Cell) (s : State) : (memPut pa c s).skewAt = s.skewAt := rfl
@[simp] theorem memPut_lardSkews (pa : Nat) (c : Cell) (s : State) : (memPut pa c s).lardSkews = s.lardSkews := rfl
@[simp] theorem memPut_lardSkewAt (pa : Nat) (c : Cell) (s : State) : (memPut pa c s).lardSkewAt = s.lardSkewAt := rfl
@[simp] theorem memPut_deferred (pa : Nat) (c : Cell) (s : State) : (memPut pa c s).deferred = s.deferred := rfl
@[simp] theorem memPut_otp (pa : Nat) (c : Cell) (s : State) : (memPut pa c s).otp = s.otp := rfl
@[simp] theorem memPut_boot (pa : Nat) (c : Cell) (s : State) : (memPut pa c s).boot = s.boot := rfl
@[simp] theorem memPut_smbus (pa : Nat) (c : Cell) (s : State) : (memPut pa c s).smbus = s.smbus := rfl
@[simp] theorem memPut_tripped (pa : Nat) (c : Cell) (s : State) : (memPut pa c s).tripped = s.tripped := rfl
@[simp] theorem memPut_moving (pa : Nat) (c : Cell) (s : State) : (memPut pa c s).moving = s.moving := rfl
@[simp] theorem memPut_hostHalf (pa : Nat) (c : Cell) (s : State) : (memPut pa c s).hostHalf = s.hostHalf := rfl
@[simp] theorem memPut_readData (pa : Nat) (c : Cell) (s : State) : (memPut pa c s).readData = s.readData := rfl
@[simp] theorem memPut_status (pa : Nat) (c : Cell) (s : State) : (memPut pa c s).status = s.status := rfl
@[simp] theorem memPut_postCode (pa : Nat) (c : Cell) (s : State) : (memPut pa c s).postCode = s.postCode := rfl
@[simp] theorem memPut_draw (pa : Nat) (c : Cell) (s : State) : (memPut pa c s).draw = s.draw := rfl

/-! ### Cores -/

@[simp] theorem getCore_setCore_same (k : Nat) (c : CoreState) (s : State) : getCore (setCore k c s) k = c := by
  simp [getCore, setCore]

theorem getCore_setCore_ne (k j : Nat) (c : CoreState) (s : State) (h : j ≠ k) :
    getCore (setCore k c s) j = getCore s j := by
  simp [getCore, setCore, sparseGet_recPut_ne, h]

@[simp] theorem getCore_modCore_same (k : Nat) (f : CoreState → CoreState) (s : State) :
    getCore (modCore k f s) k = f (getCore s k) := by simp [modCore]

theorem getCore_modCore_ne (k j : Nat) (f : CoreState → CoreState) (s : State) (h : j ≠ k) :
    getCore (modCore k f s) j = getCore s j := getCore_setCore_ne k j _ s h

@[simp] theorem getCore_modFront_same (k : Nat) (f : Ctx → Ctx) (s : State) :
    getCore (modFront k f s) k = { getCore s k with front := f (getCore s k).front } := by simp [modFront]

theorem getCore_modFront_ne (k j : Nat) (f : Ctx → Ctx) (s : State) (h : j ≠ k) :
    getCore (modFront k f s) j = getCore s j := getCore_setCore_ne k j _ s h

@[simp] theorem front_modFront_same (k : Nat) (f : Ctx → Ctx) (s : State) :
    front (modFront k f s) k = f (front s k) := by simp [front]

@[simp] theorem front_modCore_same (k : Nat) (f : CoreState → CoreState) (s : State) :
    front (modCore k f s) k = (f (getCore s k)).front := by simp [front]

theorem front_modFront_ne (k j : Nat) (f : Ctx → Ctx) (s : State) (h : j ≠ k) :
    front (modFront k f s) j = front s j := by simp [front, getCore_modFront_ne, h]

theorem front_modCore_ne (k j : Nat) (f : CoreState → CoreState) (s : State) (h : j ≠ k) :
    front (modCore k f s) j = front s j := by simp [front, getCore_modCore_ne, h]

@[simp] theorem getCore_setReg (r : Reg) (i : Nat) (v : Word) (s : State) (k : Nat) :
    getCore (setReg r i v s) k = getCore s k := by rw [setReg_eq]; rfl
@[simp] theorem getCore_fset (f : Fld) (i v : Nat) (s : State) (k : Nat) :
    getCore (fset f i v s) k = getCore s k := getCore_setReg _ _ _ _ _
@[simp] theorem front_setReg (r : Reg) (i : Nat) (v : Word) (s : State) (k : Nat) :
    front (setReg r i v s) k = front s k := by rw [setReg_eq]; rfl
@[simp] theorem front_fset (f : Fld) (i v : Nat) (s : State) (k : Nat) :
    front (fset f i v s) k = front s k := front_setReg _ _ _ _ _

/-! ### Registers -/

/-- A register written is read back. -/
@[simp] theorem getReg_setReg_same (r : Reg) (i : Nat) (v : Word) (s : State) : getReg (setReg r i v s) r i = v :=
  sparseGet_put_same _ _ _ _

/-- A register written leaves the others alone. -/
theorem getReg_setReg_ne (r r' : Reg) (i i' : Nat) (v : Word) (s : State) (h : regKey r' i' ≠ regKey r i) :
    getReg (setReg r i v s) r' i' = getReg s r' i' :=
  sparseGet_put_ne _ _ _ _ h _

/-- The key names the register and its index. -/
theorem regKey_inj {r r' : Reg} {i i' : Nat} (hi : i < 65536) (hi' : i' < 65536) (h : regKey r i = regKey r' i') :
    r.ctorIdx = r'.ctorIdx ∧ i = i' := by
  simp only [regKey] at h
  omega

/-- A write keeps the register map in its canonical form. -/
theorem setReg_wf (r : Reg) (i : Nat) (v : Word) (s : State) (h : sparseWf regDefault s.regs = true) :
    sparseWf regDefault (setReg r i v s).regs = true :=
  sparsePut_wf _ _ _ _ h

/-- Bits read back after they are put. -/
theorem nbits_nput_same (x hi lo v : Nat) :
    nbits (nput x hi lo v) hi lo = v % 2 ^ (hi + 1 - lo) := by
  have hp : 0 < 2 ^ lo := Nat.two_pow_pos lo
  have hq : 0 < 2 ^ (hi + 1 - lo) := Nat.two_pow_pos _
  simp only [nbits, nput]
  generalize 2 ^ lo = P at *
  generalize 2 ^ (hi + 1 - lo) = Q at *
  have hle : x / P % Q * P ≤ x := by
    calc x / P % Q * P ≤ x / P * P := Nat.mul_le_mul_right _ (Nat.mod_le _ _)
      _ ≤ x := Nat.div_mul_le_self _ _
  rw [Nat.add_mul_div_right _ _ hp]
  have h2 : (x - x / P % Q * P) / P = x / P - x / P % Q := by
    have : x - x / P % Q * P = x - P * (x / P % Q) := by rw [Nat.mul_comm]
    rw [this, Nat.sub_mul_div]
  have h3 : x / P - x / P % Q = Q * (x / P / Q) := by
    have := Nat.div_add_mod (x / P) Q
    omega
  rw [h2, h3, Nat.add_comm, Nat.add_mul_mod_self_left, Nat.mod_mod]


/-- A number with a field replaced, by its parts: what lies above, the field, what lies below. -/
theorem nput_parts (x hi lo v : Nat) :
    nput x hi lo v = x % 2 ^ lo + 2 ^ lo * (v % 2 ^ (hi + 1 - lo) + 2 ^ (hi + 1 - lo) * (x / 2 ^ lo / 2 ^ (hi + 1 - lo))) := by
  simp only [nput, nbits]
  generalize 2 ^ lo = P
  generalize 2 ^ (hi + 1 - lo) = Q
  have h1 := Nat.div_add_mod x P
  have h2 := Nat.div_add_mod (x / P) Q
  have h3 : x = P * (Q * (x / P / Q)) + x / P % Q * P + x % P := by
    conv => lhs; rw [← h1, ← h2]
    ring
  have h4 : x - x / P % Q * P = P * (Q * (x / P / Q)) + x % P := by omega
  rw [h4]
  ring

/-- The parts of a number that lie below and above. -/
theorem parts_below (P Q v A C : Nat) (hC : C < P) : (C + P * (v + Q * A)) % P = C := by
  rw [Nat.add_mul_mod_self_left, Nat.mod_eq_of_lt hC]

theorem parts_above (P Q v A C : Nat) (hC : C < P) (hv : v < Q) : (C + P * (v + Q * A)) / P / Q = A := by
  have hP : 0 < P := by omega
  have hQ : 0 < Q := by omega
  rw [Nat.add_mul_div_left _ _ hP, Nat.div_eq_of_lt hC, Nat.zero_add, Nat.add_mul_div_left _ _ hQ,
    Nat.div_eq_of_lt hv, Nat.zero_add]

theorem nput_mod (x hi lo v : Nat) : nput x hi lo v % 2 ^ lo = x % 2 ^ lo := by
  rw [nput_parts]
  exact parts_below _ _ _ _ _ (Nat.mod_lt _ (Nat.two_pow_pos lo))

theorem nput_div (x hi lo v : Nat) (h : lo ≤ hi) : nput x hi lo v / 2 ^ (hi + 1) = x / 2 ^ (hi + 1) := by
  have e : 2 ^ (hi + 1) = 2 ^ lo * 2 ^ (hi + 1 - lo) := by rw [← Nat.pow_add]; congr 1; omega
  rw [nput_parts, e, ← Nat.div_div_eq_div_mul, ← Nat.div_div_eq_div_mul]
  exact parts_above _ _ _ _ _ (Nat.mod_lt _ (Nat.two_pow_pos lo)) (Nat.mod_lt _ (Nat.two_pow_pos _))

theorem nbits_of_mod (x n hi lo : Nat) (h : hi < n) : nbits (x % 2 ^ n) hi lo = nbits x hi lo := by
  simp only [nbits]
  by_cases hl : lo ≤ hi
  · have e : 2 ^ n = 2 ^ lo * 2 ^ (n - lo) := by rw [← Nat.pow_add]; congr 1; omega
    rw [e, Nat.mod_mul_right_div_self, Nat.mod_mod_of_dvd]
    exact Nat.pow_dvd_pow 2 (by omega)
  · have : hi + 1 - lo = 0 := by omega
    simp [this, Nat.mod_one]

/-- A field replaced leaves the fields below and above it alone. -/
theorem nbits_nput_ne (x hi lo v hi' lo' : Nat) (h : lo ≤ hi) (hd : hi' < lo ∨ hi < lo') :
    nbits (nput x hi lo v) hi' lo' = nbits x hi' lo' := by
  rcases hd with hd | hd
  · rw [← nbits_of_mod (nput x hi lo v) lo hi' lo' hd, nput_mod, nbits_of_mod _ _ _ _ hd]
  · simp only [nbits]
    have e : 2 ^ lo' = 2 ^ (hi + 1) * 2 ^ (lo' - (hi + 1)) := by rw [← Nat.pow_add]; congr 1; omega
    rw [e, ← Nat.div_div_eq_div_mul, ← Nat.div_div_eq_div_mul, nput_div _ _ _ _ h]

/-- A word with a field replaced keeps its 64 bits. -/
theorem nput_lt (x hi lo v : Nat) (h : lo ≤ hi) (hh : hi < 64) (hx : x < 2 ^ 64) : nput x hi lo v < 2 ^ 64 := by
  have e : 2 ^ 64 = 2 ^ (hi + 1) * 2 ^ (63 - hi) := by rw [← Nat.pow_add]; congr 1; omega
  have h1 : nput x hi lo v / 2 ^ (hi + 1) < 2 ^ (63 - hi) := by
    rw [nput_div _ _ _ _ h]
    exact Nat.div_lt_of_lt_mul (by rw [← e]; exact hx)
  have h2 := (Nat.div_lt_iff_lt_mul (Nat.two_pow_pos (hi + 1))).mp h1
  rw [Nat.mul_comm] at h2
  rw [e]
  exact h2

theorem putBits_toNat (w : Word) (hi lo v : Nat) (h : lo ≤ hi) (hh : hi < 64) :
    (putBits w hi lo v).toNat = nput w.toNat hi lo v := by
  simp only [putBits, w64, BitVec.toNat_ofNat]
  exact Nat.mod_eq_of_lt (nput_lt _ _ _ _ h hh w.isLt)

theorem bitsOf_putBits_same (w : Word) (hi lo v : Nat) (h : lo ≤ hi) (hh : hi < 64) :
    bitsOf (putBits w hi lo v) hi lo = v % 2 ^ (hi + 1 - lo) := by
  rw [bitsOf, putBits_toNat _ _ _ _ h hh, nbits_nput_same]

theorem bitsOf_putBits_ne (w : Word) (hi lo v hi' lo' : Nat) (h : lo ≤ hi) (hh : hi < 64)
    (hd : hi' < lo ∨ hi < lo') : bitsOf (putBits w hi lo v) hi' lo' = bitsOf w hi' lo' := by
  rw [bitsOf, putBits_toNat _ _ _ _ h hh, nbits_nput_ne _ _ _ _ _ _ h hd, bitsOf]

/-- A field written is read back. -/
theorem fget_fset_same (f : Fld) (i v : Nat) (s : State)
    (h : f.lo ≤ f.hi) (hh : f.hi < 64) : fget (fset f i v s) f i = v % 2 ^ (f.hi + 1 - f.lo) := by
  simp only [fget, fset]
  rw [getReg_setReg_same, bitsOf_putBits_same _ _ _ _ h hh]

/-- A field written leaves the other fields of its register alone. -/
theorem fget_fset_ne (f g : Fld) (i v : Nat) (s : State)
    (hr : g.reg = f.reg) (h : f.lo ≤ f.hi) (hh : f.hi < 64) (hd : g.hi < f.lo ∨ f.hi < g.lo) :
    fget (fset f i v s) g i = fget s g i := by
  simp only [fget, fset, hr]
  rw [getReg_setReg_same, bitsOf_putBits_ne _ _ _ _ _ _ h hh hd]

/-- A field written leaves every other register alone. -/
theorem fget_fset_other (f g : Fld) (i j v : Nat) (s : State) (hk : regKey g.reg j ≠ regKey f.reg i) :
    fget (fset f i v s) g j = fget s g j := by
  simp only [fget, fset]
  rw [getReg_setReg_ne _ _ _ _ _ _ hk]

theorem fset_wf (f : Fld) (i v : Nat) (s : State) (h : sparseWf regDefault s.regs = true) :
    sparseWf regDefault (fset f i v s).regs = true := setReg_wf _ _ _ _ h


end Sys2Proof.Machine
end

