-- ==== Sys2Proof/Laws/Memory.lean ====
section
/-!
SUPPORT. Laws/Memory.lean: every operation over memory and the caches changes memory, the cached lines, what lies below
them and the replacement trees, and nothing else of the state; and it keeps memory in its canonical form.
-/

namespace Sys2Proof.Machine

/-- From `s` to `t` nothing changes but memory and the caches, and memory keeps its canonical form. -/
structure MemOnly (s t : State) : Prop where
  rest : t = { s with
    mem := t.mem
    lines := t.lines
    under := t.under
    plru := t.plru }
  wf : sparseWf memDefault s.mem = true → sparseWf memDefault t.mem = true

theorem MemOnly.refl (s : State) : MemOnly s s := ⟨rfl, id⟩

theorem MemOnly.trans {s t u : State} (h : MemOnly s t) (g : MemOnly t u) : MemOnly s u := by
  refine ⟨?_, fun w => g.wf (h.wf w)⟩
  have e := g.rest
  rw [h.rest] at e
  exact e

/-! ### What does not change -/

theorem MemOnly.regs {s t : State} (h : MemOnly s t) : t.regs = s.regs := by rw [h.rest]
theorem MemOnly.cores {s t : State} (h : MemOnly s t) : t.cores = s.cores := by rw [h.rest]
theorem MemOnly.pending {s t : State} (h : MemOnly s t) : t.pending = s.pending := by rw [h.rest]
theorem MemOnly.cmds {s t : State} (h : MemOnly s t) : t.cmds = s.cmds := by rw [h.rest]
theorem MemOnly.mail {s t : State} (h : MemOnly s t) : t.mail = s.mail := by rw [h.rest]
theorem MemOnly.alarms {s t : State} (h : MemOnly s t) : t.alarms = s.alarms := by rw [h.rest]
theorem MemOnly.jobs {s t : State} (h : MemOnly s t) : t.jobs = s.jobs := by rw [h.rest]
theorem MemOnly.larder {s t : State} (h : MemOnly s t) : t.larder = s.larder := by rw [h.rest]
theorem MemOnly.outbound {s t : State} (h : MemOnly s t) : t.outbound = s.outbound := by rw [h.rest]
theorem MemOnly.dtime {s t : State} (h : MemOnly s t) : t.dtime = s.dtime := by rw [h.rest]

/-! ### Folds -/

theorem MemOnly.foldl {α : Type} (f : State → α → State) (h : ∀ s a, MemOnly s (f s a)) :
    ∀ (l : List α) (s : State), MemOnly s (l.foldl f s)
  | [], s => MemOnly.refl s
  | a :: l, s => (h s a).trans (MemOnly.foldl f h l (f s a))

/-! ### Memory -/

theorem memPut_only (pa : Nat) (c : Cell) (s : State) : MemOnly s (memPut pa c s) :=
  ⟨rfl, fun h => sparsePut_wf _ _ _ _ h⟩

theorem physWrite_only {pa : Nat} {c : Cell} {s t : State} (h : physWrite pa c s = .ok t) : MemOnly s t := by
  unfold physWrite at h
  split at h
  · split at h <;> cases h
    · exact MemOnly.refl s
    · exact memPut_only pa c s
  · split at h <;> cases h
    exact memPut_only pa c s
  · cases h
  · cases h

theorem restore_wf (line : Nat) (u : List Cell) : ∀ (l : List Nat) (m : Sparse Cell), sparseWf memDefault m = true →
    sparseWf memDefault (l.foldl (fun m i => sparsePut memDefault (line * 8 + i) (u.getD i cellVoid) m) m) = true
  | [], _, h => h
  | _ :: l, _, h => restore_wf line u l _ (sparsePut_wf _ _ _ _ h)

theorem lineRestore_only (line : Nat) (u : List Cell) (s : State) : MemOnly s (lineRestore line u s) :=
  ⟨rfl, restore_wf line u _ _⟩

/-! ### Caches -/

theorem underSet_only (c line : Nat) (u : List Cell) (s : State) : MemOnly s (underSet c line u s) := ⟨rfl, id⟩
theorem setDirty_only (c line : Nat) (d : Bool) (s : State) : MemOnly s (setDirty c line d s) := ⟨rfl, id⟩
theorem setLines_only (l : List CacheLine) (s : State) : MemOnly s { s with lines := l } := ⟨rfl, id⟩
theorem touchWay_only (c line w : Nat) (s : State) : MemOnly s (touchWay c line w s) := ⟨rfl, id⟩

theorem cleanLine_only (c line : Nat) (s : State) : MemOnly s (cleanLine c line s) := by
  unfold cleanLine
  split
  · exact MemOnly.refl s
  · split
    · exact MemOnly.refl s
    · have a := (underSet_only c line [] s).trans (setDirty_only c line false _)
      dsimp only
      split
      · exact a
      · refine MemOnly.trans ?_ (setDirty_only _ _ _ _)
        split
        · exact a.trans (underSet_only _ _ _ _)
        · exact a

theorem dropLine_only (c line : Nat) (s : State) : MemOnly s (dropLine c line s) := by
  unfold dropLine
  have a := (setLines_only (s.lines.filter (fun e => !(e.cache == c && e.line == line))) s).trans
    (underSet_only c line [] _)
  dsimp only
  split
  · exact MemOnly.refl s
  · split
    · exact a
    · split
      · split
        · exact a.trans (lineRestore_only _ _ _)
        · exact a.trans (MemOnly.foldl _ (fun s e => underSet_only _ _ _ s) _ _)
      · split
        · exact a.trans (lineRestore_only _ _ _)
        · exact a

theorem recallLine_only (c line : Nat) (s : State) : MemOnly s (recallLine c line s) :=
  (cleanLine_only c line s).trans (dropLine_only c line _)

theorem leaveLine_only (f : Nat → Nat → State → State) (hf : ∀ c l s, MemOnly s (f c l s)) (c line : Nat) (s : State) :
    MemOnly s (leaveLine f c line s) := by
  unfold leaveLine
  split
  · exact (MemOnly.foldl _ (fun t x => hf x line t) _ s).trans (hf c line _)
  · exact hf c line s

theorem touchLine_only (c line : Nat) (s : State) : MemOnly s (touchLine c line s) := by
  unfold touchLine
  split
  · exact touchWay_only _ _ _ s
  · exact MemOnly.refl s

theorem placeLine_only (c line w : Nat) (s : State) : MemOnly s (placeLine c line w s) := by
  unfold placeLine
  refine MemOnly.trans (MemOnly.trans ?_ (setLines_only _ _)) (touchWay_only _ _ _ _)
  split
  · exact leaveLine_only _ recallLine_only _ _ s
  · exact MemOnly.refl s

theorem allocLine_only (c line : Nat) (s : State) : MemOnly s (allocLine c line s) := by
  unfold allocLine
  split
  · exact touchLine_only c line s
  · split
    · exact MemOnly.refl s
    · split
      · exact MemOnly.refl s
      · exact placeLine_only _ _ _ s

theorem fillLower_only (k line : Nat) (nl2 nsc : Bool) (s : State) : MemOnly s (fillLower k line nl2 nsc s) := by
  have a : MemOnly s (if nsc then s else allocLine scCache line s) := by
    split
    · exact MemOnly.refl s
    · exact allocLine_only _ _ s
  unfold fillLower
  dsimp only
  generalize (if nsc then s else allocLine scCache line s) = s1 at a ⊢
  split
  · exact a
  · exact a.trans (allocLine_only (l2Of (k / 8)) line s1)

theorem fillFor_only (k l1 line : Nat) (nl2 nsc : Bool) (s : State) : MemOnly s (fillFor k l1 line nl2 nsc s) := by
  have a := fillLower_only k line nl2 nsc s
  unfold fillFor
  dsimp only
  split
  · exact a.trans (allocLine_only _ _ _)
  · exact a

theorem snoopRead_only (k line : Nat) (s : State) : MemOnly s (snoopRead k line s) := by
  refine MemOnly.foldl _ (fun t e => ?_) _ s
  split
  · split
    · exact recallLine_only _ _ t
    · split
      · exact cleanLine_only _ _ t
      · exact MemOnly.refl t
  · exact MemOnly.refl t

theorem snoopWrite_only (keep : Nat → Bool) (line : Nat) (s : State) : MemOnly s (snoopWrite keep line s) := by
  unfold snoopWrite
  exact (MemOnly.foldl _ (fun t (e : CacheLine) => recallLine_only e.cache line t) _ s).trans
    (MemOnly.foldl _ (fun t (e : CacheLine) => recallLine_only e.cache line t) _ _)

theorem dirtyLine_only (c line : Nat) (s : State) : MemOnly s (dirtyLine c line s) := by
  unfold dirtyLine
  split
  · refine MemOnly.trans ?_ (setDirty_only _ _ _ _)
    split
    · exact underSet_only _ _ _ s
    · exact MemOnly.refl s
  · exact MemOnly.refl s

theorem cleanCaches_only (pick : Nat → Bool) (s : State) : MemOnly s (cleanCaches pick s) := by
  unfold cleanCaches
  exact (MemOnly.foldl _ (fun t (e : CacheLine) => recallLine_only e.cache e.line t) _ s).trans
    (MemOnly.foldl _ (fun t (e : CacheLine) => leaveLine_only _ recallLine_only e.cache e.line t) _ _)

/-! ### Writes at the coherence point -/

theorem exposeLine_only (own : Option Nat) (line : Nat) (s : State) : MemOnly s (exposeLine own line s) := by
  unfold exposeLine
  split
  · exact ((snoopWrite_only _ _ s).trans (dirtyLine_only _ _ _)).trans (touchLine_only _ _ _)
  · exact ((snoopWrite_only _ _ s).trans (dirtyLine_only _ _ _)).trans (touchLine_only _ _ _)

theorem cohWriteBy_only {own : Option Nat} {pa : Nat} {c : Cell} {s t : State} (h : cohWriteBy own pa c s = .ok t) :
    MemOnly s t := by
  unfold cohWriteBy at h
  dsimp only at h
  split at h
  · exact (exposeLine_only _ _ s).trans (physWrite_only h)
  · exact physWrite_only h

theorem cohWrite_only {pa : Nat} {c : Cell} {s t : State} (h : cohWrite pa c s = .ok t) : MemOnly s t := cohWriteBy_only h

theorem yieldLine_only (c line : Nat) (s : State) : MemOnly s (yieldLine c line s) := by
  unfold yieldLine
  exact (cleanLine_only c line s).trans ⟨rfl, id⟩

/-- A read by an engine changes caches and nothing else. -/
theorem agentRead_only (line : Nat) (s : State) : MemOnly s (agentRead line s) := by
  unfold agentRead
  split
  · refine MemOnly.trans (MemOnly.foldl _ (fun t (e : CacheLine) => ?_) _ s) (touchLine_only _ _ _)
    split
    · exact yieldLine_only _ _ t
    · exact MemOnly.refl t
  · exact MemOnly.refl s

theorem setDirty_mem (c line : Nat) (d : Bool) (s : State) : (setDirty c line d s).mem = s.mem := rfl

theorem cleanLine_mem (c line : Nat) (s : State) : (cleanLine c line s).mem = s.mem := by
  unfold cleanLine
  split
  · rfl
  · split
    · rfl
    · dsimp only
      split
      · rfl
      · refine Eq.trans (setDirty_mem _ _ _ _) ?_
        split <;> rfl

/-- What agents read of memory stays as it is. -/
theorem agentRead_mem (line : Nat) (s : State) : (agentRead line s).mem = s.mem := by
  have fold : ∀ (l : List CacheLine) (t : State), (l.foldl (fun t e =>
      if e.line == line && e.dirty && decide (e.cache < 128) then yieldLine e.cache line t else t) t).mem = t.mem := by
    intro l
    induction l with
    | nil => exact fun t => rfl
    | cons e l ih =>
      intro t
      rw [List.foldl_cons, ih]
      split
      · exact cleanLine_mem e.cache line t
      · rfl
  unfold agentRead
  split
  · refine Eq.trans ?_ (fold s.lines s)
    unfold touchLine
    split <;> rfl
  · rfl

theorem seenBytes_only (pa n : Nat) (s : State) : MemOnly s (seenBytes pa n s) :=
  MemOnly.foldl _ (fun t (e : CacheLine) => agentRead_only e.line t) _ s

theorem cohPut_only (pa : Nat) (c : Cell) (s : State) : MemOnly s (cohPut pa c s) := by
  unfold cohPut
  split
  · exact cohWrite_only (by assumption)
  · exact MemOnly.refl s

theorem cohPuts_only : ∀ (pa : Nat) (l : List Cell) (s : State), MemOnly s (cohPuts pa l s)
  | _, [], s => MemOnly.refl s
  | pa, c :: cs, s => (cohPut_only pa c s).trans (cohPuts_only (pa + 8) cs _)

end Sys2Proof.Machine
end

