-- ==== Sys2Proof/Laws/Engines.lean ====
section
/-!
SUPPORT. Laws/Engines.lean: what the reads of engines do: caches follow them, memory and everything else stays.
-/

namespace Sys2Proof.Machine

theorem seenCells_only (o : Option Nat) (a n : Nat) (s : State) : MemOnly s (seenCells o a n s) := by
  unfold seenCells
  refine MemOnly.foldl _ (fun t (i : Nat) => ?_) _ s
  split
  · exact agentRead_only _ t
  · exact MemOnly.refl t

theorem seenSamples_only (o : Option Nat) (i lo hi : Nat) (s : State) : MemOnly s (seenSamples o i lo hi s) :=
  MemOnly.foldl _ (fun t (_ : Nat) => (seenCells_only _ _ _ t).trans (seenCells_only _ _ _ _)) _ s

theorem seenCells_mem (o : Option Nat) (a n : Nat) (s : State) : (seenCells o a n s).mem = s.mem := by
  have fold : ∀ (l : List Nat) (t : State), (l.foldl (fun t i =>
      match spacePa s o .load (a / 64 * 64 + 64 * i) with
      | .ok pa => agentRead (pa / 64) t
      | .error _ => t) t).mem = t.mem := by
    intro l
    induction l with
    | nil => exact fun t => rfl
    | cons i l ih =>
      intro t
      rw [List.foldl_cons, ih]
      split
      · exact agentRead_mem _ t
      · rfl
  exact fold _ s

end Sys2Proof.Machine
end

