-- ==== Sys2Proof/Laws/Forms.lean ====
section
/-!
SUPPORT. Laws/Forms.lean: what every shared operation keeps: the canonical forms of memory and of the register map, and the
queue of commands. The invariants over a whole step follow from these, operation by operation.
-/

namespace Sys2Proof.Machine

/-- From `s` to `t` the canonical forms are kept, and no command enters or leaves the queue. -/
structure Keeps (s t : State) : Prop where
  mem : sparseWf memDefault s.mem = true → sparseWf memDefault t.mem = true
  regs : sparseWf regDefault s.regs = true → sparseWf regDefault t.regs = true
  pending : t.pending = s.pending

theorem Keeps.refl (s : State) : Keeps s s := ⟨id, id, rfl⟩
theorem Keeps.trans {s t u : State} (h : Keeps s t) (g : Keeps t u) : Keeps s u :=
  ⟨fun w => g.mem (h.mem w), fun w => g.regs (h.regs w), g.pending.trans h.pending⟩

/-- A change of other fields only. -/
theorem Keeps.of_eq {s t : State} (hm : t.mem = s.mem) (hr : t.regs = s.regs) (hp : t.pending = s.pending) : Keeps s t :=
  ⟨fun w => by rw [hm]; exact w, fun w => by rw [hr]; exact w, hp⟩

theorem Keeps.of_memOnly {s t : State} (h : MemOnly s t) : Keeps s t :=
  ⟨h.wf, fun w => by rw [h.regs]; exact w, h.pending⟩

theorem Keeps.foldl {α : Type} (f : State → α → State) (h : ∀ s a, Keeps s (f s a)) :
    ∀ (l : List α) (s : State), Keeps s (l.foldl f s)
  | [], s => Keeps.refl s
  | a :: l, s => (h s a).trans (Keeps.foldl f h l (f s a))

theorem Keeps.ite {s t u : State} {c : Bool} (ht : Keeps s t) (hu : Keeps s u) : Keeps s (if c then t else u) := by
  cases c
  · exact hu
  · exact ht

/-! ### Registers, cores, events -/

theorem setReg_keeps (r : Reg) (i : Nat) (v : Word) (s : State) : Keeps s (setReg r i v s) :=
  ⟨fun w => by rw [setReg_mem]; exact w, fun w => setReg_wf _ _ _ _ w, setReg_pending _ _ _ _⟩
theorem fset_keeps (f : Fld) (i v : Nat) (s : State) : Keeps s (fset f i v s) := setReg_keeps _ _ _ _
theorem countUp_keeps (r : Reg) (i n : Nat) (s : State) : Keeps s (countUp r i n s) := setReg_keeps _ _ _ _
theorem countSat_keeps (f : Fld) (i n : Nat) (s : State) : Keeps s (countSat f i n s) := fset_keeps _ _ _ _
theorem setCore_keeps (k : Nat) (c : CoreState) (s : State) : Keeps s (setCore k c s) := Keeps.of_eq rfl rfl rfl
theorem modCore_keeps (k : Nat) (f : CoreState → CoreState) (s : State) : Keeps s (modCore k f s) :=
  Keeps.of_eq rfl rfl rfl
theorem raiseEvent_keeps (k e : Nat) (s : State) : Keeps s (raiseEvent k e s) := modCore_keeps _ _ _
theorem raiseKeeper_keeps (e : Nat) (s : State) : Keeps s (raiseKeeper e s) := raiseEvent_keeps _ _ _

theorem raisePart_keeps (p i : Nat) (s : State) : Keeps s (raisePart p i s) := by
  unfold raisePart
  split
  · exact Keeps.refl s
  · exact raiseEvent_keeps _ _ s

theorem cohPuts_keeps (pa : Nat) (l : List Cell) (s : State) : Keeps s (cohPuts pa l s) :=
  Keeps.of_memOnly (cohPuts_only pa l s)

/-! ### Fault records and windows (R437, R438, R444) -/

theorem logFault_keeps (r : FaultRec) (s : State) : Keeps s (logFault r s) := by
  unfold logFault
  dsimp only
  have full := countUp_keeps .FLT_LOST 0 1 s
  split
  · split
    · exact full.trans (raiseKeeper_keeps _ _)
    · refine Keeps.trans ?_ (raiseKeeper_keeps _ _)
      split
      · exact ((cohPuts_keeps _ _ s).trans (fset_keeps _ _ _ _)).trans (raiseKeeper_keeps _ _)
      · exact (cohPuts_keeps _ _ s).trans (fset_keeps _ _ _ _)
  · split
    · exact full
    · split
      · exact ((cohPuts_keeps _ _ s).trans (fset_keeps _ _ _ _)).trans (raiseKeeper_keeps _ _)
      · exact (cohPuts_keeps _ _ s).trans (fset_keeps _ _ _ _)

theorem withActs_keeps {s u : State} (l : List FaultAct) (h : Keeps s u) : Keeps s { u with faultActs := l } :=
  ⟨h.mem, h.regs, h.pending⟩
theorem withBuckets_keeps {s u : State} (m : Sparse (List (Nat × Nat))) (h : Keeps s u) : Keeps s { u with buckets := m } :=
  ⟨h.mem, h.regs, h.pending⟩

theorem declare_keeps (cls unit row pa sum : Nat) (s : State) : Keeps s (declare cls unit row pa sum s) := by
  have a (r : FaultRec) := (logFault_keeps r s).trans (raiseKeeper_keeps 0x15 _)
  unfold declare
  refine withActs_keeps _ ?_
  split
  · exact a _
  · exact ((a _).trans (countSat_keeps _ _ _ _)).trans (fset_keeps _ _ _ _)

theorem countFault_keeps (cls unit : Nat) (uncorr : Bool) (row pa : Nat) (s : State) :
    Keeps s (countFault cls unit uncorr row pa s) := by
  have a := countSat_keeps (if uncorr then fldFLT_CNT_UNCORRECTABLE else fldFLT_CNT_CORRECTED) unit 1 s
  unfold countFault
  dsimp only
  generalize countSat (if uncorr then fldFLT_CNT_UNCORRECTABLE else fldFLT_CNT_CORRECTED) unit 1 s = s1 at a ⊢
  split
  · exact a
  · have b (m : Sparse (List (Nat × Nat))) (v : Nat) := (withBuckets_keeps m a).trans (fset_keeps fldFLT_WSUM_S unit v _)
    split
    · exact (b _ _).trans (declare_keeps _ _ _ _ _ _)
    · exact b _ _

theorem logEvent_keeps (cls unit origin detail pa : Nat) (uncorr : Bool) (s : State) :
    Keeps s (logEvent cls unit origin detail pa uncorr s) := by
  unfold logEvent
  split
  · exact logFault_keeps _ s
  · split
    · exact logFault_keeps _ s
    · exact Keeps.refl s

theorem faultEvent_keeps (cls unit origin detail pa : Nat) (uncorr : Bool) (s : State) :
    Keeps s (faultEvent cls unit origin detail pa uncorr s) :=
  (logEvent_keeps _ _ _ _ _ _ s).trans (countFault_keeps _ _ _ _ _ _)

end Sys2Proof.Machine
end

