-- ==== Sys2Proof/Laws/Instr.lean ====
section
/-!
SUPPORT. Laws/Instr.lean: what the shared frame of an instruction can do: run, check its operands, trap, complete; and
what a register-only instruction leaves alone.
-/

namespace Sys2Proof.Machine

/-! ### The frame of an instruction -/

/-- An instruction whose body completes. -/
theorem runInstr_completes {k : CoreId} {s s1 s2 : State} {f : Flow} {body : Body} (h : Ready k s s1)
    (hb : body s1 = .ok (s2, f)) : runInstr k body s = .next (finish k.val f s2) := by
  simp [runInstr, h.1, h.2, hb]

/-- An instruction whose body raises a trap. -/
theorem runInstr_traps {k : CoreId} {s s1 : State} {t : Trap} {body : Body} (h : Ready k s s1)
    (hb : body s1 = .error t) : runInstr k body s = .next (takeTrap k.val t s1) := by
  simp [runInstr, h.1, h.2, hb]

/-- A core that does not execute leaves the state alone. -/
theorem runInstr_stopped {k : CoreId} {s : State} {body : Body} (h : canRun s k.val = false) :
    runInstr k body s = .next s := by
  simp [runInstr, h]

/-- All that the frame of an instruction can answer: always a next state. -/
theorem runInstr_cases (k : CoreId) (body : Body) (s : State) :
    (canRun s k.val = false ∧ runInstr k body s = .next s) ∨
    (∃ f, canRun s k.val = true ∧ preScan k.val s = .error f ∧
      runInstr k body s = .next (takeTrap k.val (xTrap f .load (w64 f.ipa)) s)) ∨
    (∃ s1 t, Ready k s s1 ∧ body s1 = .error t ∧ runInstr k body s = .next (takeTrap k.val t s1)) ∨
    (∃ s1 s2 f, Ready k s s1 ∧ body s1 = .ok (s2, f) ∧ runInstr k body s = .next (finish k.val f s2)) := by
  cases hc : canRun s k.val
  · exact .inl ⟨rfl, runInstr_stopped hc⟩
  · right
    cases hp : preScan k.val s with
    | error f => exact .inl ⟨f, rfl, rfl, by simp [runInstr, hc, hp]⟩
    | ok s1 =>
      right
      cases hb : body s1 with
      | error t => exact .inl ⟨s1, t, ⟨hc, hp⟩, hb, runInstr_traps ⟨hc, hp⟩ hb⟩
      | ok p => exact .inr ⟨s1, p.1, p.2, ⟨hc, hp⟩, hb, runInstr_completes ⟨hc, hp⟩ hb⟩

/-! ### Operand checks -/

/-- No operand is POISON, VOID or badly tagged: no trap. -/
theorem checkOps_ok (ops : List Opnd)
    (h : ∀ o ∈ ops, o.cell.tag ≠ tagPoison ∧ o.cell.tag ≠ tagVoid ∧ o.bad = none) : checkOps ops = .ok () := by
  have h1 : ops.find? (fun o => o.cell.tag == tagPoison) = none := by
    rw [List.find?_eq_none]; intro o ho; simpa using (h o ho).1
  have h2 : ops.find? (fun o => o.cell.tag == tagVoid) = none := by
    rw [List.find?_eq_none]; intro o ho; simpa using (h o ho).2.1
  have h3 : ops.find? (fun o => o.bad.isSome) = none := by
    rw [List.find?_eq_none]; intro o ho; simp [(h o ho).2.2]
  simp only [checkOps, h1, h2, h3]

/-- What an operand of given tags is. -/
theorem opTags_cell (s : State) (k : Nat) (r : Gpr) (ok : Tag → Bool) : (opTags s k r ok).cell = readReg s k r := rfl
theorem opTags_reg (s : State) (k : Nat) (r : Gpr) (ok : Tag → Bool) : (opTags s k r ok).reg = r.val := rfl
theorem opTags_good (s : State) (k : Nat) (r : Gpr) (ok : Tag → Bool) (h : ok (readReg s k r).tag = true)
    (hr : isReservedTag (readReg s k r).tag = false) : (opTags s k r ok).bad = none := by
  simp [opTags, h, hr]
theorem opTags_soft (s : State) (k : Nat) (r : Gpr) (ok : Tag → Bool) (h : ok (readReg s k r).tag = false)
    (hr : isReservedTag (readReg s k r).tag = false) : (opTags s k r ok).bad = some 1 := by
  simp [opTags, h, hr]

/-- The two tags of raw operands are neither POISON, VOID nor reserved. -/
theorem RawCell.plain {c : Cell} (h : RawCell c) :
    c.tag ≠ tagPoison ∧ c.tag ≠ tagVoid ∧ isReservedTag c.tag = false ∧ tagRaw c.tag = true := by
  rcases h with h | h <;> rw [h] <;> decide

theorem opTags_raw {s : State} {k : Nat} {r : Gpr} (h : RawCell (readReg s k r)) :
    (opTags s k r tagRaw).cell.tag ≠ tagPoison ∧ (opTags s k r tagRaw).cell.tag ≠ tagVoid ∧
      (opTags s k r tagRaw).bad = none :=
  ⟨h.plain.1, h.plain.2.1, opTags_good _ _ _ _ h.plain.2.2.2 h.plain.2.2.1⟩

/-- Two operands of which the first is POISON. -/
theorem checkOps_poison {o1 o2 : Opnd} (h : o1.cell.tag = tagPoison) :
    checkOps [o1, o2] = .error (trapOn vPoisonUse 0 o1.reg tagPoison) := by
  have e : (o1.cell.tag == tagPoison) = true := beq_of_eq h
  have r : trapOn vPoisonUse 0 o1.reg tagPoison = trapOn vPoisonUse 0 o1.reg o1.cell.tag := by rw [h]
  rw [r]
  simp only [checkOps, List.find?_cons, e]

/-- Two operands of which the first is VOID, the other no POISON. -/
theorem checkOps_void {o1 o2 : Opnd} (h : o1.cell.tag = tagVoid) (h2 : o2.cell.tag ≠ tagPoison) :
    checkOps [o1, o2] = .error (trapOn vVoidUse 0 o1.reg tagVoid) := by
  have e1 : (o1.cell.tag == tagPoison) = false := by rw [h]; decide
  have e2 : (o2.cell.tag == tagPoison) = false := beq_false_of_ne h2
  have e3 : (o1.cell.tag == tagVoid) = true := beq_of_eq h
  have r : trapOn vVoidUse 0 o1.reg tagVoid = trapOn vVoidUse 0 o1.reg o1.cell.tag := by rw [h]
  rw [r]
  simp only [checkOps, List.find?_cons, List.find?_nil, e1, e2, e3]

/-- Two operands neither POISON nor VOID: the first badly tagged one is reported. -/
theorem checkOps_bad {o1 o2 : Opnd} (h1 : o1.cell.tag ≠ tagPoison) (h2 : o1.cell.tag ≠ tagVoid)
    (h3 : o2.cell.tag ≠ tagPoison) (h4 : o2.cell.tag ≠ tagVoid) (d : Nat) :
    (o1.bad = some d → checkOps [o1, o2] = .error (trapOn vTagCheck d o1.reg o1.cell.tag)) ∧
    (o1.bad = none → o2.bad = some d → checkOps [o1, o2] = .error (trapOn vTagCheck d o2.reg o2.cell.tag)) := by
  have e1 : (o1.cell.tag == tagPoison) = false := beq_false_of_ne h1
  have e2 : (o1.cell.tag == tagVoid) = false := beq_false_of_ne h2
  have e3 : (o2.cell.tag == tagPoison) = false := beq_false_of_ne h3
  have e4 : (o2.cell.tag == tagVoid) = false := beq_false_of_ne h4
  constructor
  · intro h
    simp only [checkOps, List.find?_cons, List.find?_nil, e1, e2, e3, e4, h, Option.isSome_some, Option.getD_some]
  · intro h h'
    simp only [checkOps, List.find?_cons, List.find?_nil, e1, e2, e3, e4, h, h', Option.isSome_some, Option.isSome_none,
      Option.getD_some]

/-- Any other tag is no raw tag. -/
theorem tagRaw_false {c : Cell} (h : ¬ RawCell c) : tagRaw c.tag = false := by
  simp only [RawCell, not_or] at h
  simp only [tagRaw, Bool.or_eq_false_iff]
  exact ⟨beq_false_of_ne h.1, beq_false_of_ne h.2⟩

/-- A check that passes lets the body go on. -/
theorem withOps_ok {ops : List Opnd} (h : checkOps ops = .ok ()) (b : Except Trap (State × Flow)) :
    withOps ops b = b := by
  simp [withOps, h]

theorem withOps_err {ops : List Opnd} {t : Trap} (h : checkOps ops = .error t) (b : Except Trap (State × Flow)) :
    withOps ops b = .error t := by
  simp [withOps, h]

theorem guardTrap_ok {bad : Bool} (h : bad = false) (t : Trap) (b : Except Trap (State × Flow)) :
    guardTrap bad t b = b := by simp [guardTrap, h]
theorem guardTrap_err {bad : Bool} (h : bad = true) (t : Trap) (b : Except Trap (State × Flow)) :
    guardTrap bad t b = .error t := by simp [guardTrap, h]

theorem withOps_raw1 {s : State} {k : Nat} {ra : Gpr} (ha : RawCell (readReg s k ra)) (b : Except Trap (State × Flow)) :
    withOps [opTags s k ra tagRaw] b = b := by
  apply withOps_ok
  apply checkOps_ok
  intro o ho
  rcases List.mem_singleton.mp ho with rfl
  exact opTags_raw ha

theorem withOps_raw2 {s : State} {k : Nat} {ra rb : Gpr} (ha : RawCell (readReg s k ra)) (hb : RawCell (readReg s k rb))
    (b : Except Trap (State × Flow)) : withOps [opTags s k ra tagRaw, opTags s k rb tagRaw] b = b := by
  apply withOps_ok
  apply checkOps_ok
  simp only [List.forall_mem_cons]
  exact ⟨opTags_raw ha, opTags_raw hb, fun _ h => absurd h List.not_mem_nil⟩

theorem withOps_raw3 {s : State} {k : Nat} {ra rb rc : Gpr} (ha : RawCell (readReg s k ra))
    (hb : RawCell (readReg s k rb)) (hc : RawCell (readReg s k rc)) (b : Except Trap (State × Flow)) :
    withOps [opTags s k ra tagRaw, opTags s k rb tagRaw, opTags s k rc tagRaw] b = b := by
  apply withOps_ok
  apply checkOps_ok
  simp only [List.forall_mem_cons]
  exact ⟨opTags_raw ha, opTags_raw hb, opTags_raw hc, fun _ h => absurd h List.not_mem_nil⟩

/-- The result tag of R82. -/
theorem rawTag_eq (a b : Tag) : rawTag a b = if a = tagRaw64 ∨ b = tagRaw64 then tagRaw64 else tagFix := by
  simp only [rawTag, Bool.or_eq_true, beq_iff_eq]

/-- An instruction that completes with a result. -/
theorem runInstr_gives {k : CoreId} {rd : Gpr} {v : Cell} {s s1 s2 : State} {body : Body} (h : Ready k s s1)
    (hb : body s1 = done k rd v s2) : runInstr k body s = gives k rd v s2 := by
  rw [runInstr_completes h (s2 := writeReg k.val rd v s2) (f := .seq) (by rw [hb]; rfl)]
  rfl

end Sys2Proof.Machine
end

