-- ==== Sys2Proof/WellFormed.lean ====
section
/-!
DEFINITION. WellFormed.lean: which commands an agent can send at all. Fields of a fixed width are bounded by their types; this
file bounds the operands whose length the types leave open. The machine gives every command a meaning, well formed or not.
-/

namespace Sys2Proof

/-- A posted descriptor has 1 to 8 cells (R101, R345). -/
def descWf (desc : List Cell) : Bool := decide (1 ≤ desc.length) && decide (desc.length ≤ 8)

/-- A word and byte count the host can answer: at most 2^30 bytes in one transfer (R345). -/
def bytesWf (bytes : List (BitVec 8)) : Bool := decide (bytes.length ≤ 2 ^ 30)

/-- A bundle as a lane delivers it: four header words and a payload of at most 2,047 cells, the
most LEN can say; one above 1,024 is corrupt, and is discarded (R285, R286). -/
def bundleWf (hdr payload : List Word) : Bool := hdr.length == 4 && decide (payload.length ≤ 2047)

/-- A descriptor in host memory is four words at version 1 and eight at versions 2 and 3 (R343, R350). -/
def wordsWf (words : List Word) : Bool := words.length == 4 || words.length == 8

/-- Well-formed commands. -/
def WellFormed (i : Instr) : Bool :=
  match i with
  | .regBadAccess _ _ _ size _ => decide (1 ≤ size) && decide (size ≤ 8)
  | .memSkewWindow lines => lines.length == 8
  | .lardSkewWindow _ lines => lines.length == 8
  | .thermalSample temps => temps.length == 16
  | .rackAdd _ desc => descWf desc
  | .rackRemove _ desc => descWf desc
  | .ncycle _ desc => descWf desc
  | .mcycle _ desc => descWf desc
  | .allocLarge _ desc => descWf desc
  | .taskStart _ _ desc => descWf desc
  | .taskHold _ _ desc => descWf desc
  | .taskRelease _ _ desc => descWf desc
  | .taskKill _ _ desc => descWf desc
  | .taskRerole _ _ desc => descWf desc
  | .taskWake _ _ desc => descWf desc
  | .alarmArm _ desc => descWf desc
  | .alarmCancel _ desc => descWf desc
  | .rsmpStart _ _ desc => descWf desc
  | .rsmpStop _ _ desc => descWf desc
  | .specRun _ _ desc => descWf desc
  | .specArm _ _ desc => descWf desc
  | .specDisarm _ _ desc => descWf desc
  | .specResetAvg _ _ desc => descWf desc
  | .configRead _ desc => descWf desc
  | .configWrite _ desc => descWf desc
  | .driveFrame _ desc => descWf desc
  | .driveArm _ desc => descWf desc
  | .driveDisarm _ desc => descWf desc
  | .driveAbort _ desc => descWf desc
  | .driveClear _ desc => descWf desc
  | .fwFetch _ desc => descWf desc
  | .fwComplete _ desc => descWf desc
  | .taskRecord _ desc => descWf desc
  | .verify _ desc => descWf desc
  | .quote _ desc => descWf desc
  | .epochAdv _ desc => descWf desc
  | .mcLoad _ desc => descWf desc
  | .bundleReceive _ _ hdr payload _ => bundleWf hdr payload
  | .fnRestore _ recs => recs.all (fun w => w.length == 4)
  | .descriptorFetch _ _ words => wordsWf words
  | .hostWrite _ _ bytes _ => bytesWf bytes
  | .darningStep _ fixed lost _ => decide (fixed.length ≤ 64) && decide (lost.length ≤ 64)
  | .regReadLowHalf _ _ => true
  | .regReadHighHalf _ _ => true
  | .registerWrite _ _ _ _ => true
  | .mov _ _ _ => true
  | .addr _ _ _ _ => true
  | .subr _ _ _ _ => true
  | .and _ _ _ _ => true
  | .or _ _ _ _ => true
  | .xor _ _ _ _ => true
  | .andn _ _ _ _ => true
  | .shl _ _ _ _ => true
  | .shr _ _ _ _ => true
  | .sar _ _ _ _ => true
  | .ror _ _ _ _ => true
  | .cmpeqr _ _ _ _ => true
  | .cmplt _ _ _ _ => true
  | .cmpltu _ _ _ _ => true
  | .addi _ _ _ _ => true
  | .addiw _ _ _ _ => true
  | .andi _ _ _ _ => true
  | .ori _ _ _ _ => true
  | .xori _ _ _ _ => true
  | .shi _ _ _ _ => true
  | .cmpi _ _ _ _ => true
  | .movw _ _ _ => true
  | .shlw _ _ _ => true
  | .bfx _ _ _ _ => true
  | .bfxu _ _ _ _ => true
  | .bfi _ _ _ _ => true
  | .clz _ _ _ => true
  | .ctz _ _ _ => true
  | .popc _ _ _ => true
  | .bperm _ _ _ _ => true
  | .muls _ _ _ _ => true
  | .mulu _ _ _ _ => true
  | .divs _ _ _ _ => true
  | .divu _ _ _ _ => true
  | .mhMlProductWrite _ => true
  | .add _ _ _ _ => true
  | .sub _ _ _ _ => true
  | .mul _ _ _ _ => true
  | .div _ _ _ _ => true
  | .eq _ _ _ _ => true
  | .lt _ _ _ _ => true
  | .le _ _ _ _ => true
  | .mkmeas _ _ _ _ => true
  | .mval _ _ _ => true
  | .munit _ _ _ => true
  | .mflag _ _ _ => true
  | .qor _ _ _ _ => true
  | .qclr _ _ _ _ => true
  | .conv _ _ _ _ => true
  | .msqrt _ _ _ => true
  | .utset _ _ _ _ => true
  | .tagr _ _ _ => true
  | .tcls _ _ _ => true
  | .tset _ _ _ _ => true
  | .btag _ _ _ _ _ _ _ => true
  | .bntag _ _ _ _ _ _ _ => true
  | .ldc _ _ _ _ => true
  | .ldw _ _ _ _ => true
  | .ldwu _ _ _ _ => true
  | .ldh _ _ _ _ => true
  | .ldhu _ _ _ _ => true
  | .ldb _ _ _ _ => true
  | .ldbu _ _ _ _ => true
  | .stc _ _ _ _ => true
  | .stw _ _ _ _ => true
  | .sth _ _ _ _ => true
  | .stb _ _ _ _ => true
  | .cas _ _ _ _ _ => true
  | .car _ _ _ => true
  | .cdr _ _ _ => true
  | .setcar _ _ _ _ => true
  | .setcdr _ _ _ _ => true
  | .eqq _ _ _ _ => true
  | .vlen _ _ _ => true
  | .vref _ _ _ _ => true
  | .vset _ _ _ _ => true
  | .lwalk _ _ _ _ => true
  | .memq _ _ _ _ => true
  | .assq _ _ _ _ => true
  | .bcopy _ _ _ _ => true
  | .phrd _ _ _ => true
  | .phat _ _ _ _ => true
  | .phst _ _ _ => true
  | .phmk _ _ _ _ => true
  | .phrev _ _ _ => true
  | .phfr _ _ _ => true
  | .nop _ => true
  | .jmp _ _ => true
  | .jmpl _ _ => true
  | .ret _ => true
  | .call _ _ => true
  | .ba _ _ _ _ _ => true
  | .bn _ _ _ _ _ => true
  | .bnil _ _ _ _ _ => true
  | .bnnil _ _ _ _ _ => true
  | .bz _ _ _ _ _ => true
  | .bnz _ _ _ _ _ => true
  | .bltz _ _ _ _ _ => true
  | .bgez _ _ _ _ _ => true
  | .blez _ _ _ _ _ => true
  | .bgtz _ _ _ _ _ => true
  | .bnan _ _ _ _ _ => true
  | .enter _ => true
  | .leave _ => true
  | .spillw _ => true
  | .fillw _ => true
  | .retx _ => true
  | .trap _ _ => true
  | .fenceM _ => true
  | .fenceP _ => true
  | .fenceT _ => true
  | .fenceH _ => true
  | .mfs _ _ _ _ => true
  | .mts _ _ _ _ => true
  | .mtsPstat _ _ _ => true
  | .mtsWstat _ _ _ => true
  | .mtsTprog _ _ _ => true
  | .predRekey _ _ _ => true
  | .predFlush _ _ _ => true
  | .wait _ _ _ => true
  | .yieldCore _ => true
  | .send _ _ _ _ => true
  | .recv _ _ _ => true
  | .post _ _ _ _ => true
  | .tlbiVa _ _ _ => true
  | .tlbiAsid _ _ => true
  | .tlbiSpace _ => true
  | .tlbiIpa _ _ _ => true
  | .tlbiPart _ _ => true
  | .tlbiKs _ _ => true
  | .tlbiAll _ => true
  | .tlbiComplete _ => true
  | .xprobe _ _ _ _ => true
  | .tableWalk _ => true
  | .lineFill _ _ _ => true
  | .mergeBufferDrain _ => true
  | .wbcWriteback _ _ _ => true
  | .storeError _ _ _ _ => true
  | .cclean _ _ _ _ => true
  | .cflush _ _ _ _ => true
  | .cinv _ _ _ _ => true
  | .cpre _ _ _ _ => true
  | .cmr _ _ _ _ => true
  | .cmrComplete _ => true
  | .csw _ _ _ _ => true
  | .cacheDisable _ => true
  | .cacheEnable _ => true
  | .cacheSweepDone _ => true
  | .wayLock _ _ => true
  | .wayUnlock _ _ => true
  | .wayDisable _ _ => true
  | .wayEnable _ _ => true
  | .larderPowerRequest _ _ => true
  | .larderTransitionDone _ => true
  | .lardHashKeyWrite _ _ => true
  | .ddrTrainingDone _ _ => true
  | .ddrInitDone _ => true
  | .dramRefresh _ => true
  | .dramTempAlert _ => true
  | .patrolScrub _ _ _ => true
  | .alloc _ _ _ _ => true
  | .shade _ _ _ => true
  | .rootSweep _ _ _ => true
  | .laundryFlip _ => true
  | .laundrySlice _ => true
  | .laundryPhaseEnd _ => true
  | .rackWipeDone _ _ => true
  | .eventEntry _ => true
  | .nibExpiry _ => true
  | .dispatchSwitch _ => true
  | .backContextLoad _ => true
  | .contextDrain _ => true
  | .partClaim _ => true
  | .partStart _ => true
  | .partReset _ => true
  | .partResetDone _ => true
  | .partRelease _ => true
  | .coreMove _ _ _ _ => true
  | .coreMoveDone _ => true
  | .encoderEdge _ _ _ _ => true
  | .mainsCrossing _ _ => true
  | .syncInEdge _ => true
  | .edgeTimeout _ => true
  | .coastExpiry _ => true
  | .phaseSrcEnable _ _ _ => true
  | .phaseSrcDisable _ _ _ => true
  | .phaseSrcRestart _ _ _ => true
  | .ncoRateWrite _ _ _ => true
  | .phaseSrcOwnWrite _ _ _ => true
  | .historyRecord _ => true
  | .dtDiscipline _ => true
  | .dtHoldover => true
  | .pclassResolve => true
  | .alarmFire => true
  | .syncOutPulse => true
  | .rsmpBlockWrite _ _ => true
  | .specExecStart _ => true
  | .specExecDone _ => true
  | .specLateDrop _ _ => true
  | .engineOwnWrite _ _ _ => true
  | .laneEnable _ _ _ => true
  | .laneDisable _ _ _ => true
  | .blockLock _ => true
  | .seekRateTimeout _ => true
  | .capSend _ => true
  | .capxTimeout _ => true
  | .laneFail _ => true
  | .failedRetryTimeout _ => true
  | .ackSend _ => true
  | .heartbeatSend _ => true
  | .replayTimeout _ => true
  | .tsyncStart _ => true
  | .tsRspReceive _ _ _ _ => true
  | .tsyncTimeout _ => true
  | .configTimeout _ => true
  | .bondEnable _ _ _ => true
  | .channelValidate _ _ _ => true
  | .channelInvalidate _ _ _ => true
  | .frameResolve _ => true
  | .driveFrameApply _ => true
  | .driveSampleSend _ => true
  | .abortNLow _ => true
  | .driveSoftAbort _ _ => true
  | .driveWdogTimeout _ => true
  | .rampEnd _ => true
  | .cmdDoorbell _ _ _ => true
  | .completionDoorbell _ _ _ => true
  | .recordDoorbell _ _ _ => true
  | .taskDoorbell _ _ => true
  | .versionRequest _ _ => true
  | .fnAttach _ _ => true
  | .fnDetach _ _ => true
  | .fnResume _ _ => true
  | .journalFlushDone _ => true
  | .hostNop _ _ => true
  | .hostFence _ _ => true
  | .identify _ _ => true
  | .hostRead _ _ _ => true
  | .hostPost _ _ => true
  | .bind _ _ => true
  | .exportStream _ _ => true
  | .fw _ _ => true
  | .commandDone _ _ => true
  | .completionPost _ _ => true
  | .exportRecord _ _ => true
  | .interruptModeration _ _ => true
  | .flr _ => true
  | .grantWrite _ _ _ => true
  | .admSrcWrite _ _ _ => true
  | .activationOverrun _ _ => true
  | .fullBoot _ _ _ _ _ _ _ => true
  | .xaRetest _ => true
  | .pllLock _ => true
  | .bootRelease _ _ => true
  | .bootGo _ _ _ => true
  | .bundleVerifyDone _ _ => true
  | .keeperColdEntry => true
  | .attKeyReady => true
  | .serviceRequestDone => true
  | .otpProgramSlot _ _ _ => true
  | .otpRevokeSlot _ _ _ => true
  | .otpBlowPol _ _ _ => true
  | .coreGo _ _ => true
  | .partEntryWrite _ _ => true
  | .domainSwitch _ _ _ => true
  | .domainSwitchDone _ => true
  | .pllReconfig _ _ _ => true
  | .pllRelock _ _ _ => true
  | .spreadConfig _ _ _ => true
  | .clockMonitorFail _ _ => true
  | .avsAdjust _ _ _ => true
  | .powerDomainRequest _ _ _ => true
  | .powerDomainDone _ => true
  | .throttleExit => true
  | .warmResetRequest _ _ => true
  | .warmResetEffect => true
  | .clusterReset _ _ _ => true
  | .clusterResetDone _ => true
  | .powerOnReset => true
  | .pcieReset => true
  | .eccError _ _ => true
  | .faultActionDone => true
  | .fltCoreOffWrite _ _ => true
  | .fltLaneRetWrite _ _ => true
  | .cachePatrol _ => true
  | .smbusTransaction _ => true
  | .fetchFault _ => true
  | .unassignedOpcode _ => true
  | .anchorPeriodEstimate => true
  | .ddrRecalibrationDone => true

end Sys2Proof
end

