-- ==== Sys2Proof/Tests/Slice0.lean ====
section
/-!
SUPPORT. Tests/Slice0.lean: the author's own tests. Commands no agent can send are refused by WellFormed; small results
computed by hand from the spec; and, for each statement with hypotheses, a state and operands that meet them.
-/

namespace Sys2Proof.Tests
open Sys2Proof.Machine

set_option Elab.async false

/-! ### States for the tests -/

/-- Core `k` executes at level K under key 0, with cells in its registers. -/
def running (k : Nat) (l : List (Gpr × Cell)) : State :=
  l.foldl (fun s p => writeReg k p.1 p.2 s) (setCore k { CoreState.atReset with run := true } State.reset)

/-- An instruction's answer, as a state; reset where it answers none. -/
def after (a : Answer) : State :=
  match a with
  | .next t => t
  | _ => State.reset

/-- Core `k` executes and is scanned, and its registers hold the cells of a list. -/
def Holds (k : CoreId) (s : State) (l : List (Gpr × Cell)) : Prop :=
  canRun s k.val = true ∧ (front s k.val).unscanned = 0 ∧ ∀ p ∈ l, readReg s k.val p.1 = p.2

theorem Holds.ready {k : CoreId} {s : State} {l : List (Gpr × Cell)} (h : Holds k s l) : Ready k s s :=
  ⟨h.1, by simp [preScan, h.2.1]⟩

/-- Core 0 at level K with cells in registers 1 and 2, as `Has` says it. -/
def ops (a b : Cell) : State := running 0 [(1, a), (2, b)]
def Has (a b : Cell) : Prop := Holds 0 (ops a b) [(1, a), (2, b)]

theorem settled_of {s : State} (h : s.under = []) : Settled s := by
  intro c line hu
  simp [underOf, h, sparseGet] at hu

def poison : Cell := cellPoison 9 0
def flo (w : Word) : Cell := ⟨tagFlo, w⟩
def q32 (w : Word) : Cell := ⟨tagQ32, w⟩
def cons (w : Word) : Cell := ⟨tagCons, w⟩
def fixI (i : Int) : Cell := cellFixI i
/-- A measurand of a unit, with value 0 and no flags. -/
def meas (u : Nat) : Cell := ⟨tagMeas, w64 u⟩

/-- The low 16 MiB of the lower half and of the K-space map to the larder, for core 0. -/
def larderTlb : List TlbEntry :=
  [⟨0, .unassigned, 0, true, 24, 0, larderBase / 2 ^ 24, 0x3E0, 3, 0x74, 3⟩,
   ⟨1, .kernel, 0, true, 24, 2 ^ 23, larderBase / 2 ^ 24, 0, 3, 0x74, 3⟩]

/-- Core 0 executes with cells in its registers and cells at virtual addresses of the larder. -/
def mapped (regs : List (Gpr × Cell)) (mem : List (Nat × Cell)) : State :=
  mem.foldl (fun s p => memPut (larderBase + p.1) p.2 s)
    (modCore 0 (fun c => { c with
      l2tlb := larderTlb
      front := { c.front with attrpal := 0x0101010101010101 } }) (running 0 regs))

/-- Core 0 at another level. -/
def level (pl : Nat) (s : State) : State :=
  modCore 0 (fun c => { c with front := { c.front with pstat := putBits c.front.pstat 1 0 pl } }) s

/-- The state with entries in its unit table. -/
def withUnits (l : List (Nat × List Word)) (s : State) : State := { s with units := l }

/-! ### Commands no agent can send (WellFormed) -/

theorem test_illFormed : ∀ c ∈ [
    Instr.regBadAccess (.host 8) true 0 0 0, .regBadAccess (.host 8) true 0 9 0, .memSkewWindow [0, 0], .lardSkewWindow 0 [],
    .thermalSample [], .rackAdd (.host 8) [], .alarmArm (.host 8) (List.replicate 9 cellVoid), .bundleReceive 0 false [0, 0, 0] [] 0,
    .bundleReceive 0 false [0, 0, 0, 0] (List.replicate 2048 0) 0, .fnRestore 0 [[0, 0, 0]], .descriptorFetch 0 0 [0, 0, 0],
    .darningStep 0 (List.replicate 65 0) [] false, .darningStep 0 [] (List.replicate 65 0) false],
    WellFormed c = false := by decide +kernel

theorem test_wellFormed : ∀ c ∈ [
    Instr.regBadAccess (.host 8) true 0 1 0, .regBadAccess (.host 8) true 0 8 0, .memSkewWindow (List.replicate 8 0),
    .lardSkewWindow 0 (List.replicate 8 0), .thermalSample (List.replicate 16 0), .rackAdd (.host 8) [cellVoid],
    .alarmArm (.host 8) (List.replicate 8 cellVoid), .bundleReceive 0 false [0, 0, 0, 0] (List.replicate 2047 0) 0,
    .fnRestore 0 [[0, 0, 0, 0]], .descriptorFetch 0 0 [0, 0, 0, 0], .descriptorFetch 0 0 (List.replicate 8 0),
    .darningStep 0 (List.replicate 64 0) [] false, .mov 0 31 0], WellFormed c = true := by decide +kernel

/-! ### States that meet the hypotheses: instructions of a core -/

theorem witness_RawAluResults :
    (Has (cellFix 5) (cellRaw 63) ∧ RawCell (cellFix 5) ∧ RawCell (cellRaw 63)) ∧ Has poison cellVoid ∧ Has cellVoid cellNil ∧
    (Has cellNil cellTrue ∧ ¬ RawCell cellNil ∧ isReservedTag cellNil.tag = false) ∧
    (Has (cellFix 5) (flo 0) ∧ ¬ RawCell (flo 0) ∧ isReservedTag (flo 0).tag = false) := by
  unfold Has Holds RawCell
  repeat' apply And.intro
  all_goals decide +kernel

theorem witness_ImmediateResults :
    (Has (cellFix 5) cellNil ∧ -(2 ^ 63) ≤ (5 : Int) + 1 ∧ (5 : Int) + 1 < 2 ^ 63) ∧
    (Has (cellFix 0x7FFFFFFFFFFFFFFF) cellNil ∧ 2 ^ 63 ≤ (0x7FFFFFFFFFFFFFFF : Word).toInt + 1) ∧
    (Has (cellRaw 7) cellNil ∧ RawCell (cellRaw 7) ∧ (255 : BitVec 16).toNat < 256) ∧ 256 ≤ (256 : BitVec 16).toNat := by
  unfold Has Holds RawCell
  repeat' apply And.intro
  all_goals decide +kernel

theorem witness_BitFieldResults :
    Has (cellRaw 0xFF) (cellFix 0x3F3F) ∧ RawCell (cellRaw 0xFF) ∧ RawCell (cellFix 0x3F3F) := by
  unfold Has Holds RawCell
  repeat' apply And.intro
  all_goals decide +kernel

theorem witness_MultiplyDivideResults :
    (Has (cellFix 7) (cellFix 3) ∧ (3 : Word) ≠ 0) ∧ Has (cellFix 7) (cellFix 0) ∧
    (Has (fixI (-(2 ^ 63))) (fixI (-1)) ∧ (fixI (-(2 ^ 63))).data.toInt = -(2 ^ 63) ∧ (fixI (-1)).data.toInt = -1) ∧
    (1 : Gpr).val ≠ 0 ∧
    (let s := modFront 0 (fun x => { x with mulq := [(1, 2)] }) State.reset
     (front s 0).mulq = (1, 2) :: []) := by
  unfold Has Holds
  repeat' apply And.intro
  all_goals decide +kernel

theorem witness_GenericIntegerArithmetic :
    Has (cellFix 5) (cellFix 0) ∧ Has (cellFix 5) (cellFix 7) ∧ Has (q32 1) (cellFix 7) ∧ Has (cellFix 7) (q32 3) ∧
    Has (q32 1) (q32 0) ∧ Has (q32 3) (q32 3) := by
  unfold Has Holds
  repeat' apply And.intro
  all_goals decide +kernel

theorem witness_GenericFloatLanePhase :
    Has (flo 0) (cellFix 1) ∧ Has (q32 1) (flo 0) ∧ Has ⟨tagF32x2, 1⟩ ⟨tagF32x2, 2⟩ ∧ Has ⟨tagI32x2, 1⟩ ⟨tagI32x2, 2⟩ ∧
    Has ⟨tagI32x2, 1⟩ ⟨tagI32x2, 0x200000001⟩ ∧ Has ⟨0x30, 1⟩ (cellFix 2) ∧ Has ⟨0x3F, 1⟩ (q32 2) ∧ Has ⟨0x31, 1⟩ ⟨0x31, 5⟩ ∧
    Has ⟨0x31, 1⟩ ⟨0x32, 5⟩ ∧ isPhase 0x30 = true ∧ isPhase 0x3F = true ∧ Has ⟨tagF32x2, 1⟩ (cellFix 2) ∧
    tagGeneric tagFix = true := by
  unfold Has Holds
  repeat' apply And.intro
  all_goals decide +kernel

/-- Units: 1 and 2 metres (2 twice as long), 3 AFFINE and 4 AFFINE of that dimension, 5 LOG, 6 of another dimension; 7 is
undefined. Unit 1 is NAMED. -/
def units : List (Nat × List Word) :=
  [(1, [0x400000001, 0x3FF0000000000000, 0]), (2, [0x1, 0x4000000000000000, 0]),
   (3, [0x100000001, 0x3FF0000000000000, 0x3FF0000000000000]), (4, [0x100000001, 0x4000000000000000, 0x3FF0000000000000]),
   (5, [0x200000001, 0x3FF0000000000000, 0x3FF0000000000000]), (6, [0x10, 0x3FF0000000000000, 0]),
   (8, [0x8, 0x3FF0000000000000, 0]), (9, [0x2, 0x3FF0000000000000, 0])]
def measOps (u w : Nat) : State := withUnits units (ops (meas u) (meas w))
def HasMeas (u w : Nat) : Prop := Holds 0 (measOps u w) [(1, meas u), (2, meas w)] ∧ isMeas tagMeas = true ∧
  measUnit (meas u).data = u ∧ measUnit (meas w).data = w
def unitsOk (u w : Nat) : Prop := unitDefined (measOps u w) u = true ∧ unitDefined (measOps u w) w = true

theorem witness_MeasurandSumsFollowTheUnitTable :
    (HasMeas 7 1 ∧ unitDefined (measOps 7 1) 7 = false) ∧
    (HasMeas 1 7 ∧ unitDefined (measOps 1 7) 1 = true ∧ unitDefined (measOps 1 7) 7 = false) ∧
    (HasMeas 1 6 ∧ unitsOk 1 6 ∧ unitDim (measOps 1 6) 1 ≠ unitDim (measOps 1 6) 6 ∧ unitLog (measOps 1 6) 1 = false ∧
      unitLog (measOps 1 6) 6 = false) ∧
    (HasMeas 5 6 ∧ unitsOk 5 6 ∧ unitLog (measOps 5 6) 5 = true ∧ unitAffine (measOps 5 6) 5 = false) ∧
    (HasMeas 1 5 ∧ unitsOk 1 5 ∧ unitDim (measOps 1 5) 1 = unitDim (measOps 1 5) 5 ∧ unitLog (measOps 1 5) 5 = true ∧
      unitAffine (measOps 1 5) 1 = false) ∧
    (HasMeas 1 2 ∧ unitsOk 1 2 ∧ unitDim (measOps 1 2) 1 = unitDim (measOps 1 2) 2 ∧ unitLog (measOps 1 2) 1 = false ∧
      unitLog (measOps 1 2) 2 = false ∧ unitAffine (measOps 1 2) 1 = false ∧ unitAffine (measOps 1 2) 2 = false) ∧
    (HasMeas 3 2 ∧ unitsOk 3 2 ∧ unitAffine (measOps 3 2) 3 = true ∧ unitAffine (measOps 3 2) 2 = false) ∧
    (HasMeas 2 3 ∧ unitsOk 2 3) ∧
    (HasMeas 3 4 ∧ unitsOk 3 4 ∧ unitAffine (measOps 3 4) 4 = true ∧ namedUnit (measOps 3 4) (unitDim (measOps 3 4) 3) = some 1) := by
  unfold HasMeas unitsOk Holds
  repeat' apply And.intro
  all_goals decide +kernel

theorem witness_MeasurandProductsFollowTheUnitTable :
    (HasMeas 8 8 ∧ unitsOk 8 8 ∧ dimComb (fun i j => i + j) (unitDim (measOps 8 8) 8) (unitDim (measOps 8 8) 8) = none) ∧
    (HasMeas 1 6 ∧ unitsOk 1 6 ∧ dimComb (fun i j => i + j) (unitDim (measOps 1 6) 1) (unitDim (measOps 1 6) 6) = some 0x11 ∧
      namedUnit (measOps 1 6) 0x11 = none) ∧
    (HasMeas 1 2 ∧ unitsOk 1 2 ∧ dimComb (fun i j => i - j) (unitDim (measOps 1 2) 1) (unitDim (measOps 1 2) 2) = some 0 ∧
      namedUnit (measOps 1 2) 0 = some 0 ∧ unitLog (measOps 1 2) 1 = false ∧ unitLog (measOps 1 2) 2 = false) ∧
    (HasMeas 1 5 ∧ unitsOk 1 5 ∧ unitLog (measOps 1 5) 5 = true) ∧
    (let s := withUnits units (ops (meas 1) (cellFix 2))
     Holds 0 s [(1, meas 1), (2, cellFix 2)] ∧ isNumber tagFix = true ∧ unitDefined s 1 = true ∧ unitLog s 1 = false) ∧
    (let s := withUnits units (ops (flo 0) (meas 1))
     Holds 0 s [(1, flo 0), (2, meas 1)] ∧ isNumber tagFlo = true ∧ unitDefined s 1 = true ∧ unitLog s 1 = false) := by
  unfold HasMeas unitsOk Holds
  repeat' apply And.intro
  all_goals decide +kernel

theorem witness_GenericComparisons :
    Has (cellFix 1) (q32 5) ∧ (Has (flo 0) (cellFix 1) ∧ isNumber tagFlo = true) ∧
    (HasMeas 1 6 ∧ unitsOk 1 6 ∧ unitDim (measOps 1 6) 1 ≠ unitDim (measOps 1 6) 6 ∧ unitLog (measOps 1 6) 1 = false ∧
      unitLog (measOps 1 6) 6 = false) ∧
    (HasMeas 5 6 ∧ unitsOk 5 6 ∧ unitLog (measOps 5 6) 5 = true ∧ unitAffine (measOps 5 6) 5 = false) ∧
    (HasMeas 5 5 ∧ unitsOk 5 5 ∧ unitLog (measOps 5 5) 5 = true) ∧ (HasMeas 1 5 ∧ unitsOk 1 5) ∧
    (HasMeas 1 2 ∧ unitsOk 1 2) ∧ (HasMeas 3 4 ∧ unitsOk 3 4) ∧ Has ⟨0x31, 1⟩ ⟨0x31, 5⟩ ∧ Has ⟨0x31, 1⟩ ⟨0x32, 5⟩ ∧
    Has ⟨tagF32x2, 1⟩ ⟨tagF32x2, 2⟩ := by
  unfold HasMeas unitsOk Has Holds
  repeat' apply And.intro
  all_goals decide +kernel

theorem witness_MeasurandInstructions :
    Has (cellFix 3) (cellFix 4095) ∧ (HasMeas 1 1 ∧ isMeas tagMeas = true) ∧
    (let s := fun (u w : Nat) => withUnits units (ops (meas u) (cellFix (w64 w)))
     let has := fun (u w : Nat) => Holds 0 (s u w) [(1, meas u), (2, cellFix (w64 w))] ∧ unitDefined (s u w) u = true
     (has 1 1) ∧ (has 1 6 ∧ unitDim (s 1 6) 1 ≠ unitDim (s 1 6) 6 ∧ unitLog (s 1 6) 1 = false ∧ unitLog (s 1 6) 6 = false) ∧
     (has 1 5 ∧ unitLog (s 1 5) 1 = false ∧ namedUnit (s 1 5) (unitDim (s 1 5) 5) = some 1) ∧
     (has 5 1 ∧ unitLog (s 5 1) 5 = true ∧ namedUnit (s 5 1) (unitDim (s 5 1) 5) = some 1) ∧
     (has 5 6 ∧ unitLog (s 5 6) 6 = false ∧ namedUnit (s 5 6) (unitDim (s 5 6) 5) ≠ some 6) ∧ (has 2 1 ∧ unitLog (s 2 1) 1 = false) ∧
     (has 2 5 ∧ unitLog (s 2 5) 5 = true ∧ namedUnit (s 2 5) (unitDim (s 2 5) 5) ≠ some 2) ∧
     (has 1 7 ∧ unitDefined (s 1 7) 7 = false) ∧
     (has 9 0 ∧ dimHalf (unitDim (s 9 0) 9) = some 1 ∧ namedUnit (s 9 0) 1 = some 1 ∧ unitLog (s 9 0) 9 = false) ∧
     (has 8 0 ∧ dimHalf (unitDim (s 8 0) 8) = some 0xC ∧ namedUnit (s 8 0) 0xC = none) ∧
     (has 1 0 ∧ dimHalf (unitDim (s 1 0) 1) = none)) ∧
    Has (flo 0x4000000000000000) cellNil := by
  unfold HasMeas Has Holds
  repeat' apply And.intro
  all_goals decide +kernel

theorem witness_TagInstructionLevels :
    (Has (cellFix 1) (cellRaw 0x40) ∧ RawCell (cellRaw 0x40) ∧ isReservedTag 0x40 = false ∧ plOf (front (ops (cellFix 1) (cellRaw 0x40)) 0) = 2) ∧
    (let s := level 1 (ops (cellFix 1) (cellRaw 0xE0))
     Holds 0 s [(1, cellFix 1), (2, cellRaw 0xE0)] ∧ plOf (front s 0) < 2) ∧
    (Has (cellFix 1) (cellFix 0x05) ∧ isReservedTag 0x05 = true) ∧ Has poison (cellFix 0) := by
  unfold Has Holds RawCell
  repeat' apply And.intro
  all_goals decide +kernel

theorem witness_BranchesTakeAndAnnul :
    (Has (cellFix 1) cellNil ∧ (front (ops (cellFix 1) cellNil) 0).dslot = false ∧ isNumber tagFix = true) ∧
    (Has cellNil cellNil ∧ isNumber tagNil = false ∧ isMeas tagNil = false ∧ isReservedTag tagNil = false) ∧
    (let s := modFront 0 (fun x => { x with dslot := true }) (ops cellNil cellNil)
     Holds 0 s [] ∧ (front s 0).dslot = true) := by
  unfold Has Holds
  repeat' apply And.intro
  all_goals decide +kernel

theorem witness_JumpsAndCalls :
    (let a : Cell := ⟨tagCodeptr, 64⟩
     Has a cellNil ∧ a.data.toNat % 8 = 0 ∧ a.data.toNat < 2 ^ 48 ∧ (front (ops a cellNil) 0).pc.toNat / 4 % 2 = 0) ∧
    (let s := running 0 [(18, ⟨tagRetaddr, 8⟩)]
     Holds 0 s [(18, ⟨tagRetaddr, 8⟩)] ∧ readAt s 0 (x0Loc (front s 0)) = ⟨tagRetaddr, 8⟩) ∧
    (let s := modFront 0 (fun x => { x with pc := 4 }) (ops cellNil cellNil)
     Holds 0 s [] ∧ (front s 0).pc.toNat / 4 % 2 = 1 ∧ (front s 0).dslot = false) ∧
    Has (cellFix 0) cellNil ∧ (let a : Cell := ⟨tagRetaddr, 4⟩; Has a cellNil ∧ a.data.toNat % 8 ≠ 0) ∧
    (let s := modFront 0 (fun x => { x with dslot := true }) (ops cellNil cellNil)
     Holds 0 s [] ∧ (front s 0).dslot = true) := by
  unfold Has Holds
  repeat' apply And.intro
  all_goals decide +kernel

/-- Core 0 with a value of WSTAT. -/
def windows (w : Word) : State := modFront 0 (fun x => { x with wstat := w }) (ops cellNil cellNil)

theorem witness_EnterOpensAFrame :
    (Holds 0 (windows 0x10000) [] ∧ (front (windows 0x10000) 0).wstat.getLsbD 17 = false ∧
      (front (windows 0x10000) 0).wstat.getLsbD 18 = false) ∧
    (Holds 0 (windows 0x1800F) [] ∧ (front (windows 0x1800F) 0).wstat.getLsbD 16 = true) ∧
    (Holds 0 (windows 0x2800F) [] ∧ (front (windows 0x2800F) 0).wstat.getLsbD 17 = true) := by
  unfold Holds
  repeat' apply And.intro
  all_goals decide +kernel

theorem witness_LeaveReturnsToTheCaller :
    (Holds 0 (windows 0x10000) [] ∧ (front (windows 0x10000) 0).wstat.getLsbD 31 = false) ∧
    (Holds 0 (windows 0x80010000) [] ∧ (front (windows 0x80010000) 0).wstat.getLsbD 31 = true) := by
  unfold Holds
  repeat' apply And.intro
  all_goals decide +kernel

/-! ### Traps, events, special registers, memory -/

/-- A computation answers, and its answer passes. -/
def okWith {ε α : Type} (e : Except ε α) (p : α → Bool) : Bool :=
  match e with
  | .ok a => p a
  | .error _ => false
def someWith {α : Type} (e : Option α) (p : α → Bool) : Bool :=
  match e with
  | some a => p a
  | none => false
def fails {ε α : Type} (e : Except ε α) : Bool := !okWith e (fun _ => true)

def answersB (s : State) (pa : Nat) : Bool :=
  match regionOf s pa with
  | .ddr => !subRetired s pa
  | .larder b _ => bankOn s b
  | _ => false
theorem answers_of {s : State} {pa : Nat} (h : answersB s pa = true) : Answers s pa := by
  unfold answersB at h
  split at h
  · exact .inl ⟨by assumption, by simpa using h⟩
  · exact .inr ⟨_, _, by assumption, h⟩
  · cases h

theorem witness_SpillAndFillMoveOneFrame :
    (let s := windows 0x10000
     Holds 0 s [] ∧ bottomWindow (front s 0).wstat = (front s 0).wstat.toNat % 16) ∧
    (let s := windows 0x30001
     Holds 0 s [] ∧ bottomWindow (front s 0).wstat ≠ (front s 0).wstat.toNat % 16 ∧
      (front s 0).clim.toNat < (front s 0).csp.toNat + 144 ∧
      okWith (scanUnits 0 true (frameUnits (front s 0) ++ [2, 18]) s) (fun q => q == s) = true) ∧
    (let s := modFront 0 (fun x => { x with wstat := 0x30001, csp := 0x1000, clim := 0x1090 }) (mapped [] [])
     Holds 0 s [] ∧ (front s 0).csp.toNat + 144 ≤ (front s 0).clim.toNat ∧
      (storeFrame 0 (front s 0).csp (((List.range 18).map (fun i => 8 + i)).map (readLoc (getCore s 0))) s).2 = none ∧
      (storeFrame 0 0x2000000 (((List.range 18).map (fun i => 8 + i)).map (readLoc (getCore s 0))) s).2 ≠ none) ∧
    (Holds 0 (windows 0x7FFF000E) [] ∧ validCount (front (windows 0x7FFF000E) 0).wstat = 15) ∧
    (Holds 0 (windows 0x10000) [] ∧ (front (windows 0x10000) 0).csp.toNat < (front (windows 0x10000) 0).cbase.toNat + 144) ∧
    (let s := modFront 0 (fun x => { x with csp := 0x1090, cbase := 0x1000 }) (mapped [] [])
     Holds 0 s [] ∧ (front s 0).cbase.toNat + 144 ≤ (front s 0).csp.toNat ∧
      (match loadFrame 0 18 (0x1090 - 144) s with
        | .ok _ => true
        | .error _ => false) = true ∧
      (match loadFrame 0 18 0x2000000 s with
        | .ok _ => true
        | .error _ => false) = false) := by
  unfold Holds; decide +kernel

/-- Vectors 0 and 20 and the level block of level K lie at the larder's first addresses. -/
def vectors : State := mapped [] [(0, ⟨tagCodeptr, 0x400⟩), (160, ⟨tagCodeptr, 0x800⟩), (0x210, cellRaw 7)]

theorem witness_SynchronousTrapEntry :
    cbOf (front vectors 0) = false ∧ mbOf (front vectors 0) = false ∧
    handlerAt (wrongPathCount 0 0 vectors) 0 2 (vbrOf vectors 0 2 + w64 (8 * 20)) = some 0x800 ∧
    syncNib (wrongPathCount 0 0 vectors) 0 2 = some 7 ∧ max (plOf (front vectors 0)) (vecMin 20) = 2 ∧
    mbOf (front (modFront 0 (fun x => { x with pstat := 0x22 }) vectors) 0) = true := by decide +kernel

theorem witness_FailedEntryEntersTheMantle :
    mbOf (front vectors 0) = false ∧
    handlerAt (wrongPathCount 0 0 vectors) 0 2 (vbrOf vectors 0 2 + w64 (8 * 19)) = none ∧
    someWith (readVa (wrongPathCount 0 0 vectors) 0 2 (getCore vectors 0).vbrK)
      (fun p => p.1.tag == tagCodeptr && ptrOk p.1.data) = true := by decide +kernel

theorem witness_TrapInstructionAndFetchTraps :
    (Has cellNil cellNil ∧ (front (ops cellNil cellNil) 0).dslot = false) ∧
    (let s := modFront 0 (fun x => { x with dslot := true }) (ops cellNil cellNil)
     Holds 0 s [] ∧ (front s 0).dslot = true) ∧
    (fails (translate (ops cellNil cellNil) 0 2 .fetch 0) = true) ∧
    okWith (translate (mapped [] [(0, ⟨tagInsn2, 0⟩)]) 0 2 .fetch 0)
      (fun l => (corePeek (mapped [] [(0, ⟨tagInsn2, 0⟩)]) 0 (l.pa / 8 * 8)).tag == tagInsn2) = true ∧
    okWith (translate (mapped [] []) 0 2 .fetch 0)
      (fun l => (corePeek (mapped [] []) 0 (l.pa / 8 * 8)).tag != tagInsn2) = true ∧
    canRun State.reset 0 = false := by
  unfold Has Holds; decide +kernel

/-- Event 5 is pending, and its descriptor of level K lies at EDTB. -/
def eventful : State :=
  raiseEvent 0 5 (modFront 0 (fun x => { x with pstat := 6 }) (mapped []
    [(160, ⟨tagCodeptr, 0x800⟩), (168, cellRaw 5), (176, cellRaw 0), (184, cellFix 1)]))

theorem witness_EventEntryAndBudgets :
    going State.reset 0 = false ∧ (going (mapped [] []) 0 = true ∧ eventChoice (mapped [] []) 0 = none) ∧
    (going eventful 0 = true ∧ eventChoice eventful 0 = some 5 ∧
      okWith (readDescriptor (wrongPathCount 0 0 eventful) 0 5) (fun d => d.ok) = true ∧ cbOf (front eventful 0) = false) ∧
    nibRunOf (front (ops cellNil cellNil) 0) = false ∧
    (∃ w, nibRunOf (front (modFront 0 (fun x => { x with pstat := w }) (ops cellNil cellNil)) 0) = true) :=
  ⟨by decide +kernel, by decide +kernel, by decide +kernel, by decide +kernel, ⟨0xFFFFF, by decide +kernel⟩⟩

/-- Core 0 with its saved state. -/
def saved (pstat tpc tstat : Word) (s : State) : State :=
  modFront 0 (fun x => { x with pstat := pstat, tpc := tpc, tnpc := tpc + 4, tstat := tstat }) s

theorem witness_RetxRestoresTheSavedSet :
    (∀ s ∈ [saved 0 8 0 (ops cellNil cellNil), saved 1 8 2 (ops cellNil cellNil), saved 2 8 3 (ops cellNil cellNil),
        saved 2 2 2 (ops cellNil cellNil), saved 2 8 0x22 (ops cellNil cellNil), saved 2 8 2 (ops cellNil cellNil),
        saved 0x22 8 2 (ops cellNil cellNil)],
      canRun s 0 = (plOf (front s 0) != 0 || canRun s 0) ∧ (front s 0).dslot = false) ∧
    (Holds 0 (saved 2 8 2 (ops cellNil cellNil)) [] ∧ Holds 0 (saved 1 8 2 (ops cellNil cellNil)) [] ∧
      Holds 0 (saved 0x22 8 2 (ops cellNil cellNil)) [] ∧ mbOf (front (saved 0x22 8 2 (ops cellNil cellNil)) 0) = true) ∧
    (let s := saved 2 8 (2 + 8 + 2 ^ 20) (mapped [] [(64, cellRaw 0x100), (72, cellRaw 0x200)])
     Holds 0 s [] ∧ (front s 0).tstat.getLsbD 3 = true ∧ (front s 0).tstat.toNat / 2 ^ 20 % 2 ^ 42 * 64 = 64 ∧
      okWith (readVas 0 2 2 64 (wrongPathCount 0 0 s)) (fun p => headerOk (p.1.getD 0 cellVoid) &&
        headerOk (p.1.getD 1 cellVoid) && okWith (readVas 0 2 24 (p.1.getD 0 cellVoid).data p.2) (fun r =>
          (writeVaNow r.2 0 2 64 (cellRaw 0x1C0)).isSome)) = true) := by
  unfold Holds; decide +kernel

theorem witness_SpecialRegisterReads :
    Has (cellFix 1) (cellRaw 2) ∧ plOf (front (ops (cellFix 1) (cellRaw 2)) 0) = 2 ∧
    (let s := level 1 (ops (cellFix 1) (cellRaw 2))
     Holds 0 s [(1, cellFix 1)] ∧ plOf (front s 0) = 1) ∧ (0x3FF : BitVec 10).toNat = 0x3FF ∧ Has poison cellNil := by
  unfold Has Holds; decide +kernel

theorem witness_SpecialRegisterWrites :
    Has (cellFix 1) (cellRaw 2) ∧ (cellFix 1).tag ≠ tagPoison ∧ (cellFix 1).tag ≠ tagVoid ∧ (0x3FF : BitVec 10).toNat = 0x3FF ∧
    plOf (front (ops (cellFix 1) (cellRaw 2)) 0) = 2 ∧ plOf (front (level 0 (ops (cellFix 1) (cellRaw 2))) 0) = 0 := by
  unfold Has Holds; decide +kernel

theorem witness_StatusAndPredictionWrites :
    (Has (cellRaw 6) cellNil ∧ Has (cellRaw 2) cellNil ∧ Has (cellRaw 0) cellNil ∧ Has (cellRaw 0x10000) cellNil ∧
      Has (cellRaw 0x7FFF000E) cellNil ∧ Has (cellRaw 0xFFFF000F) cellNil ∧ Has (cellRaw 0x30000) cellNil ∧
      Has (cellRaw 7) cellNil) ∧
    1 ≤ plOf (front (ops (cellRaw 2) cellNil) 0) ∧ (cellRaw 2).tag ≠ tagPoison ∧ isReservedTag tagRaw64 = false := by
  unfold Has Holds; decide +kernel

theorem witness_FencesDrainTheMergingBuffer :
    (let s := after (exec (.stc 0 2 1 0) (mapped [(1, cellFix 64), (2, cellRaw 9)] []))
     Holds 0 s [] ∧ (getCore s 0).merge ≠ []) := by
  unfold Holds; decide +kernel

/-- Memory reaches an access of core 0 at a virtual address. -/
def reaches (s : State) (acc : Access) (va : Word) : Bool :=
  okWith (xlate 0 2 acc va s) (fun p => answersB s p.1.pa) && (getCore s 0).merge.isEmpty && s.under.isEmpty

/-- A load of a cell at a virtual address of the larder, and a store there, with no barrier to run: what `LoadsCell` and
`StoresCell` ask. -/
def plainLoad (s : State) (va : Word) : Bool :=
  reaches s .load va && va.toNat % 8 == 0 && okWith (xlate 0 2 .load va s) (fun p =>
    let r := coreLoad 0 p.1 p.2
    okWith (loadBarrier 0 (some p.1.pa) va r.1 r.2) (fun q => q == r))
def plainStore (s : State) (va : Word) (c : Cell) : Bool :=
  reaches s .store va && va.toNat % 8 == 0 && !gcInto s 0 va c && okWith (xlate 0 2 .store va s) (fun p => !markStore p.2 0 va &&
    okWith (storeBarrier 0 va.toNat (corePeek p.2 0 p.1.pa) c p.2) (fun q => q == (some c, p.2)))

theorem witness_LoadsDeliverTheirCell :
    (let s := mapped [(1, cellFix 64)] [(64, cellFix 11), (72, poison)]
     Holds 0 s [(1, cellFix 64)] ∧ AddrCell (cellFix 64) ∧ reaches s .load 64 = true ∧ reaches s .load 72 = true ∧
      reaches s .load 80 = true ∧ fails (xlate 0 2 .load 0x1000000 s) = true ∧
      misplaced s 0 .load 4 65 = true ∧ memCell s (larderBase + 80) = cellVoid ∧ plainLoad s 64 = true) ∧
    (let s := modCore 0 (fun c => { c with l2tlb := [⟨0, .unassigned, 0, true, 24, 0, regBase / 2 ^ 24, 0x3E0, 3, 0x74, 3⟩] })
       (mapped [(1, cellFix 0)] [])
     Holds 0 s [(1, cellFix 0)] ∧ s.under = [] ∧
      okWith (xlate 0 2 .load 0 s) (fun p => regionOf p.2 p.1.pa == .regs 0 &&
        let c := cellRaw (regRead64 (.core 0) 0 p.2)
        okWith (loadBarrier 0 (some p.1.pa) 0 c p.2) (fun q => q == (c, p.2))) = true) := by
  unfold Holds AddrCell; decide +kernel

theorem witness_StoresReachExactlyTheirCell :
    (let s := mapped [(1, cellFix 64), (2, cellRaw 9)] [(64, cellRaw 11), (72, cellFix 1)]
     Holds 0 s [(1, cellFix 64), (2, cellRaw 9)] ∧ AddrCell (cellFix 64) ∧ reaches s .store 64 = true ∧
      reaches s .store 72 = true ∧ clkAt s 0 (effAddr s 0 1 0 8) = false ∧ clkAt s 0 (effAddr s 0 1 0 4) = false ∧
      plainStore s 64 (cellRaw 9) = true ∧ misplaced s 0 .store 4 66 = true) ∧
    (65 : Word).toNat % 8 ≠ 0 := by
  unfold Holds AddrCell; decide +kernel

theorem witness_CasSwapsExactlyTheEqualCell :
    (1 : BitVec 11) ≠ 0 ∧
    (let s := mapped [(1, cellFix 64), (2, cellRaw 9), (3, cellRaw 11)] [(64, cellRaw 11), (72, poison)]
     Holds 0 s [(1, cellFix 64), (2, cellRaw 9), (3, cellRaw 11)] ∧ reaches s .cas 64 = true ∧ reaches s .cas 72 = true ∧
      misplaced s 0 .cas 8 66 = true ∧
      okWith (xlate 0 2 .cas 64 s) (fun p => placedKind p.2 p.1.pa p.1.kind != 0 && memCell s p.1.pa == cellRaw 11 &&
        okWith (storeBarrier 0 64 (cellRaw 11) (cellRaw 9) p.2) (fun q => q == (some (cellRaw 9), p.2))) = true) ∧
    (let s := modFront 0 (fun x => { x with attrpal := 0 }) (mapped [(1, cellFix 64)] [])
     Holds 0 s [(1, cellFix 64)] ∧ okWith (xlate 0 2 .cas 64 s) (fun p => placedKind p.2 p.1.pa p.1.kind == 0) = true) := by
  unfold Holds; decide +kernel

/-! ### Pairs, long instructions, tasks, messages, translation, caches -/

/-- Fields of registers take values. -/
def sets (l : List (Fld × Nat × Nat)) (s : State) : State := l.foldl (fun q p => fset p.1 p.2.1 p.2.2 q) s

/-- Core 0 belongs to partition 0, whose TCB bank is bank 1; task 5 runs in its front context, at level T. -/
def tasked (regs : List (Gpr × Cell)) (mem : List (Nat × Cell)) : State :=
  let s := modCore 0 (fun c => { c with
    l2tlb := c.l2tlb.map (fun e => if e.space = .unassigned then { e with space := .part 0 } else e)
    front := { c.front with
      pstat := 0
      ctxid := 5 } }) (mapped regs mem)
  memPut (bankAddr 1 160) (cellRaw 3) (sets [(fldCLU_CORE_PART_ASSIGNED, 0, 1), (fldGLB_PART_CTL_TCBBANK, 0, 1),
    (fldCLU_DISP_MBQ_QUOTA, 0, 4)] s)

theorem witness_PairsAndObjects :
    (let s := mapped [(1, cons 64), (2, cellFix 1)] [(64, cellFix 11), (72, cellNil), (80, ⟨tagHeader, 0x4200000000000002⟩)]
     Holds 0 s [(1, cons 64), (2, cellFix 1)] ∧ ptrOk 64 = true ∧ clkAt s 0 64 = false ∧ clkAt s 0 72 = false ∧
      plainLoad s 64 = true ∧ plainLoad s 72 = true ∧ plainStore s 64 (cellFix 1) = true ∧ plainStore s 72 (cellFix 1) = true ∧
      okWith (loadCell 0 64 s) (fun p => p.1 == cellFix 11) = true ∧
      okWith (storeCell 0 (trapOn vTagCheck 1 2 0) 64 (cellFix 1) s) (fun _ => true) = true) ∧
    (let s := running 0 [(1, cons 64)]
     Holds 0 s [(1, cons 64)] ∧ fails (loadCell 0 64 s) = true ∧
      fails (storeCell 0 (trapOn vTagCheck 1 2 0) 64 cellNil s) = true) ∧ Has cellNil (fixI (-1)) ∧
    (Has cellNil (cellFix 0) ∧ tagNil ≠ tagCons ∧ isReservedTag tagNil = false) ∧
    (let s := mapped [(1, ⟨tagString, 80⟩), (2, cellFix 1), (3, cellFix 2)] [(80, ⟨tagHeader, 0x4200000000000002⟩)]
     Holds 0 s [(1, ⟨tagString, 80⟩), (2, cellFix 1), (3, cellFix 2)] ∧ isPtr tagString = true ∧ tagString ≠ tagCons ∧
      isReservedTag tagString = false ∧ ptrOk 80 = true ∧ vsetHitsClk 0 1 2 s = false ∧
      okWith (fetchCell 0 80 s) (fun p => p.1.tag == tagHeader && p.1.data.toNat / 2 ^ 56 == tagString.toNat &&
        p.1.data.toNat % 2 ^ 32 == 2) = true ∧
      okWith (fetchCell 0 80 s) (fun p => plainLoad p.2.2 96 && plainStore p.2.2 96 (cellFix 2)) = true ∧
      okWith (fetchCell 0 88 s) (fun p => p.1.tag == tagVoid) = true) := by
  unfold Has Holds
  repeat' apply And.intro
  all_goals decide +kernel

theorem witness_LongInstructionsComplete :
    (let s := mapped [(1, cons 64), (2, cellFix 1), (3, cons 64)] [(64, cellFix 11), (72, cellNil)]
     let q := modFront 0 (fun x => { x with
       latch := cellVoid
       shadow := none }) s
     Holds 0 s [(1, cons 64), (2, cellFix 1)] ∧ (3 : Gpr) ≠ 2 ∧
      (cdrWalk 0 3 1 (writeReg 0 3 (cons 64) q)).isSome = true ∧ (front s 0).latch.tag ≠ tagCont ∧
      (carSearch 0 3 (cellFix 11) 5 (writeReg 0 3 (cons 64) q)).isSome = true ∧
      (carSearch 0 3 (cellFix 12) 5 (writeReg 0 3 (cons 64) q)).isSome = true) ∧
    (let s := mapped [(1, cellFix 11), (2, cons 64)] [(64, cons 80), (72, cellNil), (80, cellFix 11), (88, cellNil)]
     Holds 0 s [(1, cellFix 11), (2, cons 64)] ∧
      (pairSearch 0 3 (cellFix 11) 5 (writeReg 0 3 (cons 64) s)).isSome = true) ∧
    (let s := modFront 0 (fun x => { x with latch := ⟨tagCont, 0x2000000001⟩ }) (mapped [(2, cellFix 1), (3, cellNil)] [])
     Holds 0 s [(2, cellFix 1), (3, cellNil)] ∧ (front s 0).latch.tag = tagCont ∧
      (front s 0).latch.data.toNat / 2 ^ 32 % 2 ^ 11 = 0x20 ∧ (cdrWalk 0 3 0 s).isSome = true) ∧
    (Has cellNil (fixI (-1)) ∧ (fixI (-1)).data.toInt < 0) ∧
    (let s := mapped [(1, cellFix 64), (2, cellFix 2), (3, cellFix 72)] [(64, cellFix 11), (72, cellNil)]
     Holds 0 s [(1, cellFix 64), (2, cellFix 2), (3, cellFix 72)] ∧
      someWith (cellCopies 0 64 72 [1, 0] s) (fun t => t.regs == s.regs) = true) := by
  unfold Has Holds
  repeat' apply And.intro
  all_goals decide +kernel

/-- The latch holds a CONT record. -/
def resumedAt (w : Word) (s : State) : State := modFront 0 (fun x => { x with latch := ⟨tagCont, w⟩ }) s

theorem witness_LongInstructionsComplete_resumedLists :
    let s := mapped [(1, cellFix 11), (3, cons 64)] [(64, cons 80), (72, cellNil), (80, cellFix 11), (88, cellNil)]
    Holds 0 (resumedAt 0x2100000001 s) [(1, cellFix 11), (3, cons 64)] ∧ Holds 0 (resumedAt 0x2200000001 s) [(1, cellFix 11)] ∧
      (carSearch 0 3 (cons 80) 5 s).isSome = true ∧ (pairSearch 0 3 (cellFix 11) 5 s).isSome = true ∧
      (0x2100000001 : Word).toNat / 2 ^ 32 % 2 ^ 11 = 0x21 ∧ (0x2200000001 : Word).toNat / 2 ^ 32 % 2 ^ 11 = 0x22 := by
  unfold Holds
  repeat' apply And.intro
  all_goals decide +kernel

theorem witness_LongInstructionsComplete_resumedCopy :
    let s := mapped [(1, cellFix 64), (2, cellFix 2), (3, cellFix 80)] [(64, cellFix 11), (72, cellNil)]
    Holds 0 (resumedAt 0x2300000001 s) [(1, cellFix 64), (2, cellFix 2), (3, cellFix 80)] ∧
      Holds 0 (resumedAt 0x82300000001 s) [(2, cellFix 2)] ∧
      someWith (cellCopies 0 64 80 [0] s) (fun t => t.regs == s.regs) = true ∧
      someWith (cellCopies 0 64 80 [1] s) (fun t => t.regs == s.regs) = true := by
  unfold Holds
  repeat' apply And.intro
  all_goals decide +kernel

theorem witness_PhaseInstructions :
    (Has (cellFix 0) (cellFix 15) ∧ (estimate (ops (cellFix 0) (cellFix 15)) 15).isSome = true) ∧
    (Has (cellFix 15) (cellFix 0) ∧ estimate (ops (cellFix 15) (cellFix 0)) 0 = none) ∧ Has ⟨0x3F, 0⟩ (cellFix 0) ∧
    (let s := { ops ⟨0x3F, 2 ^ 32⟩ (cellFix 15) with dtime := 2 ^ 65 }
     Holds 0 s [(1, ⟨0x3F, 2 ^ 32⟩), (2, cellFix 15)] ∧ stampTime s (2 ^ 32) = some (2 ^ 64) ∧ stampTime s (2 ^ 34) = none ∧
      (∀ e ∈ (getSrc s 0).hist, 2 ^ 64 < e.time) ∧
      (phaseAt (modSrc 15 (fun x => { x with hist := [⟨0, 0, 2 ^ 32, 1, 0⟩] }) s) 15 (2 ^ 64)).isSome = true) ∧
    Has (q32 1) (cellFix 3) ∧ (Has ⟨0x31, 0⟩ (cellFix 0) ∧ isPhase 0x31 = true) ∧ Has cellNil (cellFix 16) ∧
    (let s := level 1 (ops cellNil (cellFix 0))
     Holds 0 s [(2, cellFix 0)] ∧ plOf (front s 0) ≠ 2 ∧ partOf s 0 = none) := by
  unfold Has Holds
  repeat' apply And.intro
  all_goals decide +kernel

theorem witness_UtsetWritesTheUnitTable :
    (let s := tasked [(1, cellFix 1), (2, cellFix 64)] []
     Holds 0 s [(1, cellFix 1), (2, cellFix 64)] ∧ plOf (front s 0) = 0) ∧
    (let s := fun (u : Word) (x y z : Cell) => withUnits units (mapped [(1, cellFix u), (2, cellFix 64)] [(64, x), (72, y), (80, z)])
     let r := fun (w : Word) => cellRaw w
     let reads := fun (s : State) (p : List Cell → Bool) => okWith (fetchCells 0 3 64 s) (fun q => p q.1 &&
       plOf (front q.2 0) == 2)
     let img := fun (l : List Cell) => l.map (fun c => c.data)
     (Holds 0 (s 0 cellNil cellNil cellNil) [(1, cellFix 0)] ∧ Holds 0 (s 4096 cellNil cellNil cellNil) [(1, cellFix 4096)] ∧
       Holds 0 (s 4095 cellVoid cellVoid cellVoid) [(1, cellFix 4095)]) ∧
     reads (s 4095 cellVoid cellVoid cellVoid) (fun l => l.all (fun c => c.tag == tagVoid)) = true ∧
     reads (s 9 (r 0x20) (r 0x3FF0000000000000) (r 0)) (fun l => imageOk (img l)) = true ∧
     reads (s 9 (r 0x400000001) (r 0x3FF0000000000000) (r 0)) (fun l => imageOk (img l) && imageNamed (img l)) = true ∧
     (namedUnits (s 9 cellNil cellNil cellNil)).contains (1, 1) = true ∧
     reads (s 9 (r 0) (r 0) (r 0)) (fun l => !imageOk (img l)) = true ∧
     reads (s 9 (r 0) cellVoid cellNil) (fun l => !l.all (fun c => c.tag == tagRaw64)) = true) ∧
    (let l : List (Nat × List Word) := [(1, [0x400000001, 0, 0]), (2, [0x400000100, 0, 0]), (3, [0x400010000, 0, 0]),
      (4, [0x401000000, 0, 0])]
     let s := withUnits l (mapped [(1, cellFix 9), (2, cellFix 64)] [])
     4 ≤ ((namedUnits s).filter (fun p => p.1 != 9 && dimSet p.2 == 1)).length ∧ dimSet (imageDim [0x400010101]) = 1 ∧
      (namedUnits s).all (fun p => p.2 != imageDim [0x400010101]) = true) := by
  unfold Holds
  repeat' apply And.intro
  all_goals decide +kernel

theorem witness_RegisterAccesses :
    (served State.reset (.core 0) 0 = true ∧ regAt 0 = some (.GLB_ID, 0, 0)) ∧
    (served State.reset (.host 8) 0x400 = true ∧ regAt 0x400 = some (.GLB_ADM_SRC, 0, 0) ∧ regAt 0x404 = some (.GLB_ADM_SRC, 0, 4)) ∧
    (halfOf (setHalf (.host 8) (some (0x400, 5)) State.reset) (.host 8) = some (0x404 - 4, 5) ∧
      halfOf State.reset (.host 8) = none) ∧
    served State.reset (.host 0) 0 = false ∧ regAt 0x7FFFFC = none ∧ badAccess true 2 4 = true ∧ badAccess false 0 8 = true ∧
    (let s := modBoot (fun b => { b with barOpen := true }) State.reset
     writeTarget 0x400 true = some (.GLB_ADM_SRC, 0) ∧ wholeWrite (.host 8) .GLB_ADM_SRC 0 (neutral s .GLB_ADM_SRC 0 5) s = none ∧
      writeRule s (.host 8) .GLB_ADM_SRC 0 5 = some 5) ∧
    (writeTarget 8 false = some (.GLB_LOCK, 0) ∧ writeRule State.reset (.host 0) .GLB_LOCK 0 1 = none) ∧
    writeTarget 8 true = none := by
  repeat' apply And.intro
  all_goals decide +kernel

theorem witness_WaitAndYield :
    Has (cellFix 64) cellNil ∧ (Has cellNil cellNil ∧ isReservedTag tagNil = false) ∧
    (let s := modFront 0 (fun x => { x with ctxid := 0x10000 }) (ops cellNil cellNil)
     Holds 0 s [] ∧ ctxTask (front s 0) = none) ∧
    (let s := tasked [(1, cellFix 63)] []
     Holds 0 s [(1, cellFix 63)] ∧ ctxTask (front s 0) = some (0, 5) ∧ bankOn s (fget s fldGLB_PART_CTL_TCBBANK 0) = true ∧
      s.under = [] ∧ wakeCode s 0 5 63 = none ∧ yieldTo s 0 0 5 = none) ∧
    (let s := setWake 0 5 2 (tasked [(1, cellFix 63)] [])
     Holds 0 s [(1, cellFix 63)] ∧ wakeCode s 0 5 63 = some 2) := by
  unfold Has Holds
  repeat' apply And.intro
  all_goals decide +kernel

theorem witness_WaitAndYield_back :
    let s := modCore 0 (fun c => { c with back := { c.back with ctxid := 6 } })
      (memPut (bankAddr 1 192) (cellRaw 0x102) (tasked [] []))
    Holds 0 s [] ∧ yieldTo s 0 0 5 = some 6 ∧ switchOk s 0 = true ∧ contextOf s 0 6 = some (0, false) := by
  unfold Holds; decide +kernel

/-- A message that waits for task 5 of partition 0. -/
def letter : Msg := ⟨0, 0, (false, 5), (false, 6), 0, false, [cellNil, cellNil, cellNil, cellNil]⟩

theorem witness_MessagesAndPosts :
    (let s := fun (w : Word) => tasked [(1, cellRaw w), (2, cellFix 64)] []
     Holds 0 (s 0) [(1, cellRaw 0), (2, cellFix 64)] ∧ partOf (s 0) 0 = some 0 ∧ speaker (s 0) 0 = some (false, 5) ∧
      okWith (sendCells 0 3 72 (s 0)) (fun p => slotFree p.2 0 0 && stOf p.2 0 0 == stFree && partOf p.2 0 == some 0) = true ∧
      Holds 0 (s 2) [(1, cellRaw 2)] ∧ (Holds 0 (s 0x101) [(1, cellRaw 0x101)] ∧ 8 ≤ 0x101 / 32 % 1024) ∧
      (Holds 0 (s 0x21) [(1, cellRaw 0x21)] ∧ partOf (s 0x21) 1 ≠ some 0) ∧
      slotFree (sets [(fldCLU_DISP_MBQ_QUOTA, 0, 0)] (s 0)) 0 0 = false ∧
      epochOf (s 0) 0 (true, 0) = 0 ∧
      queueOf (s 0) 0 (false, 5) true = [] ∧ queueOf (s 0) 0 (false, 5) false = []) ∧
    (let s := { tasked [(2, cellFix 64)] [] with mail := [letter] }
     Holds 0 s [(2, cellFix 64)] ∧ queueOf s 0 (false, 5) true = [] ∧ queueOf s 0 (false, 5) false = [letter] ∧
      okWith (recvCells 0 64 letter.cells s) (fun q => q.regs == s.regs) = true) ∧
    (let s := tasked [(1, cellFix 0x60), (2, cellFix 64)] []
     Holds 0 s [(1, cellFix 0x60), (2, cellFix 64)] ∧ okWith (fetchCells 0 8 64 s) (fun _ => true) = true ∧
      fails (fetchCells 0 8 0xFFFFC8 s) = true) := by
  unfold Holds
  repeat' apply And.intro
  all_goals decide +kernel

theorem witness_TlbInvalidation :
    (Has (cellFix 64) (cellFix 7) ∧ plOf (front (ops (cellFix 64) (cellFix 7)) 0) = 2) ∧ Has (cellFix 64) (cellFix 8) ∧
    (let s := level 1 (ops cellNil cellNil)
     Holds 0 s [] ∧ plOf (front s 0) = 1) ∧
    (let s := tasked [] []
     Holds 0 s [] ∧ plOf (front s 0) = 0) ∧
    (getCore (modCore 0 (fun c => { c with tlbis := [.part 7] }) State.reset) 0).tlbis = .part 7 :: [] ∧
    (let s := modCore 0 (fun c => { c with tlbis := List.replicate 8 .all }) (ops cellNil cellNil)
     Holds 0 s [] ∧ 8 ≤ (getCore s 0).tlbis.length) := by
  unfold Has Holds
  repeat' apply And.intro
  all_goals decide +kernel

/-- The stage-2 tables of partition 0 lie in the larder and map its first gibibyte to the larder. -/
def staged : State :=
  memPut larderBase (cellRaw (w64 (larderBase + 0x1003))) (memPut (larderBase + 0x1000) (cellRaw (w64 (larderBase + 0x75)))
    (setReg .GLB_PART_S2TTB 0 (w64 (larderBase + 1)) State.reset))

theorem witness_WalksAndProbes :
    (let s := mapped [] []
     mbOf (front s 0) = false ∧ okWith (translate s 0 2 .load 64) (fun _ => true) = true ∧
      leafEntry s 0 64 true = leafEntry s 0 64 false ∧ kspaceEntry s 0 64 true = kspaceEntry s 0 64 false ∧
      fails (translate s 0 2 .load 0x1000000) = true) ∧
    (tlbHit staged.fabricTlb (.part 0) 0 64 = none ∧ okWith (fabricXlate staged 0 .load 64) (fun p => p == larderBase + 64) = true) ∧
    (Has (cellFix 64) (cellFix 5) ∧ Has (cellFix 0x1000000000000) (cellFix 2) ∧ Has (cellFix 0x100000000000) (cellFix 3) ∧
      Has (cellFix 0) (cellFix 4)) ∧
    (let s := level 1 (ops (cellFix 64) (cellFix 2))
     Holds 0 s [(1, cellFix 64), (2, cellFix 2)] ∧ plOf (front s 0) < 2) := by
  unfold Has Holds
  repeat' apply And.intro
  all_goals decide +kernel


/-- Core 0's stage-1 tables lie in the larder and map the first gibibyte to the larder; its TLBs are empty. -/
def tabled (regs : List (Gpr × Cell)) : State :=
  memPut larderBase (cellRaw (w64 (larderBase + 0x1003))) (memPut (larderBase + 0x1000) (cellRaw (w64 (larderBase + 0x3E1)))
    (modFront 0 (fun x => { x with s1ttb := w64 larderBase }) (running 0 regs)))

theorem witness_WalksAndProbes_walk :
    let s := tabled [(1, cellFix 64), (2, cellFix 2)]
    Holds 0 s [(1, cellFix 64), (2, cellFix 2)] ∧ plOf (front s 0) = 2 ∧ mbOf (front s 0) = false ∧ s.under = [] ∧
      tlbHit (tlbsFor (getCore s 0) .load) (coreSpace s 0) (bitsOf (front s 0).s1ttb 63 48) 64 = none ∧
      leafEntry s 0 64 true = leafEntry s 0 64 false ∧ kspaceEntry s 0 64 true = kspaceEntry s 0 64 false ∧
      okWith (translate s 0 0 .load 64) (fun x => x.pa == larderBase + 64) = true ∧
      okWith (translate s 0 2 .store 64) (fun _ => true) = true ∧ fails (translate s 0 2 .load 0x40000000) = true := by
  unfold Holds
  repeat' apply And.intro
  all_goals decide +kernel

/-- Core 0 executes; the first 16 MiB map to DDR, READY with 32 GiB and its first GiB balanced, as kind WBC. -/
def ddr (regs : List (Gpr × Cell)) (mem : List (Nat × Cell)) : State :=
  let s := modCore 0 (fun c => { c with
    l2tlb := [⟨0, .unassigned, 0, true, 24, 0, 0, 0x3E0, 3, 0x7C, 3⟩]
    front := { c.front with attrpal := 0x0303030303030303 } }) (running 0 regs)
  mem.foldl (fun q p => memPut p.1 p.2 q) (sets [(fldMEM_STAT_SIZE, 0, 1), (fldMEM_STAT_STATE, 0, 4),
    (fldCLU_L2_CTL_EN, 0, 1), (fldSC_CTL_EN, 0, 1), (fldMEM_BAL_SIZE, 0, 1)] s)
/-- The same with the line of address 64 in the caches, and dirty in the L1D. -/
def filled (regs : List (Gpr × Cell)) : State := fillFor 0 (l1dOf 0) 1 false false (ddr regs [(64, cellFix 11)])
def dirtied (regs : List (Gpr × Cell)) : State :=
  after (exec (.stc 0 4 3 0) (fillFor 0 (l1dOf 0) 1 false false (ddr ([(3, cellFix 64), (4, cellFix 9)] ++ regs) [])))

theorem witness_CacheMaintenanceInstructions :
    ((1 : Gpr).val ≠ 0 ∧ Has (cellFix 64) (cellFix 2)) ∧
    (let s := tasked [(1, cellFix 64), (2, cellFix 1)] []
     Holds 0 s [(1, cellFix 64), (2, cellFix 1)] ∧ plOf (front s 0) = 0) ∧
    (let s := level 1 (ops (cellFix 64) (cellFix 1))
     Holds 0 s [(1, cellFix 64), (2, cellFix 1)] ∧ plOf (front s 0) = 1) ∧
    (let s := filled [(1, cellFix 64), (2, cellFix 1)]
     Holds 0 s [(1, cellFix 64), (2, cellFix 1)] ∧ s.under = [] ∧
      okWith (xlate 0 2 .load 64 s) (fun p => p.1.kind == 3 && regionOf s p.1.pa == .ddr) = true) ∧
    (let s := mapped [(1, cellFix 64), (2, cellFix 0)] []
     Holds 0 s [(1, cellFix 64), (2, cellFix 0)] ∧
      okWith (xlate 0 2 .load 64 s) (fun p => regionOf s p.1.pa != .ddr) = true) := by
  unfold Has Holds
  repeat' apply And.intro
  all_goals decide +kernel

theorem witness_CacheMaintenanceInstructions_cinv :
    let s := dirtied [(1, cellFix 64), (2, cellFix 0)]
    Holds 0 s [(1, cellFix 64), (2, cellFix 0)] ∧
    (∀ e ∈ s.lines, e.line = 1 → e.cache = 136 ∨ (e.cache < 136 ∧ cacheCluster e.cache = 0)) ∧
    cacheHolds s (l1dOf 0) 1 = true ∧ underOf s (l1dOf 0) 1 ≠ [] ∧ s.under.length = 1 ∧ (∀ w < 12, wayLocked s 128 w = false) ∧
    (∀ w < 12, wayLocked s 136 w = false) := by
  unfold Holds; decide +kernel

theorem witness_CacheMaintenanceInstructions_cswCpre :
    (let s := filled [(1, cellFix 4), (2, cellFix 1)]
     Holds 0 s [(1, cellFix 4), (2, cellFix 1)] ∧ (slotLine s (cswCache 0 0) 1 0).isSome = true ∧
      slotLine s (cswCache 0 0) 2 0 = none) ∧ Has (cellFix 3) (cellFix 0) ∧
    (let s := filled [(1, cellFix 128), (2, cellFix 2)]
     Holds 0 s [(1, cellFix 128), (2, cellFix 2)] ∧ s.under = [] ∧ cacheOn s 128 = true ∧ heldLocked s 128 2 = false ∧
      okWith (xlate 0 2 .load 128 s) (fun p => p.1.kind == 3 && !p.1.nl2) = true) ∧
    (let s := sets [(fldCLU_L2_WAYCTL_LOCK, 0, 1)] (filled [(1, cellFix 64), (2, cellFix 2)])
     Holds 0 s [(1, cellFix 64), (2, cellFix 2)] ∧ heldLocked s 128 1 = true) ∧
    (let s := sets [(fldCLU_L2_WAYCTL_LOCK, 0, 2)] (filled [(1, cellFix 64), (2, cellFix 2)])
     wayLocked s 128 1 = true ∧ wayDis s 128 1 = false ∧ slotLine s 128 (setIndex 128 2) 1 = none) := by
  unfold Has Holds
  repeat' apply And.intro
  all_goals decide +kernel

/-- A range operation of two lines, from address 64. -/
def twoLines (ipa : Nat) : RangeOp :=
  { ipa := ipa, lines := 2, op := 0, levels := 1, inclLocked := false, wake := false, discard := false, part := none,
    task := 0, epoch := 0 }

theorem witness_CacheMaintenanceInstructions_range :
    Has (cellFix 64) (cellFix 0x50000001) ∧ Has (cellFix 64) (cellFix 0) ∧
    (let s := modCore 0 (fun c => { c with rangeOp := some (twoLines 64) }) (ops (cellFix 64) (cellFix 0x50000001))
     Holds 0 s [(2, cellFix 0x50000001)] ∧ (getCore s 0).rangeOp ≠ none ∧ s.under = [] ∧ fget s fldMEM_STAT_SUBFAIL 0 = 0 ∧
      (∀ i < 2, okWith (rangeXlate s 0 (twoLines 64) (64 + 64 * i)) (fun _ => true) = true)) ∧
    (fails (rangeXlate State.reset 0 (twoLines (2 ^ 44 - 64)) (2 ^ 44)) = true ∧
      okWith (rangeXlate State.reset 0 (twoLines (2 ^ 44 - 64)) (2 ^ 44 - 64)) (fun _ => true) = true) := by
  unfold Has Holds
  repeat' apply And.intro
  all_goals decide +kernel

theorem witness_CacheLinesAndStoreErrors :
    (let s := ddr [(1, cellFix 64)] []
     okWith (translate s 0 2 .load 64) (fun x => x.kind == 3 && regionOf s x.pa == .ddr && !x.nl2) = true ∧ s.under = [] ∧
      cacheOn s 128 = true ∧ wayLocked s 128 15 = false ∧ wayDis s 128 15 = false ∧ fails (translate s 0 2 .load 0x1000000) = true) ∧
    okWith (translate (mapped [] []) 0 2 .load 64) (fun x => decide (x.kind < 2)) = true ∧
    (getCore State.reset 0).merge = [] ∧
    (let s := after (exec (.stc 0 2 1 0) (mapped [(1, cellFix 64), (2, cellRaw 9)] []))
     s.under = [] ∧ (getCore s 0).merge.length = 1 ∧
      (∀ e ∈ (getCore s 0).merge, ∀ p ∈ e.cells, p.1 < 8 ∧ p.2.whole = true ∧ answersB s (e.line * 64 + 8 * p.1) = true)) ∧
    (let s := dirtied []
     someWith (cacheFind s (l1dOf 0) 1) (fun e => e.dirty) = true ∧ fbit s fldFLT_LOGB_EN 0 = false ∧
      lowerCache s (l1dOf 0) 1 = some 128) := by
  repeat' apply And.intro
  all_goals decide +kernel

theorem witness_CacheControls :
    (cacheEn (ddr [] []) .sc = 1 ∧ cacheEn (ddr [] []) (.l2 0) = 1 ∧ cacheEn (sets [(fldSC_CTL_EN, 0, 0)] (ddr [] [])) .sc = 0) ∧
    (wayLocked (ddr [] []) 136 11 = false ∧ wayLocked (sets [(fldSC_WAYCTL_LOCK, 0, 0x800)] (ddr [] [])) 136 11 = true) ∧
    (let s := { ddr [] [] with faultActs := [⟨2, 192, 1, 0, 0⟩] }
     unitActing s (wayUnit 136 0).1 (wayUnit 136 0).2 = true ∧ unitActing s (wayUnit 136 15).1 (wayUnit 136 15).2 = false) ∧
    (wayDis (ddr [] []) 136 15 = false ∧ wayDis (sets [(fldSC_WAYCTL_DIS, 0, 0x8000)] (ddr [] [])) 136 15 = true) ∧
    (∀ k ∈ [SweepKind.disable, .lock 11, .way 15], ({ ddr [] [] with sweeps := [⟨136, k⟩] }).sweeps.find? (fun y : Sweep => y.cache == 136) =
      some ⟨136, k⟩) ∧ (ddr [] []).under = [] := by
  repeat' apply And.intro
  all_goals decide +kernel

theorem witness_LarderAndDdrCommands :
    (let s := State.reset
     fget s fldLARD_BANK_CTL_PST 63 = 0 ∧ bankStays s 63 = false ∧ groupOn s 63 = true ∧ bankStays s 0 = true ∧
      (getBank s 0).target = none ∧ (getBank (modBank 0 (fun x => { x with target := some 2 }) s) 0).target = some 2 ∧
      fget (sets [(fldLARD_BANK_CTL_PST, 5, 3)] s) fldLARD_BANK_CTL_PST 5 = 3) ∧
    ((∀ i < 8, fget State.reset fldLARD_BANK_CTL_ROLE (8 * 1 + i) = 0) ∧ fget State.reset fldLARD_BANK_CTL_ROLE 0 ≠ 0) ∧
    (let s := sets [(fldLARD_DARN_CTL_EN, 0, 1), (fldLARD_BANK_CTL_DARN, 5, 1)] (modBank 5 (fun x => { x with
       good := [513]
       turn := 511 }) State.reset)
     fget s fldLARD_DARN_CTL_EN 0 = 1 ∧ fget s fldLARD_BANK_CTL_DARN 5 = 1 ∧ bankOn s 5 = true ∧ (getBank s 5).urgent = [] ∧
      (getBank s 5).turn < 512 ∧ (getBank s 5).good = 513 :: [] ∧ fget s fldFLT_LOGB_EN 0 = 0 ∧
      (memCell s (bankAddr 5 (64 * 511 + 63))).tag ≠ tagPoison ∧ bankOn (sets [(fldLARD_BANK_CTL_PST, 5, 2)] s) 5 = false) ∧
    (∀ n ∈ [2, 3, 4], memState (sets [(fldMEM_STAT_STATE, 0, n)] State.reset) = n) ∧
    (let s := sets [(fldCLK_STAT_LOCK, 0, 8)] { State.reset with memRecal := true }
     s.memRecal = true ∧ pllLocked s 3 = true ∧ coasts s 3 = false ∧ bootState s ≠ btWarm) ∧
    (let s := sets [(fldMEM_SCRUB_CTL_EN, 0, 1)] (ddr [] [])
     memState s = 4 ∧ fget s fldMEM_SCRUB_CTL_EN 0 = 1 ∧ regionOf s 64 = .ddr ∧ subRetired s 64 = false ∧
      lineCached s 1 = false ∧ fget s fldFLT_LOGB_EN 0 = 0 ∧ (sparseGet memDefault s.mem 8).tag ≠ tagPoison) ∧
    (([129, 127, 0, 0, 0, 0, 0, 0] : List Nat).length = 8 ∧ 256 ≤ 129 + 127 ∧ 256 < 2 * 129) ∧
    fget (sets [(fldMEM_SKEW_CTL_EV_EN, 0, 1), (fldMEM_SKEW_CTL_TH, 0, 0)] State.reset) fldMEM_SKEW_CTL_EV_EN 0 = 1 := by
  repeat' apply And.intro
  all_goals decide +kernel

/-- Partition 0 of `tasked` with a heap of four racks, in the states given, and its first 16 MiB in the larder. -/
def heapy (racks : List (Nat × Nat)) (regs : List (Gpr × Cell)) : State :=
  let s := sets [(fldLNDR_CTL_EN, 0, 1), (fldLNDR_PART_CTL_EN, 0, 1), (fldLNDR_PART_HEAP_RCOUNT, 0, 4)] (tasked regs [])
  { s with
    racks := racks.map (fun p => (p.1, { Rack.unused with
      state := p.2
      wiped := true }))
    fabricTlb := [⟨0, .part 0, 0, true, 24, 0, larderBase / 2 ^ 24, 0x3E0, 3, 0x74, 3⟩] }
/-- Core 0's allocation buffer. -/
def buffer (a b : Word) (s : State) : State := modCore 0 (fun c => { c with
  abcur := a
  abend := b }) s
def lphase (n : Nat) (s : State) : State := sets [(fldLNDR_PART_STAT_PHASE, 0, n)] s
def freeFour : List (Nat × Nat) := [(0, 0), (1, 0), (2, 0), (3, 0)]

theorem witness_AllocationShadeAndLaundry_instructions :
    (let s := buffer 0x100 0x110 (heapy [] [(1, cellFix 0x40), (2, cellFix 0)])
     Holds 0 s [(1, cellFix 0x40), (2, cellFix 0)] ∧ partOf s 0 = some 0 ∧ heapOn s 0 = true ∧
      (getCore s 0).abcur.toNat + 16 ≤ (getCore s 0).abend.toNat) ∧
    (let s := buffer 0x100 0x2108 (heapy [] [(1, cellFix 0x5F), (2, cellFix 1024)])
     Holds 0 s [(1, cellFix 0x5F), (2, cellFix 1024)] ∧ (getCore s 0).abcur.toNat + 8 * 1025 ≤ (getCore s 0).abend.toNat ∧
      okWith (heapWrite (some 0) 0 0x100 ⟨tagHeader, w64 (0x5F * 2 ^ 56 + 1024)⟩ s) (fun _ => true) = true) ∧
    (let s := heapy [] [(1, cellFix 0x50), (2, cellFix 1025)]
     Holds 0 s [(1, cellFix 0x50), (2, cellFix 1025)] ∧ heapOn s 0 = true ∧
      (getCore s 0).abend.toNat < (getCore s 0).abcur.toNat + 8 ∧ takeNursery 0 s = none ∧
      ctxTask (front s 0) = some (0, 5)) ∧
    (Has (cellFix 0x40) (cellFix 0) ∧ partOf (ops (cellFix 0x40) (cellFix 0)) 0 = none) ∧
    (Holds 0 (tasked [(1, cellFix 0x40)] []) [(1, cellFix 0x40)] ∧ heapOn (tasked [] []) 0 = false) ∧
    (Has (cellFix 0x49) (cellFix 0)) ∧
    (let s := lphase 2 (heapy [(0, 2)] [(1, cons 64)])
     Holds 0 s [(1, cons 64)] ∧ phaseOfPart s 0 = 2 ∧ filterOf s 0 64 = 2 ∧ markBit s 0 64 = false ∧ s.markq = []) := by
  unfold Has Holds
  repeat' apply And.intro
  all_goals decide +kernel

theorem witness_AllocationShadeAndLaundry_commands :
    (∀ fr ∈ [true, false], ((sideCtx State.reset 0 fr).unscanned.getLsbD 33 = false)) ∧
    okWith (scanUnit 0 true 33 (modFront 0 (fun x => { x with unscanned := BitVec.allOnes 34 }) (ops (cons 8) cellNil)))
      (fun _ => true) = true ∧
    (agentPart State.reset (.core 0) = none ∧ agentPart State.reset (.host 0) = some 0 ∧
      fget State.reset fldLNDR_PART_CTL_EN 0 = 0) ∧
    (let s := heapy [(0, 6), (1, 0)] []
     agentPart s (.host 0) = some 0 ∧ fget s fldLNDR_PART_CTL_EN 0 = 1 ∧ 0 + 2 ≤ fget s fldLNDR_PART_HEAP_RCOUNT 0 ∧
      fget s fldLNDR_PART_HEAP_RCOUNT 0 < 3 + 2 ∧ (getRack s 0 0).state = 6 ∧ (getRack s 0 1).state = 0 ∧
      phaseOfPart s 0 = 0 ∧ phaseOfPart (lphase 1 s) 0 ≠ 0) ∧
    (contiguous (heapy freeFour []) 0 4 = some 0 ∧ contiguous (heapy freeFour []) 0 5 = none ∧
      allocTag 0x5F = true ∧ (0x3FFFF00 / 2 ^ 8 % 2 ^ 32 + 1 + 262143) / 262144 = 1 ∧
      (0x4000000 / 2 ^ 8 % 2 ^ 32 + 1 + 262143) / 262144 = 2) := by
  repeat' apply And.intro
  all_goals decide +kernel

def lpart (f : LaundryPart → LaundryPart) (s : State) : State := modLaundry 0 f s

theorem witness_AllocationShadeAndLaundry_cycle :
    (laundryRuns State.reset 0 = false ∧ laundryRuns (heapy [] []) 0 = true ∧ cycleDue (heapy [] []) 0 = false) ∧
    (let s := lpart (fun l => { l with want := some true }) (heapy [(0, 1), (1, 0)] [])
     phaseOfPart s 0 = 0 ∧ (getLaundry s 0).want = some true ∧
      reserveRacks ((nurseries s 0).foldl (fun n i => n + (getRack s 0 i).top) 0) + 1 ≤ (freeRacks s 0).length + 1 ∧
      coresOf s 0 = [0]) ∧
    (let s := lpart (fun l => { l with want := some true }) (heapy freeFour [])
     reserveRacks ((nurseries s 0).foldl (fun n i => n + (getRack s 0 i).top) 0) + 1 ≤ (freeRacks s 0).length) ∧
    (∀ ph ∈ [1, 2], phaseOfPart (lphase ph (lpart (fun l => { l with ended := true }) (heapy [] []))) 0 = ph) ∧
    (let s := lphase 2 (lpart (fun l => { l with roots := [.tcb 5] }) (heapy [] []))
     (getLaundry s 0).roots = [LaundryRoot.tcb 5] ∧ phaseOfPart s 0 = 2) ∧
    (({ heapy [] [] with markq := [(0, 0, 64)] }).markq.find? (fun e => e.2.1 == 0) = some (0, 0, 64)) ∧
    (∀ ph ∈ [1, 2, 3, 4], phaseDone (lphase ph (heapy [(0, 5)] [])) 0 = true) ∧
    ((getRack (heapy [(0, 5)] []) 0 0).abandoned = false ∧ phaseDone (lphase 1 (heapy [] [])) 1 = false) ∧
    (let s := { heapy [] [] with racks := [(0, { Rack.unused with state := 0 })] }
     fget s fldLNDR_PART_CTL_EN 0 = 1 ∧ (getRack s 0 0).part = 0 ∧ (getRack s 0 0).state = 0 ∧ (getRack s 0 0).wiped = false) := by
  repeat' apply And.intro
  all_goals decide +kernel

/-- Task `t` of partition 0 with a STATE word and well-formed saved cells. -/
def task (t : Nat) (state : Word) (s : State) : State :=
  tcbPut 0 t 0 (cellRaw state) ([3, 4, 5, 7, 8, 9, 10, 11, 12, 13, 14, 15, 16].foldl (fun q i =>
    tcbPut 0 t i (cellRaw (if i = 7 then 0x10000 else 0)) q) s)

theorem witness_TaskControlAndSwitching_commands :
    (let s := tasked [] []
     agentPart s (.core 0) = some 0 ∧ atLevelT s (.core 0) = true ∧ atLevelT s (.host 0) = false ∧ coresIn s 0 0 = [0] ∧
      coresIn s 0 7 = [] ∧ tcbEpoch s 0 5 = 0 ∧ stOf s 0 5 = stRunning ∧ contextOf s 0 5 = some (0, true) ∧
      switchOk s 0 = true ∧ switchOk (modFront 0 (fun x => { x with pstat := 0x10 }) s) 0 = true ∧
      switchOk (level 1 s) 0 = false) ∧
    (bankOn (tasked [] []) 1 = true ∧ fget (tasked [] []) fldGLB_PART_CTL_TCBBANK 0 = 1 ∧ (tasked [] []).under = []) ∧
    (∀ st ∈ [0, 1, 2, 4, 5], stOf (task 1023 (w64 st) (tasked [] [])) 0 1023 = st) ∧
    (let s := task 1023 (0x4000001) (tasked [] [])
     stOf s 0 1023 = stHeld ∧ bitsOf (tcbWord s 0 1023 0) 26 24 = stWaiting ∧ wakeCode s 0 1023 (tcbMask s 0 1023) = none) := by
  repeat' apply And.intro
  all_goals decide +kernel

theorem witness_TaskControlAndSwitching_contexts :
    (∀ i < 8, switchOk State.reset i = false) ∧
    (let s := modCore 0 (fun c => { c with back := { c.back with ctxid := 6 } }) (task 6 0x102 (tasked [] []))
     (∀ j < 8, (getCore s j).ctl = none) ∧ switchOk s 0 = true ∧ contextOf s 0 6 = some (0, false) ∧
      coresIn s 0 0 = [0] ∧ (∀ r < 8, r ≠ 0 → coresIn s r 0 = []) ∧ runningTask s 0 = some (0, 5) ∧ stOf s 0 6 = stReady ∧
      tcbCluster s 0 6 = 0 ∧ tcbAffinity s 0 6 0 = true ∧ yieldBars s 0 6 5 = false) := by
  repeat' apply And.intro
  all_goals decide +kernel


theorem witness_TaskControlAndSwitching_waiting :
    (let s := modCore 0 (fun c => { c with ctl := some (5, 2) }) (tasked [] [])
     mayTake s 0 = true ∧ (getCore s 0).ctl = some (5, 2) ∧ partOf s 0 = some 0 ∧ stOf s 0 5 = stRunning ∧
      bankOn s (fget s fldGLB_PART_CTL_TCBBANK 0) = true ∧ s.under = []) ∧
    (let s := modCore 0 (fun c => { c with ctl := some (5, 4) }) (tasked [] [])
     mayTake s 0 = true ∧ (getCore s 0).ctl = some (5, 4) ∧ stOf s 0 5 ≠ stFree) ∧
    (mayTake (level 1 (tasked [] [])) 0 = false ∧ contextOf (level 1 (tasked [] [])) 0 5 = some (0, true)) ∧
    contextOf (modFront 0 (fun x => { x with ctxid := 0x10000 }) (tasked [] [])) 0 5 = none ∧
    (let s := task 7 0x2000001 (tasked [] [])
     stOf s 0 7 = stHeld ∧ bitsOf (tcbWord s 0 7 0) 26 24 ≠ stWaiting) := by
  repeat' apply And.intro
  all_goals decide +kernel

/-- Task 6 of partition 0 is READY in core 0's back context, and task 5 runs. -/
def relief : State := modCore 0 (fun c => { c with back := { c.back with ctxid := 6 } }) (task 6 0x102 (tasked [] []))

theorem witness_TaskControlAndSwitching_idle :
    let s := modFront 0 (fun x => { x with ctxid := 0x10000 }) relief
    runningTask s 0 = none ∧ switchOk s 0 = true ∧ bestFor s 0 0 = some 6 ∧ contextOf s 0 6 = some (0, false) ∧
      partOf s 0 = some 0 ∧ (∀ j < 8, j ≠ 0 → switchOk s j = false) ∧ ∀ j < 8, (getCore s j).ctl = none := by
  repeat' apply And.intro
  all_goals decide +kernel

theorem witness_TaskControlAndSwitching_preempts :
    let s := { relief with overran := [5] }
    ranksAbove s 0 6 5 = true ∧ runningTask s 0 = some (0, 5) ∧ stOf s 0 6 = stReady ∧
      ∀ v < 1024, stOf s 0 v = stReady → tcbCluster s 0 v = 0 → v = 6 := by
  repeat' apply And.intro
  all_goals decide +kernel

theorem witness_TaskControlAndSwitching_back :
    (let s := task 6 0x102 (tasked [] [])
     ctxTask (getCore s 0).back = none ∧ (getCore s 0).run = true ∧ backChoice s 0 0 = some 6 ∧
      ctxTask (front s 0) ≠ some (0, 6) ∧ tcbBad s 0 6 = none) ∧
    (ctxTask (getCore relief 0).back = some (0, 6) ∧ backChoice relief 0 0 = some 6) ∧
    (let s := task 6 0x104 relief
     ctxTask (getCore s 0).back = some (0, 6) ∧ backChoice s 0 0 = none) ∧ partOf State.reset 0 = none := by
  repeat' apply And.intro
  all_goals decide +kernel

theorem witness_AllocationShadeAndLaundry_flips :
    flipSpaced (heapy [] []) 0 = true ∧
    (let s := sets [(fldGLB_ADM_PART_FLIPGAP, 0, 1)] (lpart (fun l => { l with flipAt := some 0 }) (heapy [] []))
     laundryRuns s 0 = true ∧ flipSpaced s 0 = false) ∧
    (let s := { heapy [] [] with racks := [(0, { Rack.unused with
      state := 5
      abandoned := true })] }
     (getRack s 0 0).state = 5 ∧ (getRack s 0 0).abandoned = true ∧ (getRack s 0 0).tospace = false ∧ 0 ∈ racksOf s 0 ∧
      coresOf s 0 = [0]) ∧
    (let s := lphase 1 (lpart (fun l => { l with queue := [64] }) (heapy [(0, 1)] []))
     (getLaundry s 0).roots = [] ∧ s.markq = [] ∧ (getLaundry s 0).queue = 64 :: []) := by
  repeat' apply And.intro
  all_goals decide +kernel

theorem witness_AllocationShadeAndLaundry_shade :
    let s := lphase 3 (heapy [(0, 5), (1, 2)] [(1, cons 64)])
    Holds 0 s [(1, cons 64)] ∧ filterOf s 0 64 = 3 ∧ filterOf s 0 (2 ^ 21) = 2 ∧ phaseOfPart s 0 = 3 ∧
      okWith (resolve (some 0) 0 (cons 64) s) (fun _ => true) = true := by
  unfold Holds
  repeat' apply And.intro
  all_goals decide +kernel

theorem witness_AllocationShadeAndLaundry_refill :
    let s := heapy freeFour [(1, cellFix 0x40)]
    let t := { s with racks := s.racks.map (fun r => (r.1, { r.2 with state := 0, wiped := true })) }
    Holds 0 t [(1, cellFix 0x40)] ∧ heapOn t 0 = true ∧ (getCore t 0).abend.toNat < (getCore t 0).abcur.toNat + 16 ∧
      someWith (takeNursery 0 t) (fun _ => true) = true := by
  unfold Holds
  repeat' apply And.intro
  all_goals decide +kernel

theorem witness_StoresReachExactlyTheirCell_heap :
    let s := heapy [] [(1, cellFix 64), (2, ⟨tagFwd, 0⟩)]
    Holds 0 s [(1, cellFix 64), (2, ⟨tagFwd, 0⟩)] ∧ gcInto s 0 64 ⟨tagFwd, 0⟩ = true := by
  unfold Holds
  repeat' apply And.intro
  all_goals decide +kernel

/-- A launch record of six RAW64 cells and two zero ones at the larder's first line, named by partition 1. -/
def launchable : State :=
  (List.range 8).foldl (fun q i => memPut (larderBase + 8 * i) (cellRaw 0) q)
    (sets [(fldGLB_PART_ENTRY_PADDR, 1, larderBase / 64), (fldGLB_PART_CTL_STATE, 1, 1)] State.reset)

/-- Partition 7 is in CONFIG, and nothing belongs to it. -/
def claimed : State := fset fldGLB_PART_CTL_STATE 7 1 State.reset

theorem claimed_chanPart {i : Nat} (hi : i < 16384) : chanPart claimed i = none := by
  have h : getReg claimed .SFL_CHT_A i = 0 := by
    unfold claimed fset
    rw [getReg_setReg_ne _ _ _ _ _ _ (by unfold regKey; simp only [Reg.ctorIdx]; omega)]
    show regDefault (regKey .SFL_CHT_A i) = 0
    have e : regKey .SFL_CHT_A i / 65536 = Reg.SFL_CHT_A.ctorIdx := by unfold regKey; omega
    unfold regDefault
    rw [e]
    rfl
  unfold chanPart fbit fget
  rw [h]
  rfl

theorem claimed_free : partHolds claimed 7 = false := by
  have h : (List.range 16384).any (fun i => chanPart claimed i == some 7) = false := by
    rw [List.any_eq_false]
    intro i hi
    rw [claimed_chanPart (List.mem_range.mp hi)]
    decide
  unfold partHolds
  rw [h]
  decide +kernel

theorem witness_PartitionsMovesAndGrants_partitions :
    (∀ n < 4, partState (sets [(fldGLB_PART_CTL_STATE, 7, n)] State.reset) 7 = n) ∧
    (partState claimed 7 = 1 ∧ partHolds claimed 7 = false ∧ partHolds (tasked [] []) 0 = true) ∧
    startBarred launchable 1 (physCells launchable (fget launchable fldGLB_PART_ENTRY_PADDR 1 * 64) 8) = false ∧
    (let s := memPut (larderBase + 56) (cellRaw 1) launchable
     startBarred s 1 (physCells s (fget s fldGLB_PART_ENTRY_PADDR 1 * 64) 8) = true) ∧
    (let s := sets [(fldGLB_PART_CTL_STATE, 0, 3)] (tasked [] [])
     partState s 0 = 3 ∧ coresOf s 0 = [0] ∧ atPoint s 0 = true ∧ fget s fldCLU_RESET_BUSY 0 = 0) := by
  refine ⟨by decide +kernel, ⟨by decide +kernel, claimed_free, by decide +kernel⟩, by decide +kernel, by decide +kernel, by decide +kernel⟩

theorem witness_PartitionsMovesAndGrants_cores :
    (let s := sets [(fldPWR_DOM_CTL_PST, 7, 1)] (ops cellNil cellNil)
     isKeeper s (.core 0) = true ∧ isKeeper s (.host 0) = false ∧ fget s fldCLU_CORE_PART_MOVING 63 = 0 ∧ partOf s 63 = none ∧
      nbits (fget s fldFLT_CORE_OFF_OFF 0) 63 63 = 0 ∧ pwrOn s 7 = true) ∧
    (let s := { sets [(fldCLU_CORE_PART_MOVING, 63, 1)] State.reset with moving := [(63, 15)] }
     fget s fldCLU_CORE_PART_MOVING 63 = 1 ∧ mayLeave s 63 = true ∧ sparseGet (fun _ => 0) s.moving 63 = 15) ∧
    (let s := sets [(fldGLB_ADM_GRANT_KIND, 255, 1)] (ops cellNil cellNil)
     fget s fldGLB_ADM_GRANT_KIND 255 = 1 ∧ fget s fldGLB_ADM_GRANT_KIND 254 = 0 ∧ bitsOf (0x10 : Word) 3 0 = 0 ∧
      srcAdmitted s 14 = false) ∧
    (let s := sets [(fldGLB_ADM_GRANT_KIND, 255, 1), (fldGLB_ADM_GRANT_INDEX, 255, 5)] (tasked [] [])
     grKind s 255 = 1 ∧ fget s fldGLB_ADM_GRANT_PART 255 = 0 ∧ fget s fldGLB_ADM_GRANT_INDEX 255 % 1024 = 5 ∧
      taskGrant s 0 5 = some 255 ∧ stOf s 0 5 = stRunning ∧ 5 ∉ s.overran ∧
      fget s fldGLB_ADM_GRANT_LIMIT 255 * 64 < sparseGet (fun _ => 0) ({ s with activations := [(5, 1)] }).activations 5 ∧ fget s fldGLB_ADM_PSTAT_OVERRUN 0 < 65535) := by
  repeat' apply And.intro
  all_goals decide +kernel

/-- Source 14, enabled, of a type and input, in a state; core 0 at level K belongs to partition 0, which owns it. -/
def source (typ inp st : Nat) : State :=
  sets [(fldPHASE_SRC_CFG_EN, 14, 1), (fldPHASE_SRC_CFG_TYPE, 14, typ), (fldPHASE_SRC_CFG_INPUT, 14, inp),
    (fldPHASE_SRC_STAT_STATE, 14, st), (fldPHASE_SRC_OWN_ASSIGNED, 14, 1), (fldCLU_CORE_PART_ASSIGNED, 0, 1)]
    (ops cellNil cellNil)

theorem witness_PhaseInputsAndTimeouts :
    (let s := source typEnc 7 srcLost
     sourcesOn s typEnc 7 = [14] ∧ sourcesOn s typEnc 6 = [] ∧ srcState s 14 = srcLost ∧ fget s fldPHASE_SRC_CFG_AUTO 14 = 0 ∧
      quadPlace false false = 0 ∧ quadPlace true false = 1 ∧ quadPlace true true = 2 ∧ quadPlace false true = 3) ∧
    2 ≤ fget (sets [(fldPHASE_SRC_CPR_QMODE, 14, 2)] (source typEnc 7 srcLost)) fldPHASE_SRC_CPR_QMODE 14 ∧
    (let s := source typMains 1 srcLost
     sourcesOn s typMains 1 = [14] ∧ sparseGet (fun _ => 0) s.mainsAt 1 = 0 ∧ fget s fldPHASE_MAINS_CTL_BOTH 1 = 0 ∧
      sourcesOn s typMains 0 = []) ∧
    (let s := { source typMains 1 srcLost with mainsAt := [(1, 1)] }
     let t := sets [(fldPHASE_MAINS_CTL_HOLD, 1, 1)] s
     t.dtime < 1 - 1 + fget t fldPHASE_MAINS_CTL_HOLD 1 * 2 ^ 64 / 10000) ∧
    (let s := sets [(fldPHASE_ENC_CTL_FILT, 7, 3), (fldPHASE_SYNCIN_CTL_FILT, 0, 3)] State.reset
     2 < fget s fldPHASE_ENC_CTL_FILT 7 ∧ 2 < fget s fldPHASE_SYNCIN_CTL_FILT 0) ∧
    (historyDue State.reset 15 = true ∧ historyDue (modSrc 15 (fun x => { x with hist := [⟨0, 0, 0, 1, 0⟩] }) State.reset) 15 = false) ∧
    (let s := { State.reset with dtime := 1 }
     fget (sets [(fldPHASE_SYNCOUT_CTL_MODE, 0, 3)] s) fldPHASE_SYNCOUT_CTL_MODE 0 = 3 ∧
      ¬ (s.dtime + 2 ^ 64 - 1) / 2 ^ 64 * 2 ^ 64 < s.dtime + phaseTick s ∧ 0 < 0 + phaseTick State.reset) ∧
    (let s := sets [(fldPHASE_SYNCOUT_CTL_MODE, 0, 2), (fldPHASE_SYNCOUT_CTL_SRC, 0, 14)]
       (modSrc 14 (fun x => { x with omega := 2 ^ 32 }) (source typSync 0 srcLocked))
     dividedAt s = some 0 ∧ srcState s (fget s fldPHASE_SYNCOUT_CTL_SRC 0) = srcLocked) ∧
    (let s := source typSync 0 srcLost
     fget s fldPHASE_SYNCIN_CTL_POL 0 = 0 ∧ sourcesOn s typSync 0 = [14] ∧ srcState s 14 = srcLost) ∧
    fget (sets [(fldPHASE_DT_CTL_DISC, 0, 2)] State.reset) fldPHASE_DT_CTL_DISC 0 = 2 ∧
    (∀ st ∈ [srcLocked, srcCoasting], srcOn (source typSync 0 st) 14 = true ∧ srcType (source typSync 0 st) 14 ≤ 2 ∧
      srcState (source typSync 0 st) 14 = st ∧ srcOwner (source typSync 0 st) 14 = some 0 ∧
      coresOf (source typSync 0 st) 0 = [0] ∧ (estimate (source typSync 0 st) 14).isSome = true) ∧
    (∀ n < 2, fget (sets [(fldPHASE_SRC_LIM_COAST_MAX, 14, n)] (source typSync 0 srcLocked)) fldPHASE_SRC_LIM_COAST_MAX 14 = n) ∧
    (∀ o < 64, drvState (source typSync 0 srcLocked) o ≠ drvArmed) ∧
    (srcOn State.reset 14 = false ∧ (estimate State.reset 15).isSome = true) ∧
    (∀ n ∈ [2, 3], fget (sets [(fldPHASE_SYNCOUT_CTL_MODE, 0, n)] State.reset) fldPHASE_SYNCOUT_CTL_MODE 0 = n) := by
  repeat' apply And.intro
  all_goals decide +kernel

/-- Channel 5 of link 0 is valid, at version 1, and its last 256 samples came 1,000 steps apart. -/
def fitted : State :=
  { sets [(fldSFL_CHT_A_V, 5, 1), (fldSFL_LANE_STAT_VER, 0, 1)] State.reset with
    channels := [(5, { Channel.idle with
      anchor := some 0
      period := 999
      arrivals := (List.range 256).map (fun i => (i, 1000 * i)) })] }

theorem witness_PhaseInputsAndTimeouts_anchor :
    validChans State.reset = [] ∧ validChans fitted = [5] ∧ linkVer fitted (fget fitted fldSFL_CHT_A_LINK 5) = 1 ∧
    (getChan fitted 5).anchor = some 0 ∧ (fitPeriod (getChan fitted 5).arrivals).isSome = true := by
  repeat' apply And.intro
  all_goals decide +kernel

/-- Descriptors of an alarm of source 14: control cell, DUE, argument, PERIOD. -/
def alarmDesc (w : Word) (t : Nat) (arg : Word) : List Cell := [cellRaw w, ⟨BitVec.ofNat 8 t, 1⟩, cellRaw arg, cellNil]
/-- An alarm of partition 0 on source 14. -/
def anAlarm : Alarm :=
  { seq := 0
    poster := 64
    part := 0
    ident := 7
    action := 0
    dir := 0
    fallback := false
    dropLate := false
    report := false
    pclass := true
    times := 0
    src := 14
    due := 1
    arg := 0
    desc := alarmDesc 0 0x3E 0
    period := none
    before := 1
    held := none
    conv := none
    resolved := none }
def calendar (s : State) : State := sets [(fldPHASE_CAL_QUOTA_QUOTA, 0, 1)] s

theorem witness_PhaseSourcesTimeAndAlarms_sources :
    (let s := source typNco 0 srcLocked
     srcWritable s (.core 0) 14 = true ∧ srcWritable s (.host 0) 14 = true ∧ srcWritable s (.host 1) 14 = false ∧
      srcOn s 14 = true ∧ srcOn s 13 = false ∧ srcType s 14 = typNco ∧ s.alarms = [] ∧ s.drives = [] ∧
      (∀ o < 64, drvState s o ≠ drvArmed)) ∧
    enableRefused (setReg .PHASE_SRC_CFG 14 0x8 State.reset) 14 = false ∧
    enableRefused (setReg .PHASE_SRC_CFG 14 0xC State.reset) 14 = true ∧
    enableRefused (setReg .PHASE_SRC_CFG 14 0xE8 State.reset) 14 = true ∧
    (let s := source typSync 0 srcLost
     srcType s 14 ≠ typDerived ∧ srcState s 14 = srcLost) ∧ isKeeper (source typSync 0 srcLost) (.host 0) = false := by
  repeat' apply And.intro
  all_goals decide +kernel

theorem witness_PhaseSourcesTimeAndAlarms_time :
    (fget (sets [(fldCLK_PLL_CFG_COAST, 5, 1)] State.reset) fldCLK_PLL_CFG_COAST 5 = 1 ∧
      fget (sets [(fldPHASE_DT_CTL_DISC, 0, 1)] State.reset) fldPHASE_DT_CTL_DISC 0 = 1 ∧
      fget State.reset fldCLK_STAT_XB_MODE 0 = 0 ∧ fget State.reset fldCLK_PLL_CFG_COAST 5 ≠ 1 ∧
      fget State.reset fldPHASE_DT_CTL_DISC 0 = 0 ∧ State.reset.dtRate.natAbs ≤ 7378697) ∧
    ((w64 (2 ^ 32 + 1) - w64 (2 ^ 32)).toInt = 1 ∧ (w64 (2 ^ 32 - 1) - w64 (2 ^ 32)).toInt = -1) ∧
    (let s := { sets [(fldPHASE_DT_CTL_DISC, 0, 2)] State.reset with
       syncGap := some (2 ^ 64 + 1)
       syncAt := some 0
       dtime := 2 ^ 65 + 1 }
     fget s fldPHASE_DT_CTL_DISC 0 = 2 ∧ s.syncGap = some (2 ^ 64 + 1) ∧ s.syncAt = some 0 ∧ 0 + 2 ^ 65 < s.dtime ∧
      State.reset.syncGap = none) ∧
    (let s := sets [(fldPHASE_DT_CTL_DISC, 0, 1), (fldCLK_STAT_XB_MODE, 0, 1)] State.reset
     fget s fldPHASE_DT_CTL_DISC 0 = 1 ∧ fget s fldCLK_STAT_XB_MODE 0 = 1) := by
  repeat' apply And.intro
  all_goals decide +kernel

theorem witness_PhaseSourcesTimeAndAlarms_alarms :
    (alarmBad (specOp 1 (alarmDesc 0 0x3E 0)) = false ∧ alarmBad (specOp 1 (alarmDesc 0 0x10 0)) = true ∧
      alarmBad (specOp 2 (alarmDesc 0 0x3E 0)) = false ∧ alarmBad (specOp 1 (alarmDesc 0x50 0x3E 0)) = false ∧
      alarmBad (specOp 1 (alarmDesc 0x60 0x3E 0)) = true ∧ isPhase 0x3E = true ∧ phaseOf 0x3E = 14) ∧
    (let s := calendar (source typSync 0 srcLocked)
     agentPart s (.host 0) = some 0 ∧ srcReads s 0 14 = true ∧ srcReads s 1 14 = false ∧
      fget s fldPHASE_CAL_QUOTA_QUOTA 0 = 1 ∧ calUsed s 0 = 0 ∧ coresIn s 0 0 ≠ [] ∧ coresIn s 0 1 = [] ∧
      fget s fldPHASE_SYNCOUT_CTL_ASSIGNED 0 ≠ 1) ∧
    (let s := { calendar (source typSync 0 srcLocked) with alarms := [anAlarm] }
     calUsed s 0 = 1 ∧ (∃ a ∈ s.alarms, a.part = 0 ∧ a.ident = 7 ∧ a.src = 14)) ∧
    (let a := { anAlarm with resolved := some 0 }
     alarmDue { source typSync 0 srcLocked with alarms := [a] } a ≠ none ∧ alarmDue (source typSync 0 srcLocked) anAlarm = none ∧
      (∀ b ∈ [a], b.ident = 7)) ∧
    (admitAlarm (source typSync 0 srcLocked) 0 14 0 1).isSome = true ∧
    (let s := source typSync 0 srcLocked
     someWith (estimate s 14) (fun v => someWith (dueDiff s 14 0x4000000000000000) (fun x =>
       !diffPassed 0 x && !dueSoon 0 x v.2.1)) = true) := by
  repeat' apply And.intro
  all_goals decide +kernel

theorem witness_PhaseSourcesTimeAndAlarms_firing :
    (let s := { modSrc 14 (fun x => { x with omega := 2 ^ 32 }) (source typSync 0 srcLocked) with alarms := [anAlarm] }
     srcState s 14 = srcLocked ∧ someWith (dueInstant s 14 1) (fun t => decide (t ≤ s.dtime + 32 * phaseCycle)) = true ∧
      alarmDue s anAlarm = none) ∧
    (let a := { anAlarm with due := 0 }
     let s := { source typSync 0 srcLocked with alarms := [a] }
     a.report = false ∧ a.period = none ∧ a.conv = none ∧ a.resolved = none ∧ srcState s a.src = srcLocked ∧ a.dir = 0 ∧
      0 < a.before ∧ someWith (dueDiff s a.src a.due) (fun d => decide (d ≤ 0)) = true ∧ a.action = 0 ∧ s.drives = []) ∧
    (({ anAlarm with conv := some 0 }).conv = some 0 ∧ ({ anAlarm with resolved := some 0 }).resolved = some 0) ∧
    fget (sets [(fldPHASE_SYNCOUT_CTL_MODE, 0, 1)] State.reset) fldPHASE_SYNCOUT_CTL_MODE 0 = 1 ∧
    State.reset.syncBusy ≤ State.reset.dtime := by
  repeat' apply And.intro
  all_goals decide +kernel

/-- Partition 0 has its first 16 MiB in the larder, core 0, source 14, channel 5, resampler unit 7 and spectral engine 15;
their domains are ON; source 14 is LOCKED, with a history of two entries; channel 5 has a ring and samples. -/
def engines : State :=
  let s := sets [(fldRSMP_UNIT_OWN_ASSIGNED, 7, 1), (fldSPEC_ENG_OWN_ASSIGNED, 15, 1), (fldSFL_CHT_A_ASSIGNED, 5, 1),
    (fldSFL_CHT_A_V, 5, 1), (fldPWR_DOM_CTL_PST, 22, 1), (fldPWR_DOM_CTL_PST, 21, 1)] (source typSync 0 srcLocked)
  { modSrc 14 (fun x => { x with
      omega := 12800 * 2 ^ 32
      hist := [⟨2 ^ 64, 2 * 2 ^ 96, 12800 * 2 ^ 32, 1, 0⟩, ⟨2 ^ 64, 0, 12800 * 2 ^ 32, 1, 0⟩] }) s with
    fabricTlb := [⟨0, .part 0, 0, true, 24, 0, larderBase / 2 ^ 24, 0x3E0, 3, 0x74, 3⟩]
    dtime := 2 ^ 64
    channels := [(5, { Channel.idle with
      anchor := some 0
      widx := 204900 })] }
/-- A block of 16 samples a revolution of source 14 and channel 5. -/
def rsmpDesc : List Cell :=
  [cellRaw 0x1381, cellNil, cellRaw 5, cellNil, cellFix 0, cellRaw 0x1000, cellRaw 0, cellRaw 0]
def aJob (eng slot : Nat) (desc : List Cell) : Job :=
  { eng := eng
    slot := slot
    part := 0
    desc := desc
    seq := 0
    count := 0
    flags := 0
    ovrs := 0
    next := none
    since := none
    pend := none
    cur := none
    bulk := false
    resetAfter := false
    stopAfter := false
    fired := none
    seed := 0 }
def rsmpJob (next : Option Nat) : Job := { aJob 7 0 rsmpDesc with next := next }
def withJobs (l : List Job) (s : State) : State := { s with jobs := l }

theorem witness_ResamplerAndSpectralEngines_resamplerPosts :
    (agentPart engines (.host 0) = some 0 ∧ engOwner engines 7 = some 0 ∧ engOwner engines 6 = none ∧
      srcReads engines 0 14 = true ∧ srcReads engines 0 13 = false ∧ chanOwned engines 0 5 = true ∧
      chanOwned engines 0 4 = false ∧ pwrOn engines 22 = true ∧ pwrOn (sets [(fldPWR_DOM_CTL_PST, 22, 0)] engines) 22 = false) ∧
    (rsmpBad engines rsmpDesc = false ∧ rsmpBad engines (rsmpDesc.set 5 (cellRaw 0x1001)) = true ∧
      findJob engines 7 0 = none ∧ findJob (withJobs [rsmpJob none] engines) 7 0 = some (rsmpJob none)) ∧
    (admitRsmp engines 0 7 0 0 1 16 14 = none ∧ (admitRsmp engines 0 7 0 1 1 16 14).isSome = true) := by
  repeat' apply And.intro
  all_goals decide +kernel

theorem crossTime_same (ph : Int) {a b : HistEntry} (free : Nat) (h : b.time = a.time) : crossTime ph a b free = a.time := by
  unfold crossTime
  simp only [h]
  omega

/-- A phase between two entries of one time lies at that time. -/
theorem pointMap_same {s : State} {src : Nat} {since : Option Int} {ph : Int} {a b : HistEntry} (free : Nat)
    (h : histCross ph (goodEntries (getSrc s src).hist) = some (a, b)) (g : a.gen = b.gen) (t : b.time = a.time) :
    pointMap s src since ph free =
      .mapped [(a.time, crossRate a b a.time, a.state == srcCoasting || b.state == srcCoasting)] := by
  unfold pointMap
  simp [h, g, crossTime_same ph free t]

theorem join_flat {g : Nat → RevMap} {x : Nat × Int × Bool} : ∀ (l : List Nat) (acc : List (Nat × Int × Bool)),
    (∀ i ∈ l, g i = .mapped [x]) → l.foldl (fun (m : RevMap) i => m.join (g i)) (.mapped acc) = .mapped (acc ++ List.replicate l.length x)
  | [], acc, _ => by simp
  | i :: l, acc, h => by
    rw [List.foldl_cons, h i (by simp), show RevMap.join (.mapped acc) (.mapped [x]) = .mapped (acc ++ [x]) from rfl,
      join_flat l (acc ++ [x]) (fun j hj => h j (by simp [hj]))]
    simp [List.replicate_succ]

/-- The 16 points of revolution 1. -/
def flatPoints : List (Nat × Int × Bool) := List.replicate 16 (2 ^ 64, 12800 * 2 ^ 32, false)

theorem revMap_engines : revMap engines (rsmpJob (some 1)) 1 = .mapped flatPoints := by
  unfold revMap
  have h : ∀ i ∈ List.range 16, histCross (revNear (revAnchor engines 14) 1 * 2 ^ 96 + (i : Int) * 2 ^ 96 / 16)
      (goodEntries (getSrc engines 14).hist) = some (⟨2 ^ 64, 0, 12800 * 2 ^ 32, 1, 0⟩, ⟨2 ^ 64, 2 * 2 ^ 96, 12800 * 2 ^ 32, 1, 0⟩) := by
    decide +kernel
  exact join_flat (List.range 16) [] (fun i hi => pointMap_same _ (h i hi) rfl rfl)

/-- The stream of channel 5 around sample 204,800 holds one cell throughout. -/
def streamed (c : Cell) : State :=
  (List.range 40).foldl (fun q i => memPut (larderBase + sampleAddr engines 5 (204764 + 2 * i)) c q)
    (withJobs [rsmpJob (some 1)] engines)

theorem witness_ResamplerAndSpectralEngines_plans :
    rsmpPlan engines (rsmpJob (some 1)) = .write flatPoints := by
  unfold rsmpPlan
  rw [show (rsmpJob (some 1)).next = some 1 from rfl]
  simp only [revMap_engines]
  decide +kernel

theorem witness_ResamplerAndSpectralEngines_blocks :
    rsmpPlan engines (rsmpJob (some 3)) = .invalid 2 ∧ rsmpPlan engines (rsmpJob none) = .begins ∧
    rsmpPlan (modSrc 14 (fun x => { x with hist := [] }) engines) (rsmpJob (some 1)) = .waits ∧
    rsmpPlan (modSrc 14 (fun x => { x with hist := [⟨0, 0, 0, 3, 0⟩] }) engines) (rsmpJob (some 1)) = .invalid 1 ∧
    servedBefore (withJobs [rsmpJob (some 1)] engines) (rsmpJob (some 1)) = false ∧
    jw (rsmpJob (some 1)) 4 = 0 ∧ (jw (rsmpJob (some 1)) 0).getLsbD 29 = false ∧
    okWith (engWrites 0 (blockAddr (rsmpJob (some 1)) 1) [blockHeader 1 0 0 false false false 1, cellUnbound]
      (withJobs [rsmpJob (some 1)] engines)) (fun q => findJob q 7 0 == some (rsmpJob (some 1))) = true := by
  repeat' apply And.intro
  all_goals decide +kernel

theorem witness_ResamplerAndSpectralEngines_inputs :
    fails (blockInputs engines (rsmpJob (some 1)) flatPoints [5]) = true ∧
    okWith (blockInputs (streamed ⟨tagF32x2, 0⟩) (rsmpJob (some 1)) flatPoints [5]) (fun r => r.isSome) = true ∧
    okWith (blockInputs (streamed poison) (rsmpJob (some 1)) flatPoints [5]) (fun r => r.isNone) = true := by
  repeat' apply And.intro
  all_goals decide +kernel

/-- A 64-point job of kind 0 over memory, armed; over channel 5. -/
def specDesc (op kind : Nat) : List Cell :=
  [cellRaw (w64 (op + 0x3000 + 0x80000)), cellNil, cellRaw (w64 kind), cellRaw 0x1000, cellRaw 0x1000, cellRaw 0, cellRaw 0, cellRaw 0]
def specJob (kind : Nat) : Job := { aJob 23 0 (specDesc 2 kind) with
  cur := some (0, 0, 0) }

theorem witness_ResamplerAndSpectralEngines_spectralPosts :
    (engOwner engines 23 = some 0 ∧ engPowered engines 23 = true ∧ pwrOn engines 21 = true) ∧
    (∀ op ∈ [1, 2, 3, 4], specForeign engines 0 (specDesc op 1) = false ∧ specBad engines 0 (specDesc op 1) = false ∧
      specBad engines 0 (specOp op [⟨tagFix, 0⟩]) = true) ∧
    specForeign engines 1 (specDesc 1 (2 + 5 * 4)) = true ∧
    (findJob engines 23 0 = none ∧ (findJob (withJobs [specJob 1] engines) 23 0).isSome = true) ∧
    (admitSpec engines 0 15 0 0 1 = none ∧ (admitSpec engines 0 15 0 1 1).isSome = true ∧ (specOf (specDesc 1 1)).kind ≠ 5) := by
  repeat' apply And.intro
  all_goals decide +kernel

theorem witness_ResamplerAndSpectralEngines_executions :
    (let s := (List.range 32).foldl (fun q i => memPut (larderBase + 8 * i) ⟨tagF32x2, 0⟩ q) engines
     okWith (specInput s (specJob 1) 0 0) (fun r =>
      okWith (engWrites 0 0x1000 ((List.range (specResults (specOf (specDesc 2 1)))).map (fun _ => (⟨tagF32x2, 0⟩ : Cell)))
        (seenInput (withJobs [specJob 1] s) (specJob 1) 0 0)) (fun q => q.jobs == [specJob 1] && r.1 == [List.replicate 64 0])) = true) ∧
    (match specInput (withJobs [specJob 18] engines) (specJob 18) 0 0 with
      | .error e => e == (5, 0)
      | .ok _ => false) = true ∧
    (bitsOf (jw (specJob 1) 6) 43 3 = 0 ∧ (specJob 1).desc.getD 1 cellNil = cellNil ∧ (specOf (specJob 1).desc).op = 2 ∧
      (specOf (specJob 1).desc).avg = 0 ∧ (specOf (specJob 1).desc).kind ≤ 1) ∧
    (let j := { specJob 1 with
       cur := none
       pend := some (0, 0, 0) }
     j.pend ≠ none ∧ inputReady (withJobs [j] engines) j = true ∧ isLate (withJobs [j] engines) j = false ∧
      engPowered engines 23 = true) ∧
    bitsOf (jw (aJob 23 0 ((specDesc 2 1).set 4 (cellRaw 0x10001000))) 4) 43 28 ≠ 0 ∧
    (isKeeper engines (.core 0) = true ∧ bitsOf (getReg engines .SPEC_ENG_OWN 15) 3 0 ≠ bitsOf (0 : Word) 3 0) := by
  repeat' apply And.intro
  all_goals decide +kernel

/-- Lane 7 in a state, of a version, and AUTO; core 0 at level K. -/
def lane7 (st ver : Nat) : State :=
  sets [(fldSFL_LANE_STAT_LSTATE, 7, st), (fldSFL_LANE_STAT_VER, 7, ver), (fldSFL_LANE_CTL_AUTO, 7, 1),
    (fldSFL_LANE_CTL_TSEN, 7, 1), (fldSFL_LANE_CTL_VMAX, 7, 3), (fldPWR_DOM_CTL_PST, 25, 1)] (ops cellNil cellNil)
/-- A bundle of one header and a payload, and its check sum. -/
def bun (w0 : Word) (w2 : Word) (p : List Word) : Bundle := ⟨[w0, 0, w2, 0], p⟩

theorem witness_FieldLinkLanesAndBundles_lanes :
    (isKeeper (lane7 0 0) (.core 0) = true ∧ isKeeper (lane7 0 0) (.host 8) = false ∧ laneHeld (lane7 0 0) 7 = false ∧
      pwrOn (lane7 0 0) (24 + 7 / 4) = true ∧ pwrOn (sets [(fldPWR_DOM_CTL_PST, 25, 0)] (lane7 0 0)) (24 + 7 / 4) = false) ∧
    (∀ st < 5, laneState (lane7 st 2) 7 = st) ∧
    (let s := lane7 laneActive 2
     fget s fldSFL_LANE_STAT_BONDED 7 = 0 ∧ (getLink s 7).reqs = [] ∧ timedLane s 7 = true ∧ linkLanes s 7 = [7] ∧
      canSend s 7 2 = true ∧ fget s fldSFL_LANE_CTL_AUTO 7 = 1) ∧
    (∀ o < 64, drvState (lane7 laneActive 2) o ≠ drvArmed) ∧
    (fget (lane7 laneSeek 0) fldSFL_LANE_CTL_RATE 7 = 0 ∧ slowOnly (lane7 laneSeek 0) 7 = false) := by
  repeat' apply And.intro
  all_goals decide +kernel

theorem witness_FieldLinkLanesAndBundles_bundles :
    (let b := bun 0x40000 1 [2, 5, 0, 0]
     corrupt (lane7 laneCapx 0) 7 false b (crcOf (b.hdr ++ b.payload)) = false ∧ bunType b = tyLink ∧ bunKind b = 1 ∧
      corrupt (lane7 laneCapx 0) 7 true b (crcOf (b.hdr ++ b.payload)) = true ∧ (getLane (lane7 laneCapx 0) 7).gotAck = false ∧
      crcOf (b.hdr ++ b.payload) < 2 ^ 32 ∧ fget (lane7 laneCapx 0) fldFLT_LOGB_EN 0 = 0) ∧
    (let b := bun 0x1002 0 []
     corrupt (lane7 laneActive 2) 7 false b (crcOf b.hdr) = false ∧ (b.hdr.getD 0 0).getLsbD 12 = true ∧
      (b.hdr.getD 0 0).getLsbD 13 = false ∧ bunType b = tyLink ∧ bunKind b ≠ 2 ∧ (getLink (lane7 laneActive 2) 7).waiting = []) ∧
    (∀ n ∈ [0, 1, 32767, 32768, 65535], let b := bun (w64 (0x22 + n * 2 ^ 32)) 0 []
     corrupt (lane7 laneActive 2) 7 false b (crcOf b.hdr) = false ∧ bunType b = tySample ∧
      (bunSeq b + 65536 - (getLink (lane7 laneActive 2) 7).expect) % 65536 = n) ∧ linkUp (lane7 laneActive 2) 7 = true := by
  repeat' apply And.intro
  all_goals decide +kernel

theorem witness_FieldLinkLanesAndBundles_links :
    (linkLanes (modLink 7 (fun x => { x with kept := [(0, bun 0 0 [])] }) (lane7 laneActive 2)) 7 = [7] ∧
      (getLink (modLink 7 (fun x => { x with nak := true }) (lane7 laneActive 2)) 7).nak = true) ∧
    (getLane (modLane 7 (fun x => { x with openTs := [(1, 0)] }) (lane7 laneActive 2)) 7).openTs = [(1, 0)] ∧
    (40 * 2 ^ 32 < (2 * (0 + 1000) - median2 [0]).natAbs * 1000000000) ∧
    (wakeOk cellNil = true ∧ bitsOf (0x70 : Word) 6 4 = 7 ∧ bitsOf (0x70 : Word) 31 7 = 0 ∧ bitsOf (8 : Word) 2 0 = 0) ∧
    linkUp State.reset 7 = false ∧ agentPart (lane7 0 0) (.core 0) = none ∧
    (64 ≤ (getLink (modLink 7 (fun x => { x with reqs := List.replicate 64 ⟨0, 0, cellNil, none, []⟩ }) State.reset) 7).reqs.length) ∧
    (∀ k < 8, chansOn (lane7 0 0) k = []) ∧ (0xC0 : Nat).testBit 6 = true ∧
    (∀ k < 6, ¬ (0xC0 : Nat).testBit k = true) ∧ (∀ h < 8, fget (lane7 0 0) fldSFL_BOND_EN h ≠ 1) := by
  repeat' apply And.intro
  all_goals decide +kernel

theorem witness_FieldLinkLanesAndBundles_channels :
    (let s := sets [(fldSFL_LINK_LIM_LIM, 7, 819200)] (ops cellNil cellNil)
     fget s fldSFL_CHT_A_V 16383 = 0 ∧
      linkLoad (fset fldSFL_CHT_A_V 16383 1 (setReg .SFL_CHT_A 16383 0xE s)) 7 ≤ fget s fldSFL_LINK_LIM_LIM 7 ∧
      fget State.reset fldSFL_LINK_LIM_LIM 7 < linkLoad (fset fldSFL_CHT_A_V 16383 1 (setReg .SFL_CHT_A 16383 0xE State.reset)) 7) ∧
    fget (fset fldSFL_CHT_A_V 16383 1 (ops cellNil cellNil)) fldSFL_CHT_A_V 16383 = 1 := by
  repeat' apply And.intro
  all_goals decide +kernel

/-- Output 63 of partition 0, mapped to link 7 with limits, in a state and of a MODE; a quota of one. -/
def output (st mode : Nat) : State :=
  setReg .DRV_OUT_AMAX 63 0x3F800000 (setReg .DRV_OUT_SMAX 63 0x3F800000 (setReg .DRV_OUT_RMAX 63 0x3F800000
    (sets [(fldDRV_OUT_CFG_ASSIGNED, 63, 1), (fldDRV_OUT_CFG_MODE, 63, mode), (fldDRV_OUT_STAT_STATE, 63, st),
      (fldDRV_OUT_MAP_EN, 63, 1), (fldDRV_OUT_MAP_LINK, 63, 7), (fldDRV_GCTL_ARMEN, 0, 1), (fldDRV_OUT_LACT_WDOG, 63, 1),
      (fldPHASE_CAL_QUOTA_QUOTA, 0, 1), (fldPHASE_SRC_OWN_ASSIGNED, 14, 1)]
      { lane7 laneActive 2 with abortN := true })))
/-- A frame of output 63: amplitude 0, frequency 50. -/
def frameCells (due : Cell) (pclass : Bool) : List Cell :=
  [cellRaw (w64 (0x3F1 + 2048 * pclass.toNat)), due, flo 0, flo 0x4049000000000000, cellRaw 0, flo 0, flo 0, cellNil]
def aFrame (due : Cell) (resolved : Option Nat) : Frame := ⟨0, 64, 0, frameCells due false, 1, none, resolved, none⟩
def withFrames (l : List Frame) (s : State) : State := modDrive 63 (fun x => { x with frames := l }) s

theorem witness_DrivePathAndGuard_posts :
    (outOwner (output 1 1) 63 = some 0 ∧ agentPart (output 1 1) (.host 0) = some 0 ∧ isKeeper (output 1 1) (.host 0) = false ∧
      outOwner (output 1 1) 62 = none ∧ agentPart (output 1 1) (.core 63) = none) ∧
    (∀ op ∈ [1, 2, 3, 4, 5], driveBad (output 1 1) (specOp op (frameCells cellNil false)) = false ∧
      driveBad (output 1 1) (specOp op [⟨tagFix, 0⟩]) = true) ∧
    (driveBad (output 1 1) (specOp 1 (frameCells ⟨0x3E, 0⟩ false)) = false ∧ srcReads (output 1 1) 0 14 = true ∧
      srcReads (output 1 1) 0 13 = false ∧ calUsed (output 1 1) 0 = 0 ∧
      calUsed (withFrames [aFrame cellNil (some 0)] (output 1 1)) 0 = 1 ∧ srcState (output 1 1) 14 ≠ srcLocked) ∧
    (admitFrame (output 1 1) 0 63 none).isSome = true ∧
    (let s := sets [(fldPHASE_SRC_STAT_STATE, 14, srcLocked)] (output 1 1)
     srcState s 14 = srcLocked ∧ someWith (dueDiff s 14 1) (fun d => decide (0 < d)) = true) ∧
    (armOk (output 0 1) 63 = true ∧ armOk (output 2 1) 63 = false) := by
  repeat' apply And.intro
  all_goals decide +kernel

theorem witness_DrivePathAndGuard_states :
    (∀ i < 15, srcType (output 0 1) i ≠ typDrive) ∧
    (∀ n ∈ [drvDisarmed, drvArmed, drvRamping], drvState (output n 1) 63 = n ∧
      (∀ q < 63, drvState (output n 1) q = drvDisarmed)) ∧
    (let s := sets [(fldPHASE_SRC_STAT_STATE, 14, srcLocked)] (modSrc 14 (fun x => { x with omega := 2 ^ 32 }) (output 1 1))
     someWith (frameInstant s (aFrame ⟨0x3E, 1⟩ none)) (fun t => decide (t ≤ s.dtime + gridSpan (leadOf s + 2))) = true) ∧
    (frameDue (output 1 1) (aFrame cellNil (some 0)) = some 0 ∧ frameDue (output 1 1) (aFrame cellNil (some 1)) = none ∧
      (frCell (aFrame cellNil (some 0)) 7).tag = tagNil ∧ (frCell (aFrame cellNil (some 0)) 3).tag ≠ tagNil) ∧
    (linkLanes (output 0 1) 7 = [7] ∧ canSend (output 0 1) 7 3 = true ∧
      max (getDrive (output 0 1) 63).nextG (gridFrom (output 0 1) 63 0) * 2 ^ 64 / 204800 ≤ 0 + gridSpan (aheadOf (output 0 1) 63)) ∧
    (freeActs (withFrames [aFrame cellNil (some 0)] (output 1 1))).contains 0 = true ∧
    ((getDrive (modDrive 63 (fun x => { x with silent := true }) (output 0 1)) 63).silent = true ∧
      (getDrive (output 0 1) 63).silent = false) ∧
    (let s := output 0 1
     let g := max (getDrive s 63).nextG (gridFrom s 63 s.dtime)
     (checkSample 63 g (seenRing 63 g s)).1 = some 0 ∧ fget s fldDRV_OUT_CFG_MODE 63 ≠ 3) ∧
    max 1 (fget (output 1 1) fldDRV_GCTL_FILT 0) * 50 ≤ 50 ∧
    (fget (output 1 1) fldDRV_OUT_LACT_WDOG 63 ≠ 0 ∧ (output 1 1).abortN = true ∧ isKeeper (output 1 1) (.core 0) = true) := by
  repeat' apply And.intro
  all_goals decide +kernel

/-- Function f in a state, of a version, its rings 0, 8, 16 and 20 enabled; partition 0 as in `engines`, RUNNING. -/
def function (f st ver : Nat) : State :=
  let s := sets [(fldHIF_FN_STAT_FSTATE, f, st), (fldHIF_FN_NEG_AGREED, f, ver), (fldGLB_PART_CTL_STATE, 0, 2)] engines
  sets ([0, 8, 16, 20].map (fun r => (fldHIF_RING_CFG_EN, ringIx f r, 1))) s

/-- The same with doorbells of its rings 0, 8 and 16. -/
def rung (f st ver : Nat) (db : List (Nat × Nat)) : State := modFn f (fun x => { x with db := db }) (function f st ver)

theorem witness_HostFunctionsAndDoorbells_doorbells :
    (let s := function 7 fnRunning 2
     ringOn s 7 0 = true ∧ ringOn s 7 1 = false ∧ ringOn s 7 8 = true ∧ ringOn s 7 16 = true ∧ doorbell s 7 0 = 0 ∧ (getFn s 7).lostMarks = 0 ∧
      seqDiff 16 (ringSeq s 7 0) ≤ ringSize s 7 0 ∧ ¬ seqDiff 17 (ringSeq s 7 0) ≤ ringSize s 7 0 ∧
      0 ≤ seqDiff (ringSeq s 7 8) 0 ∧ ¬ 0 ≤ seqDiff (ringSeq s 7 8) 1) ∧
    (fnState (rung 7 fnRecover 3 [(8, 1)]) 7 = fnRecover ∧ seqDiff 0 (doorbell (rung 7 fnRecover 3 [(8, 1)]) 7 8) < 0) ∧
    (getFn (modFn 7 (fun x => { x with bind := [(255, 5, 0)] }) State.reset) 7).bind.find? (fun p => p.1 == 255) = some (255, 5, 0) ∧
    (getFn State.reset 7).bind.find? (fun p => p.1 == 255) = none := by
  repeat' apply And.intro
  all_goals decide +kernel

theorem witness_HostFunctionsAndDoorbells_functions :
    (∀ n ∈ [fnDetached, fnRunning, fnRecover], fnState (function 8 n 3) 8 = n) ∧
    (∀ n ∈ [1, 2, 3], fnVer (function 8 0 n) 8 = n) ∧
    (let s := sets [(fldHIF_ATTIC_EN, 8, 1), (fldHIF_SHADOW_EN, 8, 1)] State.reset
     fget s fldHIF_ATTIC_EN 8 = 1 ∧ fget s fldHIF_SHADOW_EN 8 = 1 ∧ fget State.reset fldHIF_ATTIC_EN 8 ≠ 1 ∧ fnState s 8 = fnDetached) ∧
    (∀ r ∈ [0, 8, 20], ringOn (function 8 0 3) 8 r = true) ∧ ringOn State.reset 8 0 = false ∧
    (∀ n ∈ [0x100, 0x200, 0x300], bitsOf (w64 n) 9 8 = n / 256) ∧
    ((function 8 fnRunning 3).cmds = [] ∧ (function 8 fnRunning 3).records = []) ∧
    fget (sets [(fldHIF_FN_STAT_CAUSE, 8, 3)] (function 8 fnRecover 3)) fldHIF_FN_STAT_CAUSE 8 = 3 := by
  repeat' apply And.intro
  all_goals decide +kernel

/-- A command of function 0, ring 0. -/
def hostCmd (op stage : Nat) (words : List Word) : HostCmd :=
  { fn := 0
    ring := 0
    seq := 0
    op := op
    cls := 0
    tagged := false
    cookie := 0
    words := words
    stage := stage
    status := 0
    detail := 0
    res0 := 0
    res1 := 0
    taker := none }
def withCmds (l : List HostCmd) (s : State) : State := { s with cmds := l }

theorem witness_HostFunctionsAndDoorbells_acceptance :
    (let s := rung 0 fnRunning 2 [(0, 1)]
     mayAccept s 0 0 = true ∧ mayAccept s 0 1 = false ∧ fnVer s 0 ≠ 3 ∧ refusalOf s (cmdOf s 0 0 [0, 0, 0, 0, 0, 0, 0, 0]) = none ∧
      refusalOf s (cmdOf s 0 0 [0xFF, 0, 0, 0, 0, 0, 0, 0]) = some (5, 0)) ∧
    (let s := { rung 0 fnRunning 3 [(0, 1)] with cmds := List.replicate 511 (hostCmd opNop 1 []) }
     mayAccept s 0 0 = true ∧ journalRoom s 0 = false ∧ journalRoom (rung 0 fnRunning 3 []) 0 = true) ∧
    (withCmds [hostCmd opNop 0 []] State.reset).cmds = [hostCmd opNop 0 []] ∧
    (20, 7) ∈ (getFn (modFn 8 (fun x => { x with unsignalled := [(20, 7)] }) State.reset) 8).unsignalled := by
  repeat' apply And.intro
  all_goals decide +kernel

theorem witness_HostCommandsAndCompletions_commands :
    (∀ op ∈ [opNop, opFence, opIdentify, opBind, opFw, opExport], nextCmd (withCmds [hostCmd op 1 []] engines) 0 0 =
      some (hostCmd op 1 [])) ∧
    (let s := withCmds [hostCmd opWrite 2 [], hostCmd opFence 1 []] engines
     s.cmds.length = 2 ∧ bitsOf (cmdWord (hostCmd opFence 1 []) 2) 1 0 = 0 ∧ nextCmd State.reset 8 7 = none) ∧
    (let c := hostCmd opWrite 1 [0x10, 0, 0, 0, 8]
     bitsOf (cmdWord c 4) 39 0 = 8 ∧ (cmdWord c 3).toNat % 8 = 0 ∧
      okWith (hostPa (withCmds [c] engines) 0 .store 0) (fun _ => true) = true ∧
      fails (hostPa (withCmds [c] engines) 0 .store 0x1000000) = true) ∧
    (let c := hostCmd opWrite 1 [0x10, 0, 0, 1, 1]
     partOk (memPut larderBase cellNil (withCmds [c] engines)) 0 1 = false) ∧
    (okWith (hostPa (memPut larderBase poison engines) 0 .load 0) (fun pa =>
      pa % 8 == 0 && (physRead (memPut larderBase poison engines) pa).tag == tagPoison) = true ∧
      okWith (hostPa engines 0 .load 0) (fun pa => (physRead engines pa).tag != tagPoison) = true) := by
  repeat' apply And.intro
  all_goals decide +kernel

/-- A drive frame of eight cells in memory, posted by function 0. -/
def frameState : State :=
  (frameCells cellNil false).zipIdx.foldl (fun s p => memPut (larderBase + 8 * p.2) p.1 s)
    { sets [(fldPWR_DOM_CTL_PST, 22, 1), (fldPWR_DOM_CTL_PST, 21, 1)] (output 1 1) with fabricTlb := engines.fabricTlb }
def frameCmd : HostCmd := hostCmd opPost 1 [0x20, 0, 0xF40, 0]

theorem witness_HostCommandsAndCompletions_posts :
    (let c := hostCmd opPost 1 [0x20, 0, 0x800, 0x1000000]
     fails (postCells (withCmds [c] engines) c) = true) ∧
    (let c := hostCmd opPost 1 [0x20, 0, 0x48, 0, 0]
     okWith (postCells (withCmds [c] engines) c) (fun cells =>
      (hostPostAt (withCmds [{ c with stage := 2 }] engines) c cells).1 == 2) = true) ∧
    (∀ q ∈ [((0x1001 : Word), 0x3E, 4), (0x1002, 0x3E, 3), (0x1002, 0xC0, 5)],
      let tags := tagRaw64.toNat + q.2.1 * 2 ^ 8 + tagRaw64.toNat * 2 ^ 16 + tagNil.toNat * 2 ^ 24
      let c := hostCmd opPost 1 [0x20, 0, w64 (0x310 + tags * 2 ^ 16), 0, q.1, 1, 0, 0]
      postNo c = 0x10 ∧ okWith (postCells (withCmds [c] (calendar engines)) c) (fun cells =>
        (hostPostAt (withCmds [{ c with stage := 2 }] (calendar engines)) c cells).1 == q.2.2) = true) ∧
    (postNo frameCmd = 0x40 ∧ okWith (postCells (withCmds [frameCmd] frameState) frameCmd) (fun cells =>
      bitsOf (cells.getD 0 cellVoid).data 3 0 == 1 &&
        (hostPostAt (withCmds [{ frameCmd with stage := 2 }] frameState) frameCmd cells).1 == 0) = true) ∧
    ((cmdWord (hostCmd opExport 1 [0x22, 0, 5, 15]) 2).getLsbD 22 = false ∧
      (cmdWord (hostCmd opExport 1 [0x22, 0, 0x400005, 15]) 2).getLsbD 22 = true) := by
  repeat' apply And.intro
  all_goals decide +kernel

/-- An export of channel 5 in records of 16 samples. -/
def anExport (next : Nat) : Export :=
  { fn := 0
    ring := 16
    first := 5
    count := 1
    ns := 16
    next := next
    gen := 0
    control := false
    waiting := false
    miss := none }

theorem witness_HostCommandsAndCompletions_ends :
    (fnVer (function 0 fnRunning 3) 0 = 3 ∧ fnState (function 0 fnRunning 3) 0 = fnRunning ∧ ringIx 0 8 < 65536 ∧
      fget (function 0 fnRunning 3) fldHIF_RING_CFG_IEN (ringIx 0 8) = 0) ∧
    (let e := anExport 204880
     let s := { function 0 fnRunning 2 with exports := [e] }
     recEnd s e = 204896 ∧ 204896 ≤ exWritten s e ∧ exHeld s e ≤ e.next ∧
      recordRoom s 0 16 ((1 * 16 * 5 + 63) / 64 * 64) = true ∧ (heldRecords s 0 16).length + 1 ≤ ringSize s 0 16 ∧
      recMissing s 0 5 1 204880 16 = false ∧ recordRoom engines 0 16 128 = false) ∧
    (let e := anExport 204896
     exWritten { engines with exports := [e] } e < recEnd { engines with exports := [e] } e) := by
  repeat' apply And.intro
  all_goals decide +kernel

theorem witness_HostCommandsAndCompletions_firmware :
    (firmFn (ops cellNil cellNil) 0 = some 8 ∧ firmFn (tasked [] []) 0 = some 0 ∧ firmFn (level 1 (ops cellNil cellNil)) 0 = none) ∧
    (let m := hostCmd opFw 2 []
     let s := withCmds [{ m with fn := 8 }] (mapped [] [])
     inbox s 8 = [{ m with fn := 8 }] ∧ okWith (fnWrites 8 larderBase (List.replicate 8 (cellRaw 0)) s) (fun q => q.cmds == s.cmds) = true) ∧
    (bitsOf (larderBase : Word) 2 0 = 0 ∧ bitsOf (0x0 : Word) 8 4 = 0 ∧ ({ hostCmd opFw 2 [] with taker := some (5, 0) }).taker ≠ none) ∧
    recordRoom (function 0 fnRunning 2) 0 16 0 = true ∧ recordRoom State.reset 0 16 0 = false := by
  repeat' apply And.intro
  all_goals decide +kernel

def booting (st mem : Nat) : State := sets [(fldSEC_BOOT_STAT_STATE, 0, st), (fldMEM_STAT_STATE, 0, mem)] (ops cellNil cellNil)
def withBoot (f : Boot → Boot) (s : State) : State := { s with boot := f s.boot }
def anImage : Image := ⟨2, 0, 0, 0, larderBase, 0x1000, 0, 0, []⟩

theorem witness_BootTrustAndServices_start :
    (State.reset.boot.stage = 0 ∧ bootState State.reset = btStart ∧ State.reset.otp.boots < 65528) ∧
    (withBoot (fun b => { b with stage := 1 }) State.reset).boot.stage = 1 ∧
    (let s := { withBoot (fun b => { b with stage := 2 }) (sets [(fldCLK_STAT_LOCK, 0, 0xC)] State.reset) with locking := [4] }
     s.boot.stage = 2 ∧ bootState s = btStart ∧ memState s = memOff ∧ 4 ∈ s.locking ∧ ratioOk (pllLocks 4 s) = true ∧
      (∀ j ∈ [2, 3, 4], pllLocked s j = true ∨ j = 4)) ∧
    (let s := { sets [(fldCLK_STAT_LOCK, 0, 0x39), (fldCLK_DOM_SEL_SRC, 8, 0), (fldCLK_DOM_SEL_DIV, 8, 63),
        (fldCLK_DOM_SEL_SRC, 9, 0), (fldCLK_DOM_SEL_DIV, 9, 1)] State.reset with locking := [2] }
     ratioOk (pllLocks 2 s) = false) ∧
    (pfOrK (booting btHold memKeyed) (.host 8) = true ∧ pfOrK State.reset (.host 0) = false ∧
      bootState (booting btHold memKeyed) = btHold ∧ bootState (booting btWait memTraining) = btWait) := by
  repeat' apply And.intro
  all_goals decide +kernel

/-- A bundle of the right form: an MCODE and a KEEPER entry, the headers all zero but TYPE and DEST. -/
def bundle : List (BitVec 8) :=
  [0x53, 0x4B, 0x42, 0x4E, 1, 0, 2, 0, 48, 0, 0, 0, 0, 0, 0, 0, 32, 0, 0, 0, 8, 0, 0, 0, 40, 0, 0, 0, 8, 0, 0, 0,
   0, 0, 0, 0, 0, 1, 0, 0, 0, 0, 0, 0, 0, 2, 0, 0]

theorem witness_BootTrustAndServices_images :
    (let s := sets [(fldSEC_BOOT_LEN_LEN, 0, 48)] (booting btLoad memReady)
     bootState s = btLoad ∧ s.boot.accepted = false ∧ bundleOk s bundle = true ∧ awaitsMemory s bundle = false ∧
      bundleOk s [] = false ∧ awaitsMemory (sets [(fldMEM_STAT_STATE, 0, memTraining)] s) bundle = true) ∧
    (∀ m ∈ [memReady, memFailed, memTraining],
      let s := withBoot (fun b => { b with
        accepted := true
        keeper := some anImage }) (booting btLoad m)
      bootState s = btLoad ∧ s.boot.accepted = true ∧ memState s = m ∧ s.boot.keeper = some anImage) ∧
    (fget (booting 0 0) fldSEC_ATT_STAT_STATE 0 = 0 ∧ (withBoot (fun b => { b with stage := 2 }) (booting 0 0)).boot.stage ≠ 0) ∧
    (State.reset.otp.prog.testBit 4 = false ∧ pfOrK State.reset (.host 8) = true ∧ liveVendors State.reset.otp ≠ [5] ∧
      ({ State.reset.otp with prog := 0x10 }).prog.testBit 4 = true) := by
  repeat' apply And.intro
  all_goals decide +kernel

def serviceDesc (w : Word) : List Cell := [cellRaw w, cellRaw 0, cellRaw 0, cellNil]

theorem witness_BootTrustAndServices_services :
    (∀ op ∈ [1, 2, 3, 4], serviceBad (withOp 3 op (serviceDesc 0)) = false ∧ serviceBad (withOp 3 op (serviceDesc 0x40000)) = true) ∧
    (isKeeper (booting 4 4) (.core 0) = true ∧ isKeeper State.reset (.host 0) = false ∧ atLevelT State.reset (.host 0) = false ∧
      agentPart State.reset (.host 0) = some (bitsOf (0 : Word) 6 4)) ∧
    (2 ≤ partState (sets [(fldGLB_PART_CTL_STATE, 0, 2)] State.reset) 0 ∧ clusterAssigned (tasked [] []) 0 = true ∧
      (w64 0x100).getLsbD 8 = true) ∧
    (let q : Service := ⟨serviceDesc 0x20003, none, false⟩
     let s := withBoot (fun b => { b with services := [q] }) State.reset
     s.boot.services = q :: [] ∧ bitsOf (0x20003 : Word) 3 0 = 3 ∧ bitsOf (0x20003 : Word) 17 16 = 2 ∧
      serviceAddr s q.part .store 0 = some 0) ∧
    (let s := sets [(fldPWR_DOM_CTL_PST, 7, 1)] State.reset
     fget s fldCLU_CORE_BOOT_RUN 63 = 0 ∧ coreUsable s 63 = true ∧ fget s fldCLU_CORE_PART_MOVING 63 = 0 ∧
      coreUsable (sets [(fldPWR_DOM_CTL_PST, 7, 0)] State.reset) 63 = false ∧ partOf s 63 = none ∧
      partOf (sets [(fldCLU_CORE_PART_ASSIGNED, 63, 1)] s) 63 ≠ none) := by
  repeat' apply And.intro
  all_goals decide +kernel

theorem witness_ClocksAndPower_domains :
    (let s := ops cellNil cellNil
     isKeeper s (.core 0) = true ∧ fget s fldCLK_CTL_LOCK 0 = 0 ∧ fget s fldCLK_DOM_SEL_SWITCHING 0 = 0 ∧ s.throttled = [] ∧
      fget (sets [(fldCLK_CTL_LOCK, 0, 1)] s) fldCLK_CTL_LOCK 0 = 1) ∧
    (let s := sets [(fldCLK_DOM_SEL_SRC, 0, 1), (fldCLK_DOM_SEL_DIV, 0, 1)] (ops cellNil cellNil)
     fget s fldCLK_DOM_SEL_SRC 0 = 1 ∧ fget s fldCLK_DOM_SEL_DIV 0 = 1 ∧ tooFast 0 fircFreq 63 = false ∧ domPinned s 0 = false ∧
      railBars s 0 1 63 = false) ∧
    tooFast 0 (4 * 10 ^ 9 * 2 ^ 24) 1 = true ∧
    (∀ p ∈ [(1, 2), (0, 63)], ({ State.reset with switching := [(24, p.1, p.2)] }).switching.find? (fun q => q.1 == 24) =
      some (24, p.1, p.2)) ∧
    (ratioOk State.reset = true ∧ ratioOk (sets [(fldCLK_STAT_LOCK, 0, 0x3F), (fldCLK_DOM_SEL_SRC, 8, 0),
      (fldCLK_DOM_SEL_DIV, 8, 63), (fldCLK_DOM_SEL_SRC, 9, 0), (fldCLK_DOM_SEL_DIV, 9, 1)] State.reset) = false) := by
  repeat' apply And.intro
  all_goals decide +kernel

theorem witness_ClocksAndPower_plls :
    (let s := ops cellNil cellNil
     (∀ d ∈ pllDomains 5, domPinned s d = false) ∧ (vcoRange 5).1 ≤ vcoOf s 0 160 0 ∧ vcoOf s 0 160 0 ≤ (vcoRange 5).2 ∧
      vcoOf s 0 0 0 < (vcoRange 5).1 ∧ (∀ d ∈ pllDomains 5, onFirc s d = false → tooFast d (vcoOf s 0 160 0) (domDiv s d) = false)) ∧
    bitsOf (getReg State.reset .CLK_PLL_SS 0) 11 0 ≠ bitsOf (0x841 : Word) 11 0 ∧
    (let s := sets [(fldCLK_PLL_CFG_COAST, 2, 1)] (ops cellNil cellNil)
     coasts s 2 = true ∧ coasts s 1 = false ∧ s.clkBad.contains (2 + fget s fldCLK_PLL_CFG_REF 2) = false ∧
      ({ s with clkBad := [2] }).clkBad.contains (2 + fget s fldCLK_PLL_CFG_REF 2) = true) ∧
    (let s := sets [(fldCLK_STAT_LOCK, 0, 0x3F)] State.reset
     (∀ k < 6, pllRuns s k = true ∧ coasts s k = false ∧ fget s fldCLK_PLL_CFG_REF k = 0) ∧ pllRuns State.reset 5 = false) := by
  repeat' apply And.intro
  all_goals decide +kernel

theorem witness_ClocksAndPower_power :
    (∀ en < 2, let s := sets [(fldCLK_STAT_LOCK, 0, 0x3F), (fldPWR_AVS_EN, 1, en)] State.reset
     pllLocked s 1 = true ∧ fget s fldPWR_AVS_FAULT 1 = 0 ∧ fget s fldPWR_AVS_EN 1 = en ∧
      memState (sets [(fldMEM_STAT_STATE, 0, memReady)] s) ≠ memOff) ∧ memState State.reset = memOff ∧
    (let s := sets [(fldPWR_DOM_CTL_PST, 7, 1)] (ops cellNil cellNil)
     fget s fldPWR_DOM_CTL_PST 7 = 1 ∧ mayGoOff s 7 = true ∧ fget s fldGLB_RESET_PENDING 0 = 0 ∧ fget s fldCLU_RESET_BUSY 7 = 0 ∧
      mayGoOff (sets [(fldCLU_CORE_PART_ASSIGNED, 63, 1)] s) 7 = false) ∧
    fget (sets [(fldPWR_DOM_CTL_PST, 7, 2), (fldPWR_DOM_CTL_REQ, 7, 0)] State.reset) fldPWR_DOM_CTL_PST 7 = 2 ∧
    (let s := sets [(fldPWR_THROT_TH_HI, 0, 100), (fldPWR_THROT_TCRIT, 0, 125), (fldPWR_THROT_EN, 0, 1),
        (fldPWR_DOM_CTL_PST, 0, 1)] State.reset
     (List.replicate 16 (0 : BitVec 12)).length = 16 ∧ sensorOn s 0 = true ∧ fget s fldPWR_THROT_ACTIVE 0 = 0 ∧
      8 * (fget s fldPWR_THROT_TH_HI 0 : Int) ≤ (800 : BitVec 12).toInt ∧ ¬ 8 * (fget s fldPWR_THROT_TH_HI 0 : Int) ≤ (799 : BitVec 12).toInt ∧
      (8 * min 125 (fget s fldPWR_THROT_TCRIT 0) : Int) ≤ (1000 : BitVec 12).toInt ∧ s.tripped = false) ∧
    (let s := { sets [(fldPWR_THROT_ACTIVE, 0, 1)] State.reset with
      cool := some 0
      dtime := 2 ^ 64 / 100 }
     fget s fldPWR_THROT_ACTIVE 0 = 1 ∧ s.cool = some 0 ∧ 0 + 2 ^ 64 / 100 ≤ s.dtime) := by
  repeat' apply And.intro
  all_goals decide +kernel

theorem witness_ResetsAndFaults_resets :
    (pfOrK State.reset (.host 8) = true ∧ fget State.reset fldGLB_RESET_PENDING 0 = 0) ∧
    (let s := sets [(fldGLB_RESET_PENDING, 0, 1), (fldSEC_BOOT_STAT_STATE, 0, 4)] (output 0 1)
     fget s fldGLB_RESET_PENDING 0 = 1 ∧ fget s fldSEC_BOOT_STAT_STATE 0 ≠ btWarm ∧ (∀ o < 64, drvState s o ≠ drvRamping) ∧
      (∀ k < 64, (getCore s k).run = false ∨ mbOf (front s k) = true ∨ cbOf (front s k) = false)) ∧
    (∃ o < 64, drvState (output 2 1) o = drvRamping) ∧
    (let s := sets [(fldPWR_DOM_CTL_PST, 7, 1)] (ops cellNil cellNil)
     isKeeper s (.core 0) = true ∧ fget s fldCLU_RESET_BUSY 7 = 0 ∧ fget s fldPWR_DOM_CTL_PST 7 = 1) ∧
    (let s := sets [(fldCLU_RESET_BUSY, 7, 1)] State.reset
     fget s fldCLU_RESET_BUSY 7 = 1 ∧ ∀ i < 8, (getCore s (56 + i)).run = false) := by
  refine ⟨by decide +kernel, by decide +kernel, ⟨63, by decide +kernel⟩, by decide +kernel, by decide +kernel⟩

theorem witness_ResetsAndFaults_errors :
    (let s := State.reset
     (ctxCell (sideCtx s 63 true) 295 ≠ regPoison ∧ (ctxCell (sideCtx s 63 true) 295).tag ≠ tagPoison) ∧
      cacheFind s 136 1 = none ∧ regionOf s 64 ≠ .ddr ∧ bankOn s 0 = true ∧ (memCell s (bankAddr 0 32767)).tag ≠ tagPoison) ∧
    (let s := dirtied []
     (cacheFind s (l1dOf 0) 1).isSome = true ∧ canonPa s 64 = 64 ∧ (memCell s 64).tag ≠ tagPoison ∧
      fget s fldFLT_LOGB_EN 0 = 0 ∧ someWith (cacheFind s (l1dOf 0) 1) (fun e => e.dirty) = true) ∧
    (let s := ddr [] []
     regionOf s 64 = .ddr ∧ subRetired s 64 = false ∧ lineCached s 1 = false ∧ (memCell s 64).tag ≠ tagPoison ∧
      subRetired (sets [(fldMEM_STAT_SUBFAIL, 0, 2)] s) 64 = true) ∧
    (memCell (memPut 64 poison (ddr [] [])) 64).tag = tagPoison := by
  repeat' apply And.intro
  all_goals decide +kernel

def acting (cls unit act : Nat) : State := { State.reset with faultActs := [⟨cls, unit, act, 511, 0x12345000⟩] }

theorem witness_ResetsAndFaults_actions :
    (∀ q ∈ [(1, 64, 1), (1, 191, 1), (2, 192, 1), (2, 207, 1), (3, 216, 2), (0, 0, 3), (4, 215, 4), (6, 287, 5), (0, 63, 6)],
      (acting q.1 q.2.1 q.2.2).faultActs = [⟨q.1, q.2.1, q.2.2, 511, 0x12345000⟩] ∧ (acting q.1 q.2.1 q.2.2).deferred = [] ∧
        q.2.1 < 299) ∧
    fget (sets [(fldGLB_RESET_PENDING, 0, 1)] (acting 0 63 6)) fldGLB_RESET_PENDING 0 = 1 ∧
    fget (sets [(fldCLU_RESET_BUSY, 7, 1)] (acting 0 63 6)) fldCLU_RESET_BUSY (63 / 8) = 1 ∧
    fget (sets [(fldCLU_RESET_BUSY, 7, 1)] (acting 1 191 1)) fldCLU_RESET_BUSY ((191 - 64) / 16) = 1 ∧
    (let s := sets [(fldLARD_BANK_CTL_DARN, 0, 1)] (acting 3 216 2)
     fget s fldLARD_BANK_CTL_DARN (216 - 216) = 1 ∧ bankOn s (216 - 216) = true) ∧
    fget State.reset fldFLT_PAGE_V 0 = 0 ∧ fget State.reset fldMEM_STAT_SUBFAIL 0 = 0 ∧ laneHeld State.reset 7 = false ∧
    (let s := modCore 63 (fun c => { c with
        run := true
        front := { c.front with pstat := 0xA } }) (acting 0 63 6)
     (getCore s 63).run = true ∧ mbOf (front s 63) = false ∧ cbOf (front s 63) = true) := by
  repeat' apply And.intro
  all_goals decide +kernel

theorem witness_ResetsAndFaults_writes :
    (let s := ops cellNil cellNil
     isKeeper s (.core 0) = true ∧ isKeeper s (.host 0) = false ∧
      s.faultActs.any (fun a => a.cls == 0 && bitOf (2 ^ 63 : Word) a.unit != bitOf (getReg s .FLT_CORE_OFF 0) a.unit) = false) ∧
    (let s := { ops cellNil cellNil with faultActs := [⟨0, 63, 6, 0, 0⟩] }
     s.faultActs.any (fun a => a.cls == 0 && bitOf (2 ^ 63 : Word) a.unit != bitOf (getReg s .FLT_CORE_OFF 0) a.unit) = true) ∧
    (let s := { ops cellNil cellNil with faultActs := [⟨6, 287, 5, 0, 0⟩] }
     s.faultActs.any (fun a => a.cls == 6 && bitOf ((0x80 : BitVec 32).zeroExtend 64) (a.unit - 280) !=
       bitOf (getReg s .FLT_LANE_RET 0) (a.unit - 280)) = true) := by
  repeat' apply And.intro
  all_goals decide +kernel

theorem witness_ResetsAndFaults_smbus :
    (∃ off : BitVec 32, regAt off.toNat = some (Reg.CLK_STAT, 0, 0) ∧ off.toNat % 4 = 0) ∧
    (∃ off : BitVec 32, regAt off.toNat = some (Reg.GLB_ID, 0, 0) ∧ off.toNat % 4 = 0) ∧
    (∃ off : BitVec 32, (regAt off.toNat).isSome = true ∧ off.toNat % 4 ≠ 0) ∧ regAt (0x7FFFF8 : Nat) = none :=
  ⟨⟨BitVec.ofNat 32 (Reg.CLK_STAT).desc.base, by decide +kernel⟩, ⟨0, by decide +kernel⟩, ⟨1, by decide +kernel⟩, by decide +kernel⟩

theorem witness_IdleStepIsOnePhaseCycle : State.reset.pending = [] := rfl

theorem witness_StepKeepsCanonicalForms :
    Memory.wf State.reset.mem = true ∧ Registers.wf State.reset.regs = true ∧
    (let s := { ops (cellFix 64) (cellFix 1) with pending := [.add 0 3 1 2] }
     Memory.wf s.mem = true ∧ Registers.wf s.regs = true ∧ (step s matches Host.Outcome.next _) = true) := by decide +kernel

theorem witness_CommandsKeepTheQueue :
    (let s := { ops (cellFix 64) (cellFix 1) with pending := [.alarmFire, .syncOutPulse] }
     (exec (.add 0 3 1 2) s matches Host.Outcome.next _) = true ∧ (after (exec (.add 0 3 1 2) s)).pending = [.alarmFire, .syncOutPulse]) := by
  decide +kernel

/-! ### Results worked out by hand from the spec -/

/-- R82: sums wrap at 2^64, and a RAW64 operand makes the result RAW64. -/
theorem test_addr_wraps : readReg (after (exec (.addr 0 3 1 2) (ops (cellRaw (2 ^ 64 - 1)) (cellFix 2)))) 0 3 = cellRaw 1 := by
  decide +kernel

/-- R82: the shift amount is rb[5:0]. -/
theorem test_shl_amount : readReg (after (exec (.shl 0 3 1 2) (ops (cellFix 1) (cellFix 65)))) 0 3 = cellFix 2 := by decide +kernel

/-- R82: a source may be the destination. -/
theorem test_subr_same : readReg (after (exec (.subr 0 1 1 2) (ops (cellFix 5) (cellFix 7)))) 0 1 = cellFixI (-2) := by decide +kernel

/-- R84: a field is sign-extended from bit len - 1. -/
theorem test_bfx_sign : readReg (after (exec (.bfx 0 3 1 2) (ops (cellRaw 0xF0) (cellFix 0x304)))) 0 3 = cellFixI (-1) := by
  decide +kernel

/-- R84: the leading zeros of 0 are 64. -/
theorem test_clz_zero : readReg (after (exec (.clz 0 3 1) (ops (cellFix 0) cellNil))) 0 3 = cellFix 64 := by decide +kernel

/-- Every register of the register file has its place in the list of all. -/
theorem test_reg (r : Reg) : Reg.all.getD r.ctorIdx .GLB_ID = r := by
  cases r <;> rfl

/-- R65, R66, R68: instruction words of formats J, I, A and B, and the all-zero word. -/
theorem test_instrOf :
    instrOf 0 0xB0000040 = some (.call 0 0x40) ∧ instrOf 0 0x42630008 = some (.addi 0 19 3 8) ∧
    instrOf 0 0x10821821 = some (.memq 0 4 2 3) ∧ instrOf 0 0x28000000 = some (.nop 0) ∧ instrOf 0 0 = none := by decide +kernel

end Sys2Proof.Tests
end

section
/-!
Windows of the register file: a word's bits after a field is replaced, the frame of an instruction that only changes
its core's context, and ENTER and LEAVE (R55, R56).
-/

namespace Sys2Proof.Machine

/-! ### Bits of a word with a field replaced -/

theorem getLsbD_eq_bitsOf (w : Word) (i : Nat) : w.getLsbD i = decide (bitsOf w i i = 1) := by
  rw [← BitVec.testBit_toNat, Nat.testBit_eq_decide_div_mod_eq, bitsOf, nbits, Nat.add_sub_cancel_left, Nat.pow_one]

theorem bitsOf_low4 (w : Word) : bitsOf w 3 0 = w.toNat % 16 := by simp [bitsOf, nbits]

theorem getLsbD_putBits_outside (w : Word) (hi lo v i : Nat) (h : lo ≤ hi) (hh : hi < 64) (hd : i < lo ∨ hi < i) :
    (putBits w hi lo v).getLsbD i = w.getLsbD i := by
  rw [getLsbD_eq_bitsOf, bitsOf_putBits_ne _ _ _ _ _ _ h hh hd, ← getLsbD_eq_bitsOf]

theorem getLsbD_putBit (w : Word) (i j : Nat) (b : Bool) (h : i < 64) :
    (putBit w i b).getLsbD j = if j = i then b else w.getLsbD j := by
  split
  case isTrue e =>
    subst e
    rw [getLsbD_eq_bitsOf, putBit, bitsOf_putBits_same _ _ _ _ le_rfl h]
    cases b <;> simp
  case isFalse e => exact getLsbD_putBits_outside _ _ _ _ _ le_rfl h (by omega)

/-! ### Physical cells written in bulk (R54, R57) -/

theorem mem_homeCells (w p : Nat) : p ∈ homeCells w ↔ 8 + 18 * w + 6 ≤ p ∧ p < 8 + 18 * w + 18 := by
  simp only [homeCells, List.mem_map, List.mem_range]
  exact ⟨fun ⟨i, hi, e⟩ => by omega, fun h => ⟨p - (8 + 18 * w + 6), by omega, by omega⟩⟩

theorem mem_incomingCells (w p : Nat) : p ∈ incomingCells w ↔ 8 + 18 * w ≤ p ∧ p < 8 + 18 * w + 6 := by
  simp only [incomingCells, List.mem_map, List.mem_range]
  exact ⟨fun ⟨i, hi, e⟩ => by omega, fun h => ⟨p - (8 + 18 * w), by omega, by omega⟩⟩

theorem sparseGet_putCells (ps : List Nat) (v : Cell) (x : Ctx) (l : Nat) :
    sparseGet (fun _ => cellVoid) (putCells (ps.map (fun p => (p, v))) x).cells l =
      if l ∈ ps then v else sparseGet (fun _ => cellVoid) x.cells l := by
  induction ps generalizing x with
  | nil => rfl
  | cons p ps ih =>
    have head : putCells ((p :: ps).map (fun p => (p, v))) x =
        putCells (ps.map (fun p => (p, v))) { x with cells := sparsePut (fun _ => cellVoid) p v x.cells } := rfl
    rw [head, ih]
    by_cases hp : l = p
    · simp [hp]
    · simp [hp, sparseGet_put_ne]

/-! ### An instruction that changes only its core's context -/

/-- The context of core `k` is changed by `f`, and execution goes on in order (R69). -/
def stepsBy (k : CoreId) (f : Ctx → Ctx) (s : State) : State := finish k.val .seq (modFront k.val f s)

@[simp] theorem stepFlow_seq_pc (x : Ctx) : (stepFlow .seq x).pc = x.npc := rfl
@[simp] theorem stepFlow_seq_pstat (x : Ctx) : (stepFlow .seq x).pstat = x.pstat := rfl
@[simp] theorem stepFlow_seq_csp (x : Ctx) : (stepFlow .seq x).csp = x.csp := rfl
@[simp] theorem stepFlow_seq_wstat (x : Ctx) : (stepFlow .seq x).wstat = x.wstat := rfl
@[simp] theorem stepFlow_seq_cells (x : Ctx) : (stepFlow .seq x).cells = x.cells := rfl
@[simp] theorem stepFlow_seq_ck (x : Ctx) : (stepFlow .seq x).ck = x.ck := rfl

section
variable (k : CoreId) (f : Ctx → Ctx) (s : State)

@[simp] theorem stepsBy_mem : (stepsBy k f s).mem = s.mem := rfl
@[simp] theorem stepsBy_regs : (stepsBy k f s).regs = s.regs := rfl

theorem getCore_stepsBy :
    getCore (stepsBy k f s) k.val = { getCore s k.val with front := stepFlow .seq (f (front s k.val)) } := by
  simp [stepsBy, finish, front]

@[simp] theorem front_stepsBy : front (stepsBy k f s) k.val = stepFlow .seq (f (front s k.val)) := by
  rw [front, getCore_stepsBy]

end

/-- A location below 300 is a physical cell of the front context (R121). -/
theorem readLoc_phys {c : CoreState} {l : Nat} (h : l < 300) :
    readLoc c l = sparseGet (fun _ => cellVoid) c.front.cells l := by rw [readLoc, if_pos h]

/-- A location that is no physical cell depends on the CLOAK and the MANTLE alone (R121). -/
theorem readLoc_congr {c d : CoreState} {l : Nat} (h : ¬ l < 300) (hck : c.front.ck = d.front.ck)
    (hm : c.mantle = d.mantle) : readLoc c l = readLoc d l := by
  simp only [readLoc, if_neg h, hck, hm]

/-- Physical cells read as the new context has them; the CLOAK and the MANTLE stay. -/
theorem readLoc_stepsBy (k : CoreId) (f : Ctx → Ctx) (s : State) (hck : (f (front s k.val)).ck = (front s k.val).ck)
    (l : Nat) : readLoc (getCore (stepsBy k f s) k.val) l =
      if l < 300 then sparseGet (fun _ => cellVoid) (f (front s k.val)).cells l
      else readLoc (getCore s k.val) l := by
  rw [getCore_stepsBy]
  split
  case isTrue h => exact readLoc_phys h
  case isFalse h => exact readLoc_congr h hck rfl

/-! ### ENTER (R55) -/

/-- WSTAT with window `n` current, valid and dirty. -/
def enterWstat (n : Nat) (w : Word) : Word := putBit (putBit (putBits w 3 0 n) (16 + n) true) (32 + n) true

theorem enterWstat_cwp {n : Nat} (h : n < 16) (w : Word) : (enterWstat n w).toNat % 16 = n := by
  rw [← bitsOf_low4, enterWstat, putBit, putBit, bitsOf_putBits_ne _ _ _ _ _ _ le_rfl (by omega) (by omega),
    bitsOf_putBits_ne _ _ _ _ _ _ le_rfl (by omega) (by omega), bitsOf_putBits_same _ _ _ _ (by omega) (by omega)]
  exact Nat.mod_eq_of_lt h

theorem getLsbD_enterWstat {n i : Nat} (h : n < 16) (hi : 4 ≤ i) (w : Word) :
    (enterWstat n w).getLsbD i = if i = 16 + n ∨ i = 32 + n then true else w.getLsbD i := by
  rw [enterWstat, getLsbD_putBit _ _ _ _ (by omega), getLsbD_putBit _ _ _ _ (by omega),
    getLsbD_putBits_outside _ _ _ _ _ (by omega) (by omega) (by omega), ← ite_or]
  exact if_congr or_comm rfl rfl

/-- The context after ENTER into window `n`. -/
def enterFrame (n : Nat) (x : Ctx) : Ctx :=
  putCells ((homeCells n ++ incomingCells ((n + 1) % 16)).map (fun p => (p, cellVoid)))
    { x with wstat := enterWstat n x.wstat }

section
variable (n : Nat) (x : Ctx)

@[simp] theorem enterFrame_npc : (enterFrame n x).npc = x.npc := by simp only [enterFrame, putCells]
@[simp] theorem enterFrame_pstat : (enterFrame n x).pstat = x.pstat := by simp only [enterFrame, putCells]
@[simp] theorem enterFrame_csp : (enterFrame n x).csp = x.csp := by simp only [enterFrame, putCells]
@[simp] theorem enterFrame_wstat : (enterFrame n x).wstat = enterWstat n x.wstat := by simp only [enterFrame, putCells]
@[simp] theorem enterFrame_ck : (enterFrame n x).ck = x.ck := by simp only [enterFrame, putCells]

theorem sparseGet_enterFrame (p : Nat) :
    sparseGet (fun _ => cellVoid) (enterFrame n x).cells p =
      if p ∈ homeCells n ∨ p ∈ incomingCells ((n + 1) % 16) then cellVoid
      else sparseGet (fun _ => cellVoid) x.cells p := by
  simp only [enterFrame, sparseGet_putCells, List.mem_append]

end

theorem exec_enter_traps (k : CoreId) {s s1 : State} {n : Nat} (h : Ready k s s1)
    (hn : (cwpOf (front s1 k.val) + 1) % 16 = n)
    (hv : (wvalid (front s1 k.val) n || wvalid (front s1 k.val) ((n + 1) % 16)) = true) :
    exec (.enter k) s = trapsWith k (trapOf vWovf 0) s1 := by
  subst hn
  exact runInstr_traps h (guardTrap_err hv _ _)

theorem exec_enter_opens (k : CoreId) {s s1 : State} {n : Nat} (h : Ready k s s1)
    (hn : (cwpOf (front s1 k.val) + 1) % 16 = n)
    (hv : (wvalid (front s1 k.val) n || wvalid (front s1 k.val) ((n + 1) % 16)) = false) :
    exec (.enter k) s = .next (stepsBy k (enterFrame n) s1) := by
  subst hn
  exact runInstr_completes h (guardTrap_ok hv _ _)

/-- ENTER makes the claimed cells VOID and leaves every other location alone. -/
theorem readLoc_enter (k : CoreId) (s : State) {n : Nat} (hn : n < 16) (p : Nat) :
    readLoc (getCore (stepsBy k (enterFrame n) s) k.val) p =
      if p ∈ homeCells n ∨ p ∈ incomingCells ((n + 1) % 16) then cellVoid else readLoc (getCore s k.val) p := by
  rw [readLoc_stepsBy _ _ _ (enterFrame_ck _ _)]
  split
  case isTrue hp => rw [sparseGet_enterFrame, readLoc_phys hp, front]
  case isFalse hp =>
    refine (if_neg ?_).symm
    rw [mem_homeCells, mem_incomingCells]
    omega

/-- Settles O20: the trap and the new frame are the two outcomes of ENTER's check of the claimed windows. -/
theorem enterOpensAFrame : Obligations.EnterOpensAFrame := by
  unfold Obligations.EnterOpensAFrame
  intro k s s1 h x n n1 valid claimed
  have hcwp : (cwpOf x + 1) % 16 = n := by rw [cwpOf, bitsOf_low4]
  have hn : n < 16 := Nat.mod_lt _ (by decide)
  constructor
  · intro hv
    exact exec_enter_traps k h hcwp (Bool.or_eq_true _ _ |>.mpr hv)
  · intro h0 h1
    refine ⟨_, exec_enter_opens k h hcwp (Bool.or_eq_false_iff.mpr ⟨h0, h1⟩), stepsBy_mem _ _ _, stepsBy_regs _ _ _, ?_⟩
    simp only [front_stepsBy, stepFlow_seq_pc, stepFlow_seq_pstat, stepFlow_seq_csp,
      stepFlow_seq_wstat, enterFrame_npc, enterFrame_pstat, enterFrame_csp, enterFrame_wstat]
    refine ⟨rfl, rfl, rfl, enterWstat_cwp hn _, fun i hi _ => getLsbD_enterWstat hn hi _, fun p _ => ?_⟩
    rw [readLoc_enter k s1 hn]
    exact if_congr (or_congr (mem_homeCells n p) (mem_incomingCells n1 p)) rfl rfl

/-! ### LEAVE (R56) -/

/-- WSTAT with the window before `cwp` current and window `cwp` neither valid nor dirty. -/
def leaveWstat (cwp : Nat) (w : Word) : Word :=
  putBits (putBit (putBit w (16 + cwp) false) (32 + cwp) false) 3 0 ((cwp + 15) % 16)

theorem leaveWstat_cwp (cwp : Nat) (w : Word) : (leaveWstat cwp w).toNat % 16 = (cwp + 15) % 16 := by
  rw [← bitsOf_low4, leaveWstat, bitsOf_putBits_same _ _ _ _ (by omega) (by omega)]
  exact Nat.mod_mod _ _

theorem getLsbD_leaveWstat {cwp i : Nat} (h : cwp < 16) (hi : 4 ≤ i) (w : Word) :
    (leaveWstat cwp w).getLsbD i = if i = 16 + cwp ∨ i = 32 + cwp then false else w.getLsbD i := by
  rw [leaveWstat, getLsbD_putBits_outside _ _ _ _ _ (by omega) (by omega) (by omega),
    getLsbD_putBit _ _ _ _ (by omega), getLsbD_putBit _ _ _ _ (by omega), ← ite_or]
  exact if_congr or_comm rfl rfl

/-- The context after LEAVE from window `cwp`. -/
def leaveFrame (cwp : Nat) (x : Ctx) : Ctx := { x with wstat := leaveWstat cwp x.wstat }

section
variable (cwp : Nat) (x : Ctx)

@[simp] theorem leaveFrame_npc : (leaveFrame cwp x).npc = x.npc := rfl
@[simp] theorem leaveFrame_pstat : (leaveFrame cwp x).pstat = x.pstat := rfl
@[simp] theorem leaveFrame_csp : (leaveFrame cwp x).csp = x.csp := rfl
@[simp] theorem leaveFrame_wstat : (leaveFrame cwp x).wstat = leaveWstat cwp x.wstat := rfl
@[simp] theorem leaveFrame_cells : (leaveFrame cwp x).cells = x.cells := rfl
@[simp] theorem leaveFrame_ck : (leaveFrame cwp x).ck = x.ck := rfl

end

theorem exec_leave_traps (k : CoreId) {s s1 : State} (h : Ready k s s1)
    (hv : wvalid (front s1 k.val) ((cwpOf (front s1 k.val) + 15) % 16) = false) :
    exec (.leave k) s = trapsWith k (trapOf vWunf 0) s1 :=
  runInstr_traps h (guardTrap_err (Bool.not_eq_true' _ |>.mpr hv) _ _)

theorem exec_leave_returns (k : CoreId) {s s1 : State} (h : Ready k s s1)
    (hv : wvalid (front s1 k.val) ((cwpOf (front s1 k.val) + 15) % 16) = true) :
    exec (.leave k) s = .next (stepsBy k (leaveFrame (cwpOf (front s1 k.val))) s1) :=
  runInstr_completes h (guardTrap_ok (Bool.not_eq_false' _ |>.mpr hv) _ _)

/-- LEAVE leaves every location alone. -/
theorem readLoc_leave (k : CoreId) (s : State) (cwp p : Nat) :
    readLoc (getCore (stepsBy k (leaveFrame cwp) s) k.val) p = readLoc (getCore s k.val) p := by
  rw [readLoc_stepsBy _ _ _ (leaveFrame_ck _ _)]
  split
  case isTrue hp => rw [leaveFrame_cells, readLoc_phys hp, front]
  case isFalse => rfl

/-- Settles O21: the trap and the return are the two outcomes of LEAVE's check of the caller's window. -/
theorem leaveReturnsToTheCaller : Obligations.LeaveReturnsToTheCaller := by
  unfold Obligations.LeaveReturnsToTheCaller
  intro k s s1 h x cwp w
  have hcwp : cwpOf x = cwp := bitsOf_low4 _
  have hlt : cwp < 16 := Nat.mod_lt _ (by decide)
  have trap := exec_leave_traps k h
  have back := exec_leave_returns k h
  rw [hcwp] at trap back
  refine ⟨trap, fun hv => ⟨_, back hv, stepsBy_mem _ _ _, stepsBy_regs _ _ _, ?_⟩⟩
  simp only [front_stepsBy, stepFlow_seq_pc, stepFlow_seq_pstat, stepFlow_seq_csp,
    stepFlow_seq_wstat, leaveFrame_npc, leaveFrame_pstat, leaveFrame_csp, leaveFrame_wstat]
  exact ⟨rfl, rfl, rfl, leaveWstat_cwp cwp _, fun i hi _ => getLsbD_leaveWstat hlt hi _,
    fun p _ => readLoc_leave k s1 cwp p⟩

end Sys2Proof.Machine
end

section
/-!
The tag instructions TAGR, TCLS and TSET (R89, R90).
-/

namespace Sys2Proof.Machine

/-! ### TAGR and TCLS -/

theorem exec_tagr (k : CoreId) (rd ra : Gpr) {s s1 : State} (h : Ready k s s1) :
    exec (.tagr k rd ra) s = gives k rd (cellFix (w64 (readReg s1 k.val ra).tag.toNat)) s1 := by
  change execTagr k rd ra s = _
  exact runInstr_gives h rfl

theorem exec_tcls (k : CoreId) (rd ra : Gpr) {s s1 : State} (h : Ready k s s1) :
    exec (.tcls k rd ra) s = gives k rd (cellFix (w64 (tagClass (readReg s1 k.val ra).tag))) s1 := by
  change execTcls k rd ra s = _
  exact runInstr_gives h rfl

/-! ### TSET -/

/-- The level of a tag by the table of R90: POISON by its code, every other tag by its class. -/
theorem tagLevel_eq (t : Tag) : tagLevel t =
    if t = tagPoison then 2 else if tagClass t = 2 ∨ tagClass t = 4 ∨ tagClass t = 5 then 1 else 0 := by
  simp only [tagLevel, Bool.or_eq_true, decide_eq_true_eq, or_assoc]

/-- The tag that TSET takes from the payload of rb (R89). -/
def givenTag (b : Cell) : Tag := BitVec.ofNat 8 (bitsOf b.data 7 0)

theorem givenTag_eq (b : Cell) : givenTag b = BitVec.ofNat 8 (b.data.toNat % 256) := by
  simp [givenTag, bitsOf, nbits]

section
variable (k : CoreId) (rd : Gpr) {ra rb : Gpr} {s s1 : State} {t : Tag}

/-- A POISON ra is reported whatever rb is: it stands to the left of rb. -/
theorem tsetBody_poison (ha : (readReg s k.val ra).tag = tagPoison) :
    tsetBody k rd ra rb s = .error (trapOn vPoisonUse 0 ra.val tagPoison) := by
  simp only [tsetBody, if_pos ha]
  exact withOps_err (checkOps_poison ha) _

/-- With operands that pass their checks the level is judged first, then the tag. -/
theorem tsetBody_judges (ha : (readReg s k.val ra).tag ≠ tagPoison) (hb : RawCell (readReg s k.val rb))
    (ht : givenTag (readReg s k.val rb) = t) :
    tsetBody k rd ra rb s =
      guardTrap (decide (plOf (front s k.val) < tagLevel t)) (privOp 0)
        (guardTrap (isReservedTag t) (trapOn vTagCheck 3 rb.val (readReg s k.val rb).tag)
          (done k rd ⟨t, (readReg s k.val ra).data⟩ s)) := by
  subst ht
  simp only [tsetBody, if_neg ha]
  exact withOps_raw1 hb _

theorem exec_tset_poison (h : Ready k s s1) (ha : (readReg s1 k.val ra).tag = tagPoison) :
    exec (.tset k rd ra rb) s = trapsWith k (trapOn vPoisonUse 0 ra.val tagPoison) s1 :=
  runInstr_traps h (tsetBody_poison k rd ha)

theorem exec_tset_privOp (h : Ready k s s1) (ha : (readReg s1 k.val ra).tag ≠ tagPoison)
    (hb : RawCell (readReg s1 k.val rb)) (ht : givenTag (readReg s1 k.val rb) = t)
    (hl : plOf (front s1 k.val) < tagLevel t) :
    exec (.tset k rd ra rb) s = trapsWith k (privOp 0) s1 :=
  runInstr_traps h ((tsetBody_judges k rd ha hb ht).trans (guardTrap_err (decide_eq_true hl) _ _))

theorem exec_tset_reserved (h : Ready k s s1) (ha : (readReg s1 k.val ra).tag ≠ tagPoison)
    (hb : RawCell (readReg s1 k.val rb)) (ht : givenTag (readReg s1 k.val rb) = t)
    (hl : tagLevel t ≤ plOf (front s1 k.val)) (hr : isReservedTag t = true) :
    exec (.tset k rd ra rb) s = trapsWith k (trapOn vTagCheck 3 rb.val (readReg s1 k.val rb).tag) s1 := by
  refine runInstr_traps h ?_
  rw [tsetBody_judges k rd ha hb ht, guardTrap_ok (decide_eq_false hl.not_gt), guardTrap_err hr]

theorem exec_tset_gives (h : Ready k s s1) (ha : (readReg s1 k.val ra).tag ≠ tagPoison)
    (hb : RawCell (readReg s1 k.val rb)) (ht : givenTag (readReg s1 k.val rb) = t)
    (hl : tagLevel t ≤ plOf (front s1 k.val)) (hr : isReservedTag t = false) :
    exec (.tset k rd ra rb) s = gives k rd ⟨t, (readReg s1 k.val ra).data⟩ s1 := by
  refine runInstr_gives h ?_
  rw [tsetBody_judges k rd ha hb ht, guardTrap_ok (decide_eq_false hl.not_gt), guardTrap_ok hr]

end

/-- Settles O17: TSET's outcomes are those of its operand check, its level check and its check for a reserved tag, and
the level the statement names is the model's. -/
theorem tagInstructionLevels : Obligations.TagInstructionLevels := by
  unfold Obligations.TagInstructionLevels
  intro k rd ra rb s s1 h a b t cls level needed
  have ht : givenTag b = t := givenTag_eq b
  have hneeded : tagLevel t = needed := tagLevel_eq t
  refine ⟨exec_tagr k rd ra h, exec_tcls k rd ra h, fun ha hb => ⟨fun hl hr => ?_, fun hl => ?_, fun hl hr => ?_⟩,
    exec_tset_poison k rd h⟩
  · exact exec_tset_gives k rd h ha hb ht (hneeded.trans_le hl) hr
  · exact exec_tset_privOp k rd h ha hb ht (hl.trans_eq hneeded.symm)
  · exact exec_tset_reserved k rd h ha hb ht (hneeded.trans_le hl) hr

end Sys2Proof.Machine
end
